-- ==== Sys2Proof/Word.lean ====
section
/-! DEFINITION. The word types of the PA-4816 model and the sparse tables its state is made of. -/

namespace Sys2Proof

/-- One byte (00_scope R9: multi-byte fields are little-endian). -/
abbrev Byte := BitVec 8

/-- An addressed memory: (address, byte) cells, addresses strictly rising, no zero byte listed. -/
abbrev Mem := List Host.Cell

/-- A table of like things under natural-number keys, keys strictly rising; a key that is not listed stands for
the unit's reset value, which the reader of the table names. -/
abbrev Tab (α : Type) := List (Nat × α)

/-- One of the module's two equal host ports (10_host_interface_and_queues R316). -/
inductive Port where
  | A
  | B
  deriving DecidableEq, Repr

end Sys2Proof
end

