-- ==== Sys2Proof/Syntax.lean ====
section
/-! DEFINITION. The commands of the block: one constructor of `Instr` for each row of spec/opcode_table.json, and the
plain data their operands are made of. Native commands carry their Shell and the fields of the 32-byte command
(09_command_streams R288); event rows carry the unit they happen in and the measured value where there is one. -/

namespace Sys2Proof

/-- The fields of a native command besides its opcode (R288). `rsv` is bits [15:14]; bit 16 of the command is bit 0
of `ctl`. -/
structure Cmd where
  form : BitVec 2
  adv : BitVec 4
  rsv : BitVec 2
  ctl : BitVec 16
  imm : BitVec 32
  opa : BitVec 64
  opb : BitVec 64
  opc : BitVec 64
  deriving DecidableEq, Repr

/-- A task is named by its ring and its descriptor index (R348, R354). -/
structure TaskRef where
  port : Port
  fn : Fin 32
  ring : Fin 8
  index : BitVec 32
  deriving DecidableEq, Repr

/-- A mailbox channel is named by its sender and its set (R505). Function 0 is the PF. -/
inductive Chan where
  | fn (p : Port) (f : Fin 32) (secure : Bool)
  | bmc (secure : Bool)
  | uart
  deriving DecidableEq, Repr

/-- What a link partner offers at training (R317): protocols, lanes and rate code (0: 8, 1: 16, 2: 32 GT/s). -/
structure Partner where
  cxl : Bool
  cache : Bool
  mem : Bool
  width : Nat
  rate : Nat
  deriving DecidableEq, Repr

/-- A read of some bytes, or a write of these bytes. -/
inductive Access where
  | read (n : Nat)
  | write (bs : List Byte)
  deriving DecidableEq, Repr

/-- A host access by device physical address through CXL.mem or BAR2 (R319). -/
structure MemAccess where
  addr : Nat
  acc : Access
  deriving DecidableEq, Repr

/-- The options of a drain (R522). -/
structure DrainOpts where
  abort : Bool
  test : Bool
  replace : Bool
  deriving DecidableEq, Repr

/-- The operations of the big-number engine (R555). -/
inductive PkOp where
  | rsaPrivate
  | rsaPublic
  | ecdsaSign
  | ecdsaVerify
  | ecdh
  deriving DecidableEq, Repr

/-- A request of `PK_RUN` (R557): operation, slot, staging offsets and lengths of operands and result. -/
structure PkReq where
  op : PkOp
  slot : Fin 64
  src : Nat
  len : Nat
  dst : Nat
  deriving DecidableEq, Repr

/-- One sensor reading: in range, with its value, or outside its range (R500). Temperatures are in 0.25 °C. -/
inductive Reading where
  | ok (v : Nat)
  | bad
  deriving DecidableEq, Repr

/-- The quantities Cox publishes (R499): feed and bus voltages in 10 mV, currents in 10 mA, auxiliary in mV and mA,
package power in 0.1 W, regulator temperatures, coolant in 0.1 °C. -/
structure Readings where
  feedA : Reading
  feedB : Reading
  vin : Reading
  curA : Reading
  curB : Reading
  auxV : Reading
  auxI : Reading
  power : Reading
  regs : List Reading
  coolant : Reading
  deriving DecidableEq, Repr

/-- A die sensor reading (R476): hotspots of die 0, of die 1 and of the IOD. -/
structure DieReadings where
  die0 : List Reading
  die1 : List Reading
  iod : List Reading
  deriving DecidableEq, Repr

/-- What the power controller measured in one interval (R465): estimated power of IOD, stacks and fabric in 0.01 W,
and each Shell's demand in 0.01 W, metered with the factory weights. -/
structure PowerIn where
  other : Nat
  demand : List Nat
  deriving DecidableEq, Repr

/-- What the controller charges in one 10 µs interval (R490): package energy and ballast in nJ, each Shell's metered
energy in nJ, the static share of each Shell, and the energy of each feed in µJ. -/
structure EnergyIn where
  total : Nat
  ballast : Nat
  shells : List Nat
  share : Nat
  feedA : Nat
  feedB : Nat
  deriving DecidableEq, Repr

/-- Results of the self-tests of start-up phase 5 (R592): physical Shells, key units and other units that failed. -/
structure SelfTest where
  shells : List (Fin 68)
  units : List (Fin 16)
  fatal : Bool
  deriving DecidableEq, Repr

/-- Who reads or writes a stack (R404, R410): a Shell's agent of the critical or stream class, a key streamer, a
management agent or a port's host. -/
inductive StackReq where
  | shell (sh : Fin 64) (stream : Bool)
  | keyStreamer (sh : Fin 64)
  | management
  | host (p : Port)
  deriving DecidableEq, Repr

/-- An access through a scratchpad window from a Shell of this module (R206, R208, R209): requester, owner Shell,
window byte offset inside window entry `win`. -/
structure WinReq where
  src : Fin 64
  owner : Fin 64
  win : Fin 16
  off : Nat
  acc : Access
  deriving DecidableEq, Repr

/-- A message that reaches a powered-down domain (R516), by requester. -/
inductive GuardReq where
  | task (sh : Fin 64) (addr : BitVec 64)
  | peer (p : Port) (read : Bool)
  | hostRead (p : Port) (f : Fin 32)
  | hostWrite (p : Port) (f : Fin 32)
  | mailbox (c : Chan)
  | cox
  deriving DecidableEq, Repr

/-- What a register write carries: its value, and the RW1C bits of the aligned 64-bit word that hardware sets in the cycle of
the write (R14, log 161). -/
structure RegData where
  value : BitVec 64
  same : BitVec 64
  deriving DecidableEq, Repr

/-- The commands of the PA-4816, one constructor for each row of the table of operations and events;
the events without an operand stand last. -/
inductive Instr where
  /-- `NOP` (R294). -/
  | nop (sh : Fin 64) (w : Cmd)
  /-- `END` (R297). -/
  | endStream (sh : Fin 64) (w : Cmd)
  /-- `LOOP` (R299). -/
  | loop (sh : Fin 64) (w : Cmd)
  /-- `LEND` (R299). -/
  | lend (sh : Fin 64) (w : Cmd)
  /-- `LSET` (R298). -/
  | lset (sh : Fin 64) (w : Cmd)
  /-- `HINT` (R305). -/
  | hint (sh : Fin 64) (w : Cmd)
  /-- `PTEST` (R302). -/
  | ptest (sh : Fin 64) (w : Cmd)
  /-- `SKIP` (R303). -/
  | skip (sh : Fin 64) (w : Cmd)
  /-- `MULADD` (R57). -/
  | muladd (sh : Fin 64) (w : Cmd)
  /-- `MUL` (R57). -/
  | mul (sh : Fin 64) (w : Cmd)
  /-- `ADD` (R57). -/
  | add (sh : Fin 64) (w : Cmd)
  /-- `SUB` (R57). -/
  | sub (sh : Fin 64) (w : Cmd)
  /-- `NEG` (R57). -/
  | neg (sh : Fin 64) (w : Cmd)
  /-- `MOV` (R57). -/
  | mov (sh : Fin 64) (w : Cmd)
  /-- `NTT` (R84). -/
  | ntt (sh : Fin 64) (w : Cmd)
  /-- `INTT` (R85). -/
  | intt (sh : Fin 64) (w : Cmd)
  /-- `AUTO` (R100). -/
  | auto (sh : Fin 64) (w : Cmd)
  /-- `BCONV` (R105). -/
  | bconv (sh : Fin 64) (w : Cmd)
  /-- `CHAIN_SET` (R62). -/
  | chainSet (sh : Fin 64) (w : Cmd)
  /-- `CHAIN_DROP` (R66). -/
  | chainDrop (sh : Fin 64) (w : Cmd)
  /-- `KEY_INSTALL` (R124). -/
  | keyInstall (sh : Fin 64) (w : Cmd)
  /-- `KEY_DROP` (R126). -/
  | keyDrop (sh : Fin 64) (w : Cmd)
  /-- `KEY_OPEN` (R132). -/
  | keyOpen (sh : Fin 64) (w : Cmd)
  /-- `KEY_PIN` (R141). -/
  | keyPin (sh : Fin 64) (w : Cmd)
  /-- `KIP` (R139). -/
  | kip (sh : Fin 64) (w : Cmd)
  /-- `KEY_CLOSE` (R138). -/
  | keyClose (sh : Fin 64) (w : Cmd)
  /-- `HADD` (R152). -/
  | hadd (sh : Fin 64) (w : Cmd)
  /-- `HSUB` (R152). -/
  | hsub (sh : Fin 64) (w : Cmd)
  /-- `HNEG` (R152). -/
  | hneg (sh : Fin 64) (w : Cmd)
  /-- `HMULC` (R153). -/
  | hmulc (sh : Fin 64) (w : Cmd)
  /-- `HMULP` (R154). -/
  | hmulp (sh : Fin 64) (w : Cmd)
  /-- `HMUL` (R155). -/
  | hmul (sh : Fin 64) (w : Cmd)
  /-- `RELIN` (R158). -/
  | relin (sh : Fin 64) (w : Cmd)
  /-- `ROTATE` (R158). -/
  | rotate (sh : Fin 64) (w : Cmd)
  /-- `KSWITCH` (R158). -/
  | kswitch (sh : Fin 64) (w : Cmd)
  /-- `RESCALE` (R159). -/
  | rescale (sh : Fin 64) (w : Cmd)
  /-- `LVLDROP` (R161). -/
  | lvldrop (sh : Fin 64) (w : Cmd)
  /-- `BOOT` (R172). -/
  | boot (sh : Fin 64) (w : Cmd)
  /-- `SADD` (R180). -/
  | sadd (sh : Fin 64) (w : Cmd)
  /-- `SSUB` (R180). -/
  | ssub (sh : Fin 64) (w : Cmd)
  /-- `SNEG` (R180). -/
  | sneg (sh : Fin 64) (w : Cmd)
  /-- `SMULC` (R180). -/
  | smulc (sh : Fin 64) (w : Cmd)
  /-- `SMULP` (R180). -/
  | smulp (sh : Fin 64) (w : Cmd)
  /-- `SMUL` (R180). -/
  | smul (sh : Fin 64) (w : Cmd)
  /-- `SBEAVER` (R181). -/
  | sbeaver (sh : Fin 64) (w : Cmd)
  /-- `VLOAD` (R254). -/
  | vload (sh : Fin 64) (w : Cmd)
  /-- `VSTORE` (R253). -/
  | vstore (sh : Fin 64) (w : Cmd)
  /-- `VADD` (R253). -/
  | vadd (sh : Fin 64) (w : Cmd)
  /-- `VSUB` (R253). -/
  | vsub (sh : Fin 64) (w : Cmd)
  /-- `VMUL` (R253). -/
  | vmul (sh : Fin 64) (w : Cmd)
  /-- `VFMA` (R253). -/
  | vfma (sh : Fin 64) (w : Cmd)
  /-- `VMAX` (R253). -/
  | vmax (sh : Fin 64) (w : Cmd)
  /-- `VMIN` (R253). -/
  | vmin (sh : Fin 64) (w : Cmd)
  /-- `VNEG` (R253). -/
  | vneg (sh : Fin 64) (w : Cmd)
  /-- `VABS` (R253). -/
  | vabs (sh : Fin 64) (w : Cmd)
  /-- `VCVT` (R253). -/
  | vcvt (sh : Fin 64) (w : Cmd)
  /-- `VRED` (R256). -/
  | vred (sh : Fin 64) (w : Cmd)
  /-- `VDOT` (R256). -/
  | vdot (sh : Fin 64) (w : Cmd)
  /-- `VUPD` (R261). -/
  | vupd (sh : Fin 64) (w : Cmd)
  /-- `VSEED` (R259). -/
  | vseed (sh : Fin 64) (w : Cmd)
  /-- `VMODE` (R263). -/
  | vmode (sh : Fin 64) (w : Cmd)
  /-- `ENCODE` (R269). -/
  | encode (sh : Fin 64) (w : Cmd)
  /-- `TCOPY` (R239). -/
  | tcopy (sh : Fin 64) (w : Cmd)
  /-- `TPERM` (R240). -/
  | tperm (sh : Fin 64) (w : Cmd)
  /-- `TDESC_CREATE` (R223). -/
  | tdescCreate (sh : Fin 64) (w : Cmd)
  /-- `TDESC_FREE` (R293). -/
  | tdescFree (sh : Fin 64) (w : Cmd)
  /-- `SCACHE_INV` (R203). -/
  | scacheInv (sh : Fin 64) (w : Cmd)
  /-- `WIN_OPEN` (R207). -/
  | winOpen (sh : Fin 64) (w : Cmd)
  /-- `WIN_CLOSE` (R210). -/
  | winClose (sh : Fin 64) (w : Cmd)
  /-- `CATCH` (R379). -/
  | catch (sh : Fin 64) (w : Cmd)
  /-- `SCNT` (R374). -/
  | scnt (sh : Fin 64) (w : Cmd)
  /-- `SWAIT` (R374). -/
  | swait (sh : Fin 64) (w : Cmd)
  /-- `VIGIL` (R383). -/
  | vigil (sh : Fin 64) (w : Cmd)
  /-- `VIGIL_DROP` (R385). -/
  | vigilDrop (sh : Fin 64) (w : Cmd)
  /-- `STROKE_CORE_START` (R287). -/
  | strokeCoreStart (sh : Fin 64)
  /-- `STREAM_FETCH_BLOCK` (R287). -/
  | streamFetchBlock (sh : Fin 64) (blk : Nat)
  /-- `ASYNC_COPY_SIGNAL` (R296). -/
  | asyncCopySignal (sh : Fin 64) (outbound : Bool) (i : Fin 8)
  /-- `RELEASE_TAKES_EFFECT` (R371). -/
  | releaseTakesEffect (sh : Fin 64)
  /-- `SYNC_COUNTER_UPDATE` (R375). -/
  | syncCounterUpdate (ctx : Fin 256) (cnt : Fin 256)
  /-- `VIGIL_FIRE` (R384). -/
  | vigilFire (die : Fin 2) (v : Fin 1024)
  /-- `STALL_REPORT` (R392). -/
  | stallReport (t : TaskRef)
  /-- `KEY_STREAM_DELIVERY_START` (R131). -/
  | keyStreamDeliveryStart (sh : Fin 64) (num : Fin 2)
  /-- `KEY_PAIR_DELIVERY` (R135). -/
  | keyPairDelivery (sh : Fin 64) (num : Fin 2)
  /-- `EXPANDER_SEGMENT` (R129). -/
  | expanderSegment (sh : Fin 64) (num : Fin 2) (d : Nat) (j : Fin 64) (t : Nat)
  /-- `KEY_IMAGE_WHOLE` (R141). -/
  | keyImageWhole (sh : Fin 64) (num : Fin 2)
  /-- `BOOT_GROUP_START` (R167). -/
  | bootGroupStart (sh : Fin 64)
  /-- `STREAM_END` (R297). -/
  | streamEnd (sh : Fin 64)
  /-- `SHELL_END_OF_TASK` (R213). -/
  | shellEndOfTask (sh : Fin 64)
  /-- `PREEMPT_REQUEST` (R350). -/
  | preemptRequest (t : TaskRef)
  /-- `TASK_YIELD` (R313). -/
  | taskYield (t : TaskRef)
  /-- `TASK_RESUME` (R351). -/
  | taskResume (t : TaskRef)
  /-- `DOORBELL_SNOOP` (R336). -/
  | doorbellSnoop (p : Port) (f : Fin 32) (r : Fin 8)
  /-- `DOORBELL_POLL` (R337). -/
  | doorbellPoll (p : Port)
  /-- `DOORBELL_LINE_READ` (R335). -/
  | doorbellLineRead (p : Port) (f : Fin 32) (r : Fin 8)
  /-- `DESCRIPTOR_FETCH` (R338). -/
  | descriptorFetch (p : Port) (f : Fin 32) (r : Fin 8)
  /-- `NOP_TASK_COMPLETE` (R342). -/
  | nopTaskComplete (t : TaskRef)
  /-- `LOAD_TASK` (R279). -/
  | loadTask (t : TaskRef)
  /-- `COMPLETION_ENTRY_WRITE` (R356). -/
  | completionEntryWrite (t : TaskRef)
  /-- `COALESCE_TIMER` (R358). -/
  | coalesceTimer (p : Port) (f : Fin 32) (r : Fin 8)
  /-- `LINK_DOWN` (R321). -/
  | linkDown (p : Port)
  /-- `LINK_TRAINING` (R317). -/
  | linkTraining (p : Port) (o : Partner)
  /-- `FUNCTION_LEVEL_RESET` (R352). -/
  | functionLevelReset (p : Port) (f : Fin 32)
  /-- `ATS_INVALIDATION` (R328). -/
  | atsInvalidation (p : Port) (page : Nat)
  /-- `HOST_MEMORY_ACCESS` (R319). -/
  | hostMemoryAccess (p : Port) (a : MemAccess)
  /-- `PERST_ASSERT` (R601). -/
  | perstAssert (p : Port) (us : Nat)
  /-- `PERST_DEASSERT` (R612). -/
  | perstDeassert (p : Port)
  /-- `RING_ENABLE` (R332). -/
  | ringEnable (p : Port) (f : Fin 32) (r : Fin 8)
  /-- `RING_DISABLE` (R638). -/
  | ringDisable (p : Port) (f : Fin 32) (r : Fin 8)
  /-- `CTX_CREATE` (R632). -/
  | ctxCreate (p : Port) (f : Fin 32) (id : Fin 256)
  /-- `CTX_DESTROY` (R325). -/
  | ctxDestroy (p : Port) (f : Fin 32) (id : Fin 256)
  /-- `CTX_TLB_INVALIDATE` (R328). -/
  | ctxTlbInvalidate (p : Port) (f : Fin 32) (id : Fin 256)
  /-- `TASK_ABORT_CONTROL` (R348). -/
  | taskAbortControl (p : Port) (f : Fin 32) (r : Fin 8) (index : BitVec 32)
  /-- `QUOTA_WRITE` (R632). -/
  | quotaWrite (p : Port) (f : Fin 32) (i : Fin 4) (v : BitVec 64)
  /-- `SEMAPHORE_CLAIM` (R362). -/
  | semaphoreClaim (p : Port) (f : Fin 32) (k : Fin 6) (both : Bool)
  /-- `SEMAPHORE_RELEASE` (R363). -/
  | semaphoreRelease (p : Port) (f : Fin 32) (k : Fin 6)
  /-- `SEMAPHORE_LINK_TIMEOUT` (R363). -/
  | semaphoreLinkTimeout (k : Fin 6)
  /-- `FIXED_MODE_REQUEST` (R453). -/
  | fixedModeRequest (p : Port) (f : Fin 32)
  /-- `FREE_MODE_REQUEST` (R453). -/
  | freeModeRequest (p : Port) (f : Fin 32)
  /-- `COLD_RESET_REQUEST` (R601). -/
  | coldResetRequest (p : Port) (f : Fin 32)
  /-- `WARM_RESET_REQUEST` (R601). -/
  | warmResetRequest (p : Port) (f : Fin 32)
  /-- `RECOVERY_RELEASE` (R600). -/
  | recoveryRelease (p : Port) (f : Fin 32)
  /-- `COUNTER_DUMP` (R574). -/
  | counterDump (p : Port) (f : Fin 32) (both : Bool)
  /-- `ALMANAC_SET` (R645). -/
  | almanacSet (p : Port) (f : Fin 32) (v : BitVec 64)
  /-- `LAUNCH_GATE_ARM` (R646). -/
  | launchGateArm (p : Port) (f : Fin 32) (g : Fin 8)
  /-- `LAUNCH_GATE_FIRE` (R450). -/
  | launchGateFire (p : Port) (g : Fin 8)
  /-- `FRAME_RETIREMENT_ACK` (R647). -/
  | frameRetirementAck (p : Port) (f : Fin 32) (frame : BitVec 17)
  /-- `REGION_ENTRY_WRITE` (R649). -/
  | regionEntryWrite (p : Port) (f : Fin 32) (sh : Fin 64) (e : Fin 32) (v : BitVec 64)
  /-- `CACHE_SIZE_WRITE` (R205). -/
  | cacheSizeWrite (p : Port) (f : Fin 32) (sh : Fin 64) (v : BitVec 3)
  /-- `CACHE_SIZE_APPLY` (R205). -/
  | cacheSizeApply (sh : Fin 64)
  /-- `MEMORY_WINDOW_ENABLE` (R435). -/
  | memoryWindowEnable (p : Port) (f : Fin 32) (w : Fin 16)
  /-- `MEMORY_WINDOW_DISABLE` (R436). -/
  | memoryWindowDisable (p : Port) (f : Fin 32) (w : Fin 16)
  /-- `MEMORY_WINDOW_CLOSE_DONE` (R436). -/
  | memoryWindowCloseDone (ctx : Fin 256) (w : Fin 16)
  /-- `PEER_TABLE_WRITE` (R431). -/
  | peerTableWrite (p : Port) (f : Fin 32) (e : Fin 64) (v : BitVec 64)
  /-- `MAILBOX_GO` (R508). -/
  | mailboxGo (c : Chan)
  /-- `MAILBOX_ABORT` (R509). -/
  | mailboxAbort (c : Chan)
  /-- `INBOUND_WORD_WRITE` (R510). -/
  | inboundWordWrite (c : Chan) (v : BitVec 32)
  /-- `OUTBOUND_WORD_RELEASE` (R510). -/
  | outboundWordRelease (c : Chan)
  /-- `LONG_OPERATION_END` (R510). -/
  | longOperationEnd (c : Chan)
  /-- `DEBUG_SET_COUNTER` (R393). -/
  | debugSetCounter (p : Port) (f : Fin 32)
  /-- `DEBUG_FORCE_ARRIVAL` (R393). -/
  | debugForceArrival (p : Port) (f : Fin 32)
  /-- `DEBUG_FORCE_GENERATION` (R393). -/
  | debugForceGeneration (p : Port) (f : Fin 32)
  /-- `DEBUG_FIRE_VIGIL` (R393). -/
  | debugFireVigil (p : Port) (f : Fin 32)
  /-- `DEBUG_DROP_VIGIL` (R393). -/
  | debugDropVigil (p : Port) (f : Fin 32)
  /-- `TRACE_MARK` (R583). -/
  | traceMark (p : Port) (f : Fin 32)
  /-- `TASK_FREEZE` (R584). -/
  | taskFreeze (p : Port) (f : Fin 32)
  /-- `FREEZE_RELEASE` (R584). -/
  | freezeRelease (p : Port) (f : Fin 32)
  /-- `TRACE_DISABLE` (R582). -/
  | traceDisable (p : Port) (f : Fin 32)
  /-- `TRACE_RECORD_ACCEPT` (R582). -/
  | traceRecordAccept (k : Fin 2)
  /-- `REGISTER_WRITE` (R13, R14). -/
  | registerWrite (p : Port) (f : Fin 32) (off : BitVec 18) (size : Nat) (v : RegData)
  /-- `STATUS` (R515). -/
  | status (c : Chan)
  /-- `SENSOR_READ` (R512). -/
  | sensorRead (c : Chan)
  /-- `LOG_READ` (R504). -/
  | logRead (c : Chan) (seq : BitVec 32)
  /-- `CFG_READ` (R515). -/
  | cfgRead (c : Chan) (ty : BitVec 8)
  /-- `CFG_WRITE` (R519). -/
  | cfgWrite (c : Chan) (rec : List Byte)
  /-- `FW_STAGE` (R527). -/
  | fwStage (c : Chan)
  /-- `FW_VERIFY` (R527). -/
  | fwVerify (c : Chan)
  /-- `FW_ACTIVATE` (R528). -/
  | fwActivate (c : Chan)
  /-- `FW_COMMIT` (R529). -/
  | fwCommit (c : Chan)
  /-- `SHELL_DRAIN` (R522). -/
  | shellDrain (c : Chan) (L : Fin 64) (o : DrainOpts)
  /-- `SHELL_DRAIN_PROCEED` (R522). -/
  | shellDrainProceed (L : Fin 64) (testPassed : Bool)
  /-- `SHELL_REJOIN` (R523). -/
  | shellRejoin (c : Chan) (L : Fin 64)
  /-- `UNIT_RESET` (R525). -/
  | unitReset (c : Chan) (u : Fin 16)
  /-- `UNIT_RESET_TIMEOUT` (R525). -/
  | unitResetTimeout (u : Fin 16) (testPassed : Bool)
  /-- `PORT_RESET` (R526). -/
  | portReset (c : Chan) (q : Port)
  /-- `CALIB_RUN` (R531). -/
  | calibRun (c : Chan)
  /-- `STAGE_WRITE` (R549). -/
  | stageWrite (c : Chan)
  /-- `STAGE_READ` (R549). -/
  | stageRead (c : Chan) (off : Nat) (n : Nat)
  /-- `KS_INFO` (R544). -/
  | ksInfo (c : Chan) (slot : Fin 64)
  /-- `KS_IMPORT` (R545). -/
  | ksImport (c : Chan) (slot : Fin 64) (attr : BitVec 256)
  /-- `KS_ERASE` (R547). -/
  | ksErase (c : Chan) (slot : Fin 64)
  /-- `KS_ROLL` (R547). -/
  | ksRoll (c : Chan) (slot : Fin 64) (attr : BitVec 256)
  /-- `PK_RUN` (R557). -/
  | pkRun (c : Chan) (q : PkReq)
  /-- `ATTEST` (R553). -/
  | attest (c : Chan) (nonce : BitVec 256)
  /-- `ID_READ` (R561). -/
  | idRead (c : Chan)
  /-- `SMB_STATUS_BYTE` (R517). -/
  | smbStatusByte (pec : Bool)
  /-- `SMB_SENSOR_BLOCK_READ` (R517). -/
  | smbSensorBlockRead (pec : Bool)
  /-- `SMB_SELECT_CHANNEL` (R517). -/
  | smbSelectChannel (pec : Bool) (w : BitVec 16)
  /-- `SMB_BLOCK_WRITE` (R517). -/
  | smbBlockWrite (pec : Bool) (bs : List Byte)
  /-- `SMB_BLOCK_READ` (R517). -/
  | smbBlockRead (pec : Bool) (n : Nat)
  /-- `SMB_CONTROL_ACCESS` (R517). -/
  | smbControlAccess (pec : Bool) (w : Option Byte)
  /-- `UART_FRAME` (R585). -/
  | uartFrame (block : List Byte) (crc : BitVec 32)
  /-- `JTAG_BYPASS` (R586). -/
  | jtagBypass (tdi : Bool)
  /-- `JTAG_SAMPLE_PRELOAD` (R586). -/
  | jtagSamplePreload (pins : List Bool) (cells : List Bool)
  /-- `JTAG_EXTEST` (R586). -/
  | jtagExtest (tdi : Bool)
  /-- `COX_WATCHDOG` (R496). -/
  | coxWatchdog (pc : BitVec 32)
  /-- `SENSOR_SNAPSHOT` (R499). -/
  | sensorSnapshot (x : Readings)
  /-- `SPARE_SELF_TEST` (R523). -/
  | spareSelfTest (failed : List (Fin 68))
  /-- `STACK_READ` (R405). -/
  | stackRead (q : StackReq) (addr : Nat) (n : Nat)
  /-- `STACK_WRITE` (R408). -/
  | stackWrite (q : StackReq) (addr : Nat) (bs : List Byte)
  /-- `ACCUMULATE_WRITE` (R438). -/
  | accumulateWrite (q : StackReq) (addr : Nat) (bs : List Byte)
  /-- `WCB_RETIRE` (R409). -/
  | wcbRetire (st : Fin 8) (i : Nat)
  /-- `WCB_PARTIAL_TIMEOUT` (R409). -/
  | wcbPartialTimeout (st : Fin 8) (i : Nat)
  /-- `BANK_REFRESH` (R413). -/
  | bankRefresh (st : Fin 8) (ch : Fin 64) (bank : Fin 16)
  /-- `CHANNEL_RETRAIN` (R420). -/
  | channelRetrain (st : Fin 8) (passed : Bool)
  /-- `MARGIN_RETRAIN` (R420). -/
  | marginRetrain (st : Fin 8) (ch : Fin 66) (passed : Bool)
  /-- `STACK_PATROL` (R403). -/
  | stackPatrol (st : Fin 8)
  /-- `CHANNEL_COPY_DONE` (R422). -/
  | channelCopyDone (st : Fin 8) (half : Fin 2)
  /-- `ROW_REPAIR` (R425). -/
  | rowRepair (st : Fin 8)
  /-- `STACK_TEMP_READING` (R416). -/
  | stackTempReading (st : Fin 8) (r : Reading)
  /-- `HOST_ACCESS_HOLD_TIMEOUT` (R419). -/
  | hostAccessHoldTimeout (p : Port)
  /-- `SCRATCH_PATROL` (R195). -/
  | scratchPatrol (sh : Fin 64)
  /-- `CORRECTED_WRITEBACK` (R194). -/
  | correctedWriteback (sh : Fin 64) (line : Fin 262144)
  /-- `WINDOW_ACCESS` (R208). -/
  | windowAccess (q : WinReq)
  /-- `APERTURE_ACCESS` (R432). -/
  | apertureAccess (p : Port) (f : Fin 32) (rid : BitVec 16) (off : BitVec 36) (a : Access)
  /-- `FENCE_LANDING` (R440). -/
  | fenceLanding (p : Port) (f : Fin 32) (rid : BitVec 16) (w : Fin 16)
  /-- `SAMPLED_CHECK` (R444). -/
  | sampledCheck (sh : Fin 64) (recomputed : Option Nat)
  /-- `DOMAIN_GUARD_RESPONSE` (R516). -/
  | domainGuardResponse (q : GuardReq)
  /-- `SYNC_FRAME_RECEIVE` (R448). -/
  | syncFrameReceive (fr : BitVec 100) (td : BitVec 64) (reflQ : Nat)
  /-- `SYNC_MEASURE` (R446). -/
  | syncMeasure (load : Nat) (rtt : Nat)
  /-- `REFCLK_LOSS` (R46). -/
  | refclkLoss (p : Port)
  /-- `FEED_FAILURE` (R460). -/
  | feedFailure (x : Port) (mv : Nat)
  /-- `FEED_OVERVOLTAGE` (R460). -/
  | feedOvervoltage (x : Port) (cv : Nat)
  /-- `FEED_RECONNECT` (R460). -/
  | feedReconnect (x : Port) (cv : Nat)
  /-- `REVERSE_CURRENT` (R463). -/
  | reverseCurrent (x : Port)
  /-- `AUX_LOSS` (R461). -/
  | auxLoss (mv : Nat)
  /-- `CONTROLLER_INTERVAL` (R465). -/
  | controllerInterval (x : PowerIn)
  /-- `BUBBLE_FRAME_BOUNDARY` (R468). -/
  | bubbleFrameBoundary (sh : Fin 64)
  /-- `METER_SCALE` (R469). -/
  | meterScale (measured : Nat) (estimated : Nat)
  /-- `RAMP_LIMITER_TICK` (R470). -/
  | rampLimiterTick (est : Nat)
  /-- `ENERGY_CHARGE` (R490). -/
  | energyCharge (x : EnergyIn)
  /-- `FAST_HINT_END` (R474). -/
  | fastHintEnd (sh : Fin 64)
  /-- `DIE_SENSOR_READ` (R476). -/
  | dieSensorRead (x : DieReadings)
  /-- `COOLANT_READ` (R477). -/
  | coolantRead (deci : Nat)
  /-- `STAGE_ENTRY` (R480). -/
  | stageEntry (vin : Nat)
  /-- `STAGE_EXIT` (R485). -/
  | stageExit (vin : Nat)
  /-- `FATAL_ERROR` (R566). -/
  | fatalError (ty : BitVec 16)
  /-- `COLD_START` (R587). -/
  | coldStart (mv : Nat) (extractorOk : Bool)
  /-- `MEMORY_TRAINING_DONE` (R590). -/
  | memoryTrainingDone (failed : List (Fin 8 × Fin 66))
  /-- `SHELL_MAP_BUILD` (R593). -/
  | shellMapBuild (x : SelfTest)
  /-- `FEED_APPLIED` (R462). -/
  | feedApplied (x : Port) (cv : Nat)
  /-- `REFERENCE_CLOCK_RETURN` (R46). -/
  | referenceClockReturn (p : Port)
  /-- `HOT_RESET` (R601). -/
  | hotReset (p : Port)
  /-- `TRST` (R610). -/
  | trst (high : Bool)
  /-- `INBOUND_WORD_TAKEN` (R510). -/
  | inboundWordTaken (c : Chan)
  /-- `TASK_ADMIT` (R345). -/
  | taskAdmit
  /-- `MODE_CHANGE` (R454). -/
  | modeChange
  /-- `FW_ACTIVATE_REVERT` (R529). -/
  | fwActivateRevert
  /-- `UART_ABORT_FRAME` (R585). -/
  | uartAbortFrame
  /-- `UART_SILENCE_TIMEOUT` (R585). -/
  | uartSilenceTimeout
  /-- `JTAG_IDCODE` (R586). -/
  | jtagIdcode
  /-- `MANAGEMENT_PASS` (R26). -/
  | managementPass
  /-- `LOG_FLUSH` (R502). -/
  | logFlush
  /-- `CALIBRATION_DAILY` (R531). -/
  | calibrationDaily
  /-- `SYNC_FRAME_SEND` (R447). -/
  | syncFrameSend
  /-- `FOLLOWER_UNLOCK` (R449). -/
  | followerUnlock
  /-- `PRE_RAMP_START` (R473). -/
  | preRampStart
  /-- `PRE_RAMP_TIMEOUT` (R473). -/
  | preRampTimeout
  /-- `S3_EXIT_DONE` (R485). -/
  | s3ExitDone
  /-- `FIRMWARE_BOOT` (R541). -/
  | firmwareBoot
  /-- `RECORD_AUTHENTICATION` (R519). -/
  | recordAuthentication
  /-- `MAIN_DOMAIN_START` (R588). -/
  | mainDomainStart
  /-- `CORRECTED_SUMMARY` (R564). -/
  | correctedSummary
  deriving DecidableEq, Repr

end Sys2Proof
end

