-- ==== Sys2Proof/Config.lean ====
section
/-! DEFINITION. What the spec leaves open and the model leaves free: constants WITHOUT a body, so that nothing can be
proved of their values. Each is named in an assumption log entry. -/

namespace Sys2Proof.Config

/-- A free byte, drawn by number (log 2): a line whose content the manual does not state. -/
opaque freeByte : Nat → Byte

/-- A byte of a part of a save slot, by the part, its items as numbers and the byte's place: R274, R314, R144 and R388 name the
items, and their layout is the device's own (R341; log 62). -/
opaque saveByte : Nat → List Nat → Nat → Byte

/-- A count of cycles, drawn by number (log 2, log 10): the `arg` of a trace `COMPLETE` record (R579). -/
opaque cycles : Nat → Nat

/-- The serial number of the module (R620, R625; log 12). -/
opaque serial : Nat

/-- The byte layout of a mailbox response whose layout the manual does not give (R515): opcode and the content as
numbers in the order the rule lists them (log 11). -/
opaque payload : Nat → List Nat → List Byte

/-- The source byte and the 40 payload bytes of an event-log record, by type and the record's numbers in the order R571
lists them: the codes and the layout are not given (R501; log 11). -/
opaque logSource : Nat → List Nat → Byte
opaque logPayload : Nat → List Nat → List Byte

/-- Type and severity of a record that a rule has logged and R571 does not list: 0 a message from Cox to a powered-down
domain (R516), 1 a firmware slot that fails its check (R541) (log 11). -/
opaque unlistedEvent : Nat → Nat × Nat

/-- The 256-bit unit secret regenerated from the silicon (R533; log 12), as its 32 bytes. -/
opaque unitSecret : List Byte

/-- The root of the LMS tree of a key pair made from an identifier I and a SEED (R534, R535, R552; log 12), 32 bytes. -/
opaque lmsRoot : List Byte → List Byte → List Byte

/-- The public point of a P-384 scalar, uncompressed, 97 bytes (R534, R553; log 12). -/
opaque curvePoint : Nat → List Byte

/-- What `ID_READ` returns of the identity public key, the key-agreement public key and the body of the product record, which
holds the endorsement at a place that the manual does not give (R535, R561; log 12). -/
opaque identityBlob : List Byte → List Byte → List Byte → List Byte

/-- The LMS signature of index q over a message, by identifier and SEED of the tree (R552, R553; log 12). -/
opaque identitySign : List Byte → Nat → List Byte → List Byte

/-- Whether an image or record verifies under the trust anchors of R540: they and the way the top-level key is
delivered are not given (log 13). -/
opaque signatureOk : List Byte → Bool

/-- The version a firmware image carries, a counter value of R538 (its layout is not given, R527; log 13). -/
opaque imageVersion : List Byte → BitVec 32

/-- The translator version and highest SPC minor version of a firmware image (R625; log 13). -/
opaque translator : List Byte → Nat × Nat

/-- The body of a power-limits record: upper bounds for `cap_w` and `in_cap_w`, lower bound for `tj_soft` (R518 gives
no layout; log 13). -/
opaque powerLimits : List Byte → Nat × Nat × Nat

/-- The body of a port-limits record: highest width and rate code of a port (R518; log 13). -/
opaque portLimits : List Byte → Bool → Nat × Nat

/-- The wrapped secret of a key import, opened: attribute block, staging bytes; none when a check of R546 fails
(log 12). -/
opaque unwrapSecret : Nat → List Byte → Option (List Byte)

/-- Whether the failed import was rejected by the big-number engine (R546; log 12). -/
opaque unwrapPkFail : Nat → List Byte → Bool

/-- The result of a big-number operation on a secret and the staged operands; none is PK_FAIL (R556, R557). The last
number is a free draw: the randomisation of R558 (log 12). -/
opaque pkResult : Nat → List Byte → List Byte → Nat → Option (List Byte)

/-- Whether a failure of `pkResult` is a final-check failure, which R560 counts (log 12). -/
opaque pkFinalCheckFailed : Nat → List Byte → List Byte → Nat → Bool

/-- Whether every operation of an SPC image decodes (R279 check 5; the encoding is not given, log 14). -/
opaque spcDecodes : List Byte → Bool

/-- The translation of an SPC image for one Shell, by Shell mask, fixed option and translator version: whether its stream uses
predicated skipping, the bytes of its commands (none: the Shell has no stream) and those of its bank schedule (R280, R281,
R285; log 14). -/
opaque translate : List Byte → Nat → Bool → Nat → Nat → Bool × List Byte × List Byte

/-- The program record of R280: model identifier, translator version, fixed option, number of streams (log 14). -/
opaque programRecord : Nat → Nat → Bool → Nat → List Byte

/-- What a program record read back says: `fixed` option of a loaded program, or none where the 64 bytes are no
program record (R280, R343 row 4; log 14). -/
opaque readRecord : List Byte → Option Bool

/-- Regions the load service installs, by image, Shell mask, fixed option and translator version: (Shell, first group, groups)
(R280, R281; log 14). -/
opaque placement : List Byte → Nat → Bool → Nat → List (Nat × Nat × Nat)

/-- The content of the regions installed, by image, secret of its weights, mask and number (R280; log 14). -/
opaque contents : List Byte → List Byte → Nat → Nat → List Byte

/-- Whether a program's scratchpad, key-slot and chain needs fit, by image and mask, by what each named Shell holds (its
number, its cache size, its regions as (first group, groups)), and by the key slots and chains of the context that are in
use (R279 check 7; log 14). -/
opaque needsFit : List Byte → Nat → List (Nat × Nat × List (Nat × Nat)) → List Nat → List Nat → Bool

/-- Whether an SPC image carries encrypted weight sections (R550; log 14). -/
opaque hasSections : List Byte → Bool

/-- The index of the first section whose tag fails or repeats under a secret, if one does (R550; log 14). -/
opaque sectionsOpen : List Byte → List Byte → Option Nat

/-- The idle share and the static power share of R490: they come from the calibration record, whose body is not given
(log 15). -/
opaque calibration : Nat → Nat

/-- How many units of a command in flight are done, behind the one in hand, when a pre-emption request stops it at a yield
point (R313), by draw: the manual does not say how far the command has come (log 141). -/
opaque unitsInFlight : Nat → Nat

/-- Generations of a catch line that the steps of a `BOOT` take, by draw and line (R381; log 150). -/
opaque bootRounds : Nat → Nat → Nat

/-- Whether an error pattern beyond what a line's code is said to detect is detected (R192, R401; log 31): a pattern that is
not passes as a line without an error. The number names the code: 0 a stack's, 1 the standard, 2 the strong code. -/
opaque beyondCode : Nat → List Nat → Bool

/-- A quantity of the power controller that the rules name and do not fix, by draw, remainder and Shell: an allowance
where no Shell showed a demand (R465), the bubble energy of a dip (R486) (log 4). -/
opaque openShare : Nat → Nat → Nat → Nat

end Sys2Proof.Config
end

