-- ==== Sys2Proof/Machine/State.lean ====
section
/-! DEFINITION. The state of the block as plain data: every register, buffer, queue, counter, mode and pin the spec
gives the module, the queue of waiting commands, and the module right after reset (before P3V3_AUX is applied,
18_startup_and_reset R587). Each field's docstring names the rule it comes from; a value the spec does not state is
named in the log entry cited. Tables of units (`Tab`) list only the units that have left their reset value. -/

namespace Sys2Proof.Machine

/-! ## Stops -/

/-- Why the machine stops with a fault. -/
inductive Fault where
  /-- Raised by `HOST_MEMORY_ACCESS`, `STACK_READ`, `STACK_WRITE` and `ACCUMULATE_WRITE` for a device physical address
  at or above 2^38, which names no memory (R399). Safe: the hardware has no such access. -/
  | noSuchAddress
  deriving DecidableEq, Repr

/-- Why a command has no meaning. -/
inductive Refusal where
  /-- Raised by the dispatch for a command that is not modelled. Safe: nothing can be proved of it. -/
  | notModelled (mnemonic : String)
  deriving DecidableEq, Repr

/-! ## Arithmetic objects -/

/-- One modulus of a registered chain with what the device computes for it (R53, R61, R64). -/
structure Modulus where
  q : Nat
  psi : Nat
  b : Nat
  mu : Nat
  step : Nat
  deriving DecidableEq, Repr

/-- A registered chain (R60, R61): `special` is P, `reg` the registration (R127). -/
structure Chain where
  maxLogN : Nat
  special : Nat
  tol : Nat
  mods : List Modulus
  reg : Nat
  deriving DecidableEq, Repr

/-- A tensor descriptor (R222), fields as numbers; strides are signed. `base` is a scratchpad address of R184 or a
byte address. -/
structure TDesc where
  etype : Nat
  space : Nat
  smode : Nat
  list : Bool
  wr : Bool
  slot : Nat
  base : Nat
  n0 : Nat
  n1 : Nat
  n2 : Nat
  n3 : Nat
  s0 : Int
  s1 : Int
  s2 : Int
  s3 : Int
  sbase : Nat
  lbase : Nat
  lcount : Nat
  blk0 : Nat
  blk1 : Nat
  deriving DecidableEq, Repr

/-- A handle-table entry (R228, R293): the context that made it, a copy of the descriptor and the installations that validated it. -/
structure Handle where
  ctx : Nat
  d : TDesc
  regs : List Nat
  deriving DecidableEq, Repr

/-! ## Shells -/

/-- A region entry (R187), with the task of a task-scoped region and its installation number (R228). -/
structure Region where
  base : BitVec 12
  len : BitVec 13
  scope : Bool
  strong : Bool
  ctx : BitVec 16
  task : Option Nat
  inst : Nat
  deriving DecidableEq, Repr

/-- An open scratchpad window (R206) with the task that opened it and its context (R210). -/
structure Window where
  base : Nat
  len : Nat
  rd : Bool
  wr : Bool
  keep : Bool
  shells : BitVec 64
  peers : BitVec 64
  task : Nat
  ctx : Nat
  inst : Nat
  deriving DecidableEq, Repr

/-- An open loop (R299): `i` is the iteration count, the steps Δ are signed. -/
structure Loop where
  start : Nat
  count : Nat
  i : Nat
  d0 : Int
  d1 : Int
  d2 : Int
  d3 : Int
  deriving DecidableEq, Repr

/-- A fetched native command (R288): opcode and fields. -/
structure Raw where
  op : BitVec 8
  w : Cmd
  deriving DecidableEq, Repr

/-- What a Shell is blocked in: an acquire with the time it began (R372), a key stream that waits for its set (R131,
R312), or a boot group that is not complete (R167). -/
inductive Wait where
  | none
  | counter (cnt : Nat) (thr : BitVec 32) (since : Nat)
  | line (k : Nat) (since : Nat)
  | stream (num : Nat)
  | group
  deriving DecidableEq, Repr

/-- A release issued and not yet in effect (R371). -/
inductive Release where
  | count (cnt : Nat) (set : Bool) (v : BitVec 32)
  | arrive (k : Nat)
  deriving DecidableEq, Repr

/-- The Stroke core (R285–R303). `base` is the device virtual address of the stream header; `buf` the native-stream buffer
by command index; a release carries the stamp of its issue, which orders it against a `KEY_PIN` (R371). `begun` says that
the command at `idx` has issued and not completed, `point` the first of its units that is not done (R114, R144, R166, R236,
R243), and `halted` that the core has stopped for a pre-emption (R313). -/
structure Stroke where
  run : Bool
  base : Nat
  idx : Nat
  count : Nat
  legacy : Bool
  fixedS : Bool
  loopReg : Tab (BitVec 24)
  loops : List Loop
  pf : BitVec 8
  skip : Nat
  buf : Tab Raw
  bufFault : Tab (Nat × Nat)
  wait : Wait
  rel : List (Nat × Release)
  ended : Bool
  begun : Bool
  point : Nat
  halted : Bool
  deriving DecidableEq, Repr

def Stroke.reset : Stroke :=
  { run := false, base := 0, idx := 0, count := 0, legacy := false, fixedS := false, loopReg := [], loops := [],
    pf := 0, skip := 0, buf := [], bufFault := [], wait := .none, rel := [], ended := false, begun := false, point := 0,
    halted := false }

/-- The vector engine (R245–R263): operand-cache bytes (row·1024 + byte), seed, 40-bit lane counters, mode, and the
forerunner generators. -/
structure Vec where
  rows : Mem
  seed : BitVec 64
  lanes : Tab (BitVec 40)
  fore : Bool
  gens : Tab (BitVec 32)
  deriving DecidableEq, Repr

def Vec.reset : Vec := { rows := [], seed := 0, lanes := [], fore := false, gens := [] }

/-- An asynchronous copy in flight (R296, R365): its counter, its tensors, its stream index and its empty stamp. -/
structure AsyncCopy where
  cnt : Nat
  src : TDesc
  dst : TDesc
  cmd : Nat
  stamp : BitVec 64
  deriving DecidableEq, Repr

/-- An error of a protected line (R192, R401): the bits of its code word that are wrong (bits 0–575 of a scratchpad line
and its 64 check bits from 576 on; of a stack's line 512 bits and 64 check bits), whether the code word was made
uncorrectable deliberately (R218, R424), and whether its uncorrectable event is recorded (R424). -/
structure LineErr where
  wrong : List Nat
  forced : Bool
  seen : Bool
  deriving DecidableEq, Repr

/-- A cache way (R201): valid with its memory space and 64-byte line address. -/
structure Tag where
  space : Nat
  port : Port
  line : Nat
  deriving DecidableEq, Repr

/-- How far a drain has come (R522). -/
inductive Drain where
  | none
  | marked (o : DrainOpts)
  | remap
  | drained
  deriving DecidableEq, Repr

/-- A `BOOT` that waits for its group, or that runs (R167): its operands. -/
structure BootOp where
  items : Nat
  planSpace : Nat
  listSpace : Nat
  crews : BitVec 8
  plan : Nat
  list : Nat
  work : Nat
  workLen : Nat
  deriving DecidableEq, Repr

/-- A sampled accumulate queued for its check Shell (R444): context, window, element index and the three values. -/
structure Sample where
  ctx : Nat
  win : Nat
  elem : Nat
  etype : Nat
  modulus : Nat
  old : Nat
  inp : Nat
  new : Nat
  deriving DecidableEq, Repr

/-- Power state of a Shell (R465–R468, R474), powers in µW, fractions in 1/256; a fast hint's start, end and share. -/
structure ShellPower where
  demand : Nat
  allow : Nat
  fCap : Nat
  fNext : Nat
  f : Nat
  fast : Option (Nat × Nat × Nat)
  parked : Bool
  deriving DecidableEq, Repr

/-- One logical Shell (R182, R648). -/
structure Shell where
  /-- Physical Shell of the die, P0–P33 (R25). -/
  phys : Nat
  vacant : Bool
  maint : Bool
  drain : Drain
  /-- The task that holds the Shell (R648 `busy`). -/
  holder : Option Nat
  cacheReq : BitVec 3
  cacheEff : BitVec 3
  tags : Tab Tag
  plru : Tab (BitVec 16)
  lastCtx : Nat
  regCfl : Bool
  regEnt : Nat
  regWhy : Nat
  cacheCfl : Bool
  regions : Tab Region
  windows : Tab Window
  /-- The task whose `BOOT` reserves window entries 14 and 15 (R212). -/
  bootWin : Option Nat
  sp : Mem
  lineErr : Tab LineErr
  wbPending : List Nat
  patrolGrp : Nat
  handles : Tab Handle
  stroke : Stroke
  vec : Vec
  asyncIn : List AsyncCopy
  asyncOut : List AsyncCopy
  /-- Open key streams by number (R131). -/
  ks0 : Option Nat
  ks1 : Option Nat
  boot : Option BootOp
  /-- The halves H0 and H1 of the limb buffer pair, as the transform unit's last limb or tile left them, and the root ψ_N of
  its twiddle generator (R88, R90, R107). -/
  limbBuf : List Nat × List Nat
  root : Nat
  /-- Last four basis-constant combinations, by chain, source mask and target mask, with their constants (R106, R157). -/
  consts : List ((Nat × Nat × Nat) × List Nat)
  checkQ : List Sample
  pw : ShellPower
  deriving DecidableEq, Repr

def ShellPower.reset : ShellPower :=
  { demand := 0, allow := 0, fCap := 0, fNext := 0, f := 0, fast := none, parked := false }

/-- Logical Shell L after reset (R25, R217, R648). -/
def Shell.reset (L : Nat) : Shell :=
  { phys := L % 32, vacant := false, maint := true, drain := .none, holder := none, cacheReq := 0, cacheEff := 0,
    tags := [], plru := [], lastCtx := 0, regCfl := false, regEnt := 0, regWhy := 0, cacheCfl := false, regions := [],
    windows := [], bootWin := none, sp := [], lineErr := [], wbPending := [], patrolGrp := 0, handles := [],
    stroke := Stroke.reset, vec := Vec.reset, asyncIn := [], asyncOut := [], ks0 := none, ks1 := none, boot := none,
    limbBuf := ([], []), root := 0, consts := [], checkQ := [], pw := ShellPower.reset }

/-- A physical Shell (R25, R592, R593). -/
structure Phys where
  failedRec : Bool
  failedTest : Bool
  used : Bool
  deriving DecidableEq, Repr

/-! ## Ports, functions, rings -/

/-- A launch gate (R450, R646). -/
structure Gate where
  arm : Bool
  lateAbort : Bool
  late : Bool
  conflict : Bool
  fn : Nat
  ring : Nat
  lateNs : BitVec 32
  count : BitVec 64
  task : Option Nat
  deriving DecidableEq, Repr

def Gate.reset : Gate :=
  { arm := false, lateAbort := false, late := false, conflict := false, fn := 0, ring := 0, lateNs := 0, count := 0,
    task := none }

/-- How a host answers for a 4 KiB page (R327): the page it gives and whether it may be written; `none` does not translate;
`large`, at the first page of 2 MiB, answers for the 2 MiB. An untranslated access is answered the same way; `poison` is the
poison of its bytes. Environment (log 7). -/
structure HostPage where
  page : Option Nat
  w : Bool
  large : Bool
  poison : Bool
  deriving DecidableEq, Repr

/-- An entry of a port's translation cache (R327): PASID, first 4 KiB page, 4 KiB or 2 MiB, the page it maps to, and write
permission. -/
structure AtsEntry where
  pasid : Nat
  page : Nat
  large : Bool
  to_ : Nat
  w : Bool
  deriving DecidableEq, Repr

/-- An access of a host or a peer held during S3 or before Memory_Active, by its pieces of stacked memory: physical address and
bytes (R419, R483, R591). -/
structure Held where
  parts : List (Nat × Nat)
  acc : Access
  since : Nat
  deriving DecidableEq, Repr

/-- What a held or served host access came to (R319, R400, R419). -/
inductive HostAnswer where
  | none
  | data (bs : List Byte)
  | poison
  | abort
  | done
  deriving DecidableEq, Repr

/-- One port (R316–R321, R627, R628). A dump is one command, so `cdBusy` stays 0 (log 10). -/
structure PortSt where
  linkUp : Bool
  pmode : Nat
  width : Nat
  rate : Nat
  snoop : Bool
  pollUs : BitVec 11
  maxRate : BitVec 2
  hangUs : BitVec 16
  downSince : Option Nat
  perst : Bool
  perstUs : Nat
  perstHold : Bool
  resetting : Bool
  training : Bool
  memInfo : Bool
  memActive : Bool
  quota : BitVec 256
  cdAddr : BitVec 64
  cdClr : Bool
  cdBusy : Bool
  cdErr : Bool
  gates : Tab Gate
  lastRing : Nat
  /-- Keyed by `askKey`: PASID, or an untranslated access, and 4 KiB page. -/
  ats : Tab HostPage
  atsCache : List AtsEntry
  host : Mem
  heldAcc : List Held
  answer : HostAnswer
  /-- The bytes and the time of the last read answered from stacked memory (R410). -/
  lastRead : Option (Nat × Nat × Nat)
  wake : Bool
  deriving DecidableEq, Repr

def PortSt.reset : PortSt :=
  { linkUp := false, pmode := 0, width := 0, rate := 0, snoop := false, pollUs := 4, maxRate := 2, hangUs := 0,
    downSince := none, perst := true, perstUs := 0, perstHold := false, resetting := false, training := false,
    memInfo := false, memActive := false, quota := 0, cdAddr := 0, cdClr := false, cdBusy := false, cdErr := false,
    gates := [], lastRing := 0, ats := [], atsCache := [], host := [], heldAcc := [],
    answer := .none, lastRead := none, wake := false }

/-- One function's registers (R632, R633, R640, R622). No row reads a register, so the upper halves that a read latches
(`latch`) stay empty (log 10). -/
structure Fn where
  cause : BitVec 14
  ctxId : BitVec 8
  ctxSt : Nat
  ctxSel : BitVec 8
  apCtx : BitVec 8
  abRing : BitVec 3
  msix : Tab (BitVec 128)
  pba : BitVec 9
  /-- ATS is disabled on the function (R327). Environment (log 7). -/
  atsOff : Bool
  sent : Tab Nat
  held : Tab (BitVec 32)
  latch : Tab (BitVec 32)
  deriving DecidableEq, Repr

def Fn.reset : Fn :=
  { cause := 0, ctxId := 0, ctxSt := 0, ctxSel := 0, apCtx := 0, abRing := 0, msix := [], pba := 0, atsOff := false, sent := [],
    held := [], latch := [] }

/-- One ring (R331, R637). `tail` and `chead` are the values last read from the doorbell line (R335). -/
structure Ring where
  rbase : BitVec 64
  cbase : BitVec 64
  dbl : BitVec 64
  ctx : BitVec 8
  rlog : BitVec 5
  clog : BitVec 5
  prioMax : BitVec 2
  ordered : Bool
  coalCnt : BitVec 9
  coalUs : BitVec 10
  vector : BitVec 3
  head0 : BitVec 32
  ctail0 : BitVec 32
  en : Bool
  active : Bool
  refuse : Nat
  stopped : Bool
  cause : Nat
  sindex : BitVec 32
  head : BitVec 32
  ctail : BitVec 32
  tail : BitVec 32
  chead : BitVec 32
  discards : BitVec 32
  notified : Bool
  uncov : Nat
  uncovSince : Option Nat
  aborts : List (BitVec 32)
  deriving DecidableEq, Repr

def Ring.reset (k : Nat) : Ring :=
  { rbase := 0, cbase := 0, dbl := 0, ctx := 0, rlog := 0, clog := 0, prioMax := 0, ordered := false, coalCnt := 1,
    coalUs := 0, vector := BitVec.ofNat 3 k, head0 := 0, ctail0 := 0, en := false, active := false, refuse := 0,
    stopped := false, cause := 0, sindex := 0, head := 0, ctail := 0, tail := 0, chead := 0, discards := 0,
    notified := false, uncov := 0, uncovSince := none, aborts := [] }

/-! ## Contexts -/

/-- A peer-table entry (R431). -/
structure Peer where
  rid : BitVec 16
  v : Bool
  rpos : BitVec 6
  deriving DecidableEq, Repr

/-- A memory-window entry (R434) with its status (R635) and what is taken at enable (R435); bit u of `rsv`: a reserved
field of the entry's 64-bit word u was written non-zero. -/
structure MWin where
  en : Bool
  rd : Bool
  wr : Bool
  acc : Bool
  etype : BitVec 4
  logN : BitVec 5
  chain : BitVec 4
  chk : BitVec 5
  chkShell : BitVec 6
  base : BitVec 64
  pages : BitVec 10
  land : BitVec 8
  peers : BitVec 64
  mmask : BitVec 64
  wseed : BitVec 64
  rsv : BitVec 8
  landings : BitVec 32
  wstate : Nat
  refused : Bool
  reason : Nat
  frames : List Nat
  mods : List Nat
  deriving DecidableEq, Repr

def MWin.reset : MWin :=
  { en := false, rd := false, wr := false, acc := false, etype := 0, logN := 0, chain := 0, chk := 12, chkShell := 0,
    base := 0, pages := 0, land := 0, peers := 0, mmask := 0, wseed := 0, rsv := 0, landings := 0, wstate := 0,
    refused := false, reason := 0, frames := [], mods := [] }

/-- A key slot (R123): address and space of the key object, header copy, chain registration. -/
structure KeySlot where
  addr : Nat
  space : Nat
  hdr : BitVec 512
  reg : Nat
  deriving DecidableEq, Repr

/-- A sync counter (R373, R376). -/
structure Counter where
  v : BitVec 32
  holder : Option Nat
  deriving DecidableEq, Repr

/-- A context (R323, R324, R634). -/
structure Ctx where
  live : Bool
  port : Port
  fn : Nat
  dptRoot : BitVec 64
  pasid : BitVec 20
  pasidEn : Bool
  hcache : Bool
  sys : Bool
  peerCfl : Bool
  peerEnt : Nat
  peers : Tab Peer
  mwins : Tab MWin
  chains : Tab Chain
  keys : Tab KeySlot
  cnt : Tab Counter
  tlb : Tab (BitVec 64)
  deriving DecidableEq, Repr

def Ctx.reset : Ctx :=
  { live := false, port := .A, fn := 0, dptRoot := 0, pasid := 0, pasidEn := false, hcache := false, sys := false,
    peerCfl := false, peerEnt := 0, peers := [], mwins := [], chains := [], keys := [], cnt := [], tlb := [] }

/-! ## Tasks -/

/-- The states of a task (R346). -/
inductive TaskState where
  | waiting
  | admitted
  | running
  | yielding
  | preempted
  | resuming
  | ending
  | done
  deriving DecidableEq, Repr

/-- The first fault of a task (R354, R390). -/
structure TFault where
  code : BitVec 8
  detail : BitVec 64
  cmd : BitVec 32
  fshell : Nat
  deriving DecidableEq, Repr

/-- One entry of a region list (R340). -/
structure RegReq where
  shell : Nat
  base : BitVec 12
  len : BitVec 13
  strong : Bool
  deriving DecidableEq, Repr

/-- A catch line of a task (R379): generation, arrival flags, and by Shell the generation of its last arrival plus
one (0: none). -/
structure CatchLine where
  g : BitVec 32
  flags : BitVec 64
  last : Tab Nat
  deriving DecidableEq, Repr

def CatchLine.reset : CatchLine := { g := 0, flags := 0, last := [] }

/-- A Shell's state saved at a yield (R274, R314, R341). -/
structure Saved where
  stroke : Stroke
  vec : Vec
  boot : Option BootOp
  deriving DecidableEq, Repr

/-- A load that runs (R280, R282): the SPC operations done and their number, the program store's address and the output, and
the regions with their contents. -/
structure LoadRun where
  point : Nat
  nops : Nat
  store : Nat
  out : List Byte
  place : List (Nat × Nat × Nat × List Byte)
  deriving DecidableEq, Repr

/-- A task: its descriptor (R339) and its life (R346). -/
structure Task where
  ref : TaskRef
  ctx : Nat
  kind : Nat
  cls : Bool
  prio : Nat
  int : Bool
  tctx : Nat
  tag : BitVec 64
  shells : BitVec 64
  prog : Nat
  pspace : Nat
  seed : BitVec 64
  args : Tab (BitVec 24)
  regs : List RegReq
  save : Nat
  st : TaskState
  tState : BitVec 64
  tAdmit : BitVec 64
  yields : Nat
  frozen : Bool
  fault : Option TFault
  snap : Tab Chain
  started : BitVec 64
  ended : BitVec 64
  reported : BitVec 64
  lines : Tab CatchLine
  saved : Tab Saved
  ranSince : Nat
  energyNj : Nat
  exact : Bool
  fixedProg : Bool
  stalled : Bool
  bootRun : Bool
  preReq : Bool
  gate : Option Nat
  s3Held : Bool
  /-- A completion entry is reserved for the task (R345). -/
  resv : Bool
  /-- For LOAD: the load service at work. -/
  load : Option LoadRun
  /-- The pre-emption of the tasks on its Shells was requested for this task (R350). -/
  claim : Bool
  /-- When the last Shell reported the end (R346, R357). -/
  tDue : BitVec 64
  deriving DecidableEq, Repr

/-! ## Synchronisation, key streams -/

/-- A registered vigil (R382). -/
structure Vigil where
  task : Nat
  ctx : Nat
  wcnt : Nat
  wline : Nat
  cond : Nat
  act : Nat
  tcnt : Nat
  step : Nat
  thr : BitVec 32
  maddr : Nat
  space : Nat
  addv : BitVec 32
  mtag : BitVec 32
  armed : Bool
  /-- The condition has held since the last firing, and the action is due (R384). -/
  due : Bool
  spent : Bool
  deriving DecidableEq, Repr

/-- Where an update of a counter comes from, for the order of R375 and R393: a Shell's command, the debugger, a copy of a
Shell, a landing in a memory window (R437), or a vigil. -/
inductive UpdSrc where
  | shell (n : Nat)
  | debug
  | copy (sh : Nat)
  | landing
  | vigil (n : Nat)
  deriving DecidableEq, Repr

/-- An update on its way to a synchronisation unit (R373). -/
structure Update where
  ctx : Nat
  cnt : Nat
  src : UpdSrc
  set : Bool
  v : BitVec 32
  deriving DecidableEq, Repr

/-- A Shell's membership of a key stream (R131, R135, R141): its limb mask, pairs delivered to it and used by its `KIP`, the
pairs in its limb buffer, its opening order and the stream index of its command; for an image its line, whether it keeps both halves, its
limb mask and its level. -/
structure Member where
  sh : Nat
  mask : BitVec 64
  given : Nat
  used : Nat
  buf : List (Nat × Nat × List Nat × List Nat)
  order : Nat
  closed : Bool
  /-- A `KIP` of the Shell waits for a pair; when the Shell last freed a slot of its limb buffer (R405). -/
  waits : Bool
  freed : BitVec 64
  cmd : Nat
  z0 : Nat
  full : Bool
  imask : BitVec 64
  ilevel : Nat
  deriving DecidableEq, Repr

/-- A key stream of a Crew (R131–R142). `image` is the line of the resident image that is its source; `pin` says that a
`KEY_PIN` opened it. `segs` are the uniform-limb segments generated (R129), `streamer` the key streamer that serves it
(R137). -/
structure KStream where
  task : Nat
  crew : Nat
  num : Nat
  set : BitVec 8
  slot : Nat
  kind : Nat
  elem : Nat
  level : Nat
  hdr : BitVec 512
  addr : Nat
  space : Nat
  image : Option Nat
  streamer : Option Nat
  chain : Chain
  members : List Member
  started : Bool
  segs : List ((Nat × Nat × Nat) × List Nat)
  pin : Bool
  deriving DecidableEq, Repr

/-! ## Stacked memory -/

/-- An entry of the write-combining buffer (R408): 64-byte line number, byte mask, bytes, and when it last took bytes
(R409). `cycle` holds, for the writes that reached the controller at that time, the requester's place in the order of R410
plus one by byte. -/
structure WEntry where
  line : Nat
  mask : BitVec 64
  data : BitVec 512
  reserve : Bool
  since : Nat
  cycle : Tab Nat
  deriving DecidableEq, Repr

/-- A read that waits at a stack controller that withholds its credits (R405, R418): its requester, its bytes and its
arrival. -/
structure QRead where
  q : StackReq
  addr : Nat
  n : Nat
  since : Nat
  deriving DecidableEq, Repr

/-- An addition of an accumulate write to a unit at the current time (R410, R411): the window by context and number, the
unit, its value before the first one, and what was added, each with its requester's place in the order of R410. -/
structure AccCycle where
  at_ : Nat
  ctx : Nat
  win : Nat
  elem : Nat
  base : Nat
  ins : List (Nat × Nat)
  deriving DecidableEq, Repr

/-- A row of a bank of a physical channel (R397). -/
structure Row where
  ch : Nat
  bank : Nat
  row : Nat
  deriving DecidableEq, Repr

/-- Events recorded against a row (R424). -/
structure RowEvent where
  row : Row
  corr : Nat
  unc : Nat
  repaired : Bool
  deriving DecidableEq, Repr

/-- A channel copy in progress (R422). -/
structure ChanCopy where
  logical : Nat
  spare : Nat
  deriving DecidableEq, Repr

/-- One stack and its controller (R396–R428). -/
structure Stack where
  wcb : List WEntry
  chmap : Tab Nat
  spareUsed : BitVec 2
  copying : List ChanCopy
  retrainFail : Tab Nat
  uncRows : List (Nat × Row)
  corrSec : Tab Nat
  rowEvents : List RowEvent
  /-- Spare rows in use: (row served, spare index) with the row's bank. -/
  rowMap : List (Row × Nat)
  rowPending : List Row
  retired : List Nat
  acked : List Nat
  lineErr : Tab LineErr
  refresh : Tab Nat
  nextRetrain : Nat
  selfRefresh : Bool
  credits : Bool
  temp : Nat
  throttle : Nat
  req : Nat
  out : Bool
  patrol : Nat
  openRow : Tab Nat
  inS3Exit : Bool
  /-- When refresh of the banks started: each bank's first interval runs from there (R413). -/
  refBase : Nat
  queue : List QRead
  accNow : List AccCycle
  deriving DecidableEq, Repr

def Stack.reset : Stack :=
  { wcb := [], chmap := [], spareUsed := 0, copying := [], retrainFail := [], uncRows := [], corrSec := [],
    rowEvents := [], rowMap := [], rowPending := [], retired := [], acked := [], lineErr := [], refresh := [],
    nextRetrain := 0, selfRefresh := false, credits := true, temp := 0, throttle := 0, req := 0,
    out := false, patrol := 0, openRow := [], inS3Exit := false, refBase := 0, queue := [], accNow := [] }

/-! ## Power, clocks, start-up -/

/-- A 48 V feed (R458, R460, R463): voltage in 10 mV, connection of its hot-swap switch, and its reverse-blocking
switch. -/
structure Feed where
  present : Bool
  cv : Nat
  connected : Bool
  reverseOpen : Bool
  deriving DecidableEq, Repr

def Feed.reset : Feed := { present := false, cv := 0, connected := false, reverseOpen := false }

/-- The power policy (R492, R641). -/
structure Policy where
  capW : BitVec 11
  inCapW : BitVec 11
  rampW : BitVec 6
  shedUp : BitVec 6
  tjSoft : BitVec 7
  coolMax : BitVec 6
  hintsEn : Bool
  deriving DecidableEq, Repr

def Policy.reset : Policy :=
  { capW := 1200, inCapW := 1400, rampW := 60, shedUp := 0, tjSoft := 95, coolMax := 40, hintsEn := true }

/-- A shedding record being gathered (R486): entries and exits of S1–S3 by `now`. -/
structure Dip where
  deepest : Nat
  alm : BitVec 64
  entry : Tab (BitVec 64)
  exit : Tab (BitVec 64)
  lowest : Nat
  lowA : Nat
  lowB : Nat
  preempted : Nat
  aborted : Nat
  ballastNj : Nat
  deriving DecidableEq, Repr

/-- A pending feast hint (R473): announced start (in `now`), duration in µs, power in µW. -/
structure FeastHint where
  start : Nat
  dur : Nat
  power : Nat
  deriving DecidableEq, Repr

/-- Power control and supplies (14_power_supply_thermal). Powers in µW; `nj` holds what the µJ counters of R491 have not
yet counted, `hot` the temperature of each die and of the IOD that the loops use (0, 1, 2), `sensors` what each hotspot
read last. -/
structure Power where
  feedA : Feed
  feedB : Feed
  auxMv : Nat
  vin : Nat
  stage : Nat
  dip : Option Dip
  shedNew : Bool
  shedDeep : Nat
  shedSeq : BitVec 32
  pol : Policy
  polEff : Policy
  rampCeil : Nat
  pkgCeil : Nat
  ceilFloor : Nat
  nj : Tab Nat
  effStep : Nat
  est : Nat
  ballast : Nat
  hints : List FeastHint
  preRamp : Option (Nat × Nat)
  scale : Nat
  sensors : Tab Nat
  hot : Tab Nat
  invalid : List Nat
  reqDie : Tab Nat
  lvlDie : Tab Nat
  coolDeci : Nat
  coolCeil : Nat
  coolAlert : Bool
  alert : Bool
  tripped : Bool
  deriving DecidableEq, Repr

def Power.reset : Power :=
  { feedA := Feed.reset, feedB := Feed.reset, auxMv := 0, vin := 0, stage := 0, dip := none, shedNew := false,
    shedDeep := 0, shedSeq := 0, pol := Policy.reset, polEff := Policy.reset, rampCeil := 0,
    pkgCeil := 1200000000, ceilFloor := 0, nj := [], effStep := 0, est := 0, ballast := 0, hints := [], preRamp := none, scale := 64, sensors := [],
    hot := [], invalid := [], reqDie := [], lvlDie := [], coolDeci := 0, coolCeil := 1200000000, coolAlert := false, alert := false,
    tripped := false }

/-- Clocks (R46, R468) and the Almanac. The Shell-cycle count `bubble` stays 0: cycles are left out (log 10). -/
structure Clock where
  now : Nat
  alm : BitVec 64
  pll : Bool
  refA : Bool
  refB : Bool
  coreRef : Option Port
  bubble : Nat
  deriving DecidableEq, Repr

/-- Readiness (R596 `state`). -/
inductive Ready where
  | start
  | recovery
  | ready
  | fatal
  deriving DecidableEq, Repr

/-- Start-up (R587–R603). -/
structure StartUp where
  aux : Bool
  secretDone : Bool
  coxUp : Bool
  recordsOk : Bool
  mainUp : Bool
  coldPending : Bool
  ready : Ready
  memDone : Bool
  shellDone : Bool
  idLess : Bool
  cause : Nat
  hold : Bool
  fwRecovery : Bool
  keyUnitOut : BitVec 16
  pwrGood : Bool
  /-- When PWR_GOOD was asserted, by `now` (R612). -/
  goodSince : Nat
  resetLevel : Bool
  deriving DecidableEq, Repr

def StartUp.reset : StartUp :=
  { aux := false, secretDone := false, coxUp := false, recordsOk := false, mainUp := false, coldPending := false,
    ready := .start, memDone := false, shellDone := false, idLess := false, cause := 0, hold := false,
    fwRecovery := false, keyUnitOut := 0, pwrGood := false, goodSince := 0, resetLevel := false }

/-! ## Mode, semaphores, trace, debug, Almanac -/

/-- The mode register and its procedure (R453, R630). -/
structure Mode where
  fixedReq : Bool
  dlbOff : Bool
  fixed : Bool
  busy : Bool
  cause : Nat
  hostPad : BitVec 15
  deriving DecidableEq, Repr

/-- A port semaphore (R361, R629): owner, and the port that lost the last tie. -/
structure Sem where
  owner : Option Port
  tie : Port
  deriving DecidableEq, Repr

/-- A trace record (R578). -/
structure TraceRec where
  alm : BitVec 64
  shell : Nat
  cox : Bool
  event : Nat
  op : Nat
  status : Nat
  idx : Nat
  ctx : Nat
  ring : Nat
  dindex : BitVec 32
  arg : BitVec 64
  deriving DecidableEq, Repr

/-- Trace parameters, collectors and source queues (R577, R582). Source 64 is Cox. -/
structure Trace where
  base : BitVec 64
  en : Bool
  cox : Bool
  wrap : Bool
  ctx : BitVec 8
  size : BitVec 6
  shells : BitVec 64
  events : BitVec 64
  wptr0 : Nat
  wptr1 : Nat
  fifo0 : List TraceRec
  fifo1 : List TraceRec
  waiting : Tab (List TraceRec)
  lost : Tab Nat
  deriving DecidableEq, Repr

def Trace.reset : Trace :=
  { base := 0, en := false, cox := false, wrap := false, ctx := 0, size := 16, shells := 0, events := 0, wptr0 := 0,
    wptr1 := 0, fifo0 := [], fifo1 := [], waiting := [], lost := [] }

/-- The debug registers (R644). -/
structure Debug where
  act : BitVec 4
  ctx : BitVec 8
  obj : BitVec 8
  lshell : BitVec 6
  vigil : BitVec 10
  die : Bool
  value : BitVec 64
  port : Bool
  fn : BitVec 5
  ring : BitVec 3
  dindex : BitVec 32
  noeff : Bool
  deriving DecidableEq, Repr

def Debug.reset : Debug :=
  { act := 0, ctx := 0, obj := 0, lshell := 0, vigil := 0, die := false, value := 0, port := false, fn := 0,
    ring := 0, dindex := 0, noeff := false }

/-- The SYNC wires (R446–R449, R645). `offset` is in ns, signed. -/
structure Sync where
  role : BitVec 2
  load : Nat
  rtt : Nat
  range : Bool
  locked : Bool
  offset : Int
  seq : Nat
  synced : Bool
  good : Nat
  missed : Nat
  lastSeq : Nat
  slew : Int
  out : BitVec 100
  deriving DecidableEq, Repr

def Sync.reset : Sync :=
  { role := 0, load := 0, rtt := 0, range := false, locked := false, offset := 0, seq := 0, synced := false,
    good := 0, missed := 0, lastSeq := 0, slew := 0, out := 0 }

/-! ## Management, security, service ports -/

/-- An event-log record (R501); its CRC is computed when it is read out. -/
structure LogRec where
  alm : BitVec 64
  seq : BitVec 32
  boot : BitVec 16
  sev : Nat
  type : Nat
  ctx : Nat
  payload : List Nat
  deriving DecidableEq, Repr

/-- A block channel (R506, R507) and its word pair (R510). -/
structure Channel where
  buf : Mem
  go : Bool
  done : Bool
  busy : Bool
  ieDone : Bool
  wlost : Bool
  inWord : BitVec 32
  outWord : BitVec 32
  inFull : Bool
  inOvf : Bool
  outFull : Bool
  ieEmpty : Bool
  ieWord : Bool
  queue : List (BitVec 32)
  lostAnn : Bool
  heart : Option (BitVec 32 × BitVec 64)
  deriving DecidableEq, Repr

def Channel.reset : Channel :=
  { buf := [], go := false, done := false, busy := false, ieDone := false, wlost := false,
    inWord := 0, outWord := 0, inFull := false, inOvf := false, outFull := false, ieEmpty := false, ieWord := false,
    queue := [], lostAnn := false, heart := none }

/-- A two-copy record of the flash (R497, R498): each copy with its sequence number and whether it stands there as Cox
wrote it. -/
structure TwoCopy (α : Type) where
  a : Option (Nat × Bool × α)
  b : Option (Nat × Bool × α)
  deriving DecidableEq, Repr

/-- What the memory-repair record holds of a stack (R396, R422, R425, R427). -/
structure StackRepair where
  chmap : Tab Nat
  spareUsed : BitVec 2
  rowMap : List (Row × Nat)
  retired : List Nat
  out : Bool
  deriving DecidableEq, Repr

/-- A firmware slot: image bytes, or erased (R497, R527). -/
structure FwSlot where
  image : Mem
  len : Nat
  deriving DecidableEq, Repr

/-- What a long mailbox operation does at its end, with what it took when it was accepted: the attribute block of
a key import, and the secret a `PK_RUN` referenced (R547). -/
inductive LongAct where
  | ksImport (slot : Nat) (attr : BitVec 256)
  | ksRoll (slot : Nat) (attr : BitVec 256)
  | pkRun (q : PkReq) (secret : List Byte)
  | attest (nonce : BitVec 256)
  | calib
  | activate
  | portReset (q : Port)
  | drain (L : Nat)
  | unitReset (u : Nat)
  deriving DecidableEq, Repr

/-- A long mailbox operation accepted and not ended (R510): its channel, opcode and `seq`. -/
structure LongOp where
  ch : Chan
  opcode : Nat
  seq : Nat
  act : LongAct
  deriving DecidableEq, Repr

/-- Cox and its records (15_management_and_live_service). Slots: false A, true B. -/
structure Cox where
  slotA : FwSlot
  slotB : FwSlot
  committed : Bool
  trial : Option Bool
  running : Bool
  verified : Bool
  erased : Bool
  handover : Bool
  /-- Configuration records in flash by type, whole: header, body and signature (R497, R518). -/
  config : Tab (TwoCopy (List Byte))
  /-- The records accepted at the last start, and power limits and a product record written since (R518, R589). -/
  inForce : Tab (List Byte)
  /-- The calibration record's weights (R469, R520), and the weights in force. -/
  cal : TwoCopy Nat
  calWeights : Nat
  /-- Weights written that take effect at the next 10 µs boundary (R531). -/
  calNext : Option Nat
  /-- The memory-repair record (R396, R425, R520), by stack. -/
  repair : TwoCopy (Tab StackRepair)
  /-- Frames reported and not acknowledged, oldest first (R427, R647). -/
  frameQ : List Nat
  log : List LogRec
  /-- Records written to flash so far: where the circular array stands (R501, R503). -/
  logAt : Nat
  logBuf : List LogRec
  seq : BitVec 32
  boot : BitVec 16
  dropped : Nat
  lastRead : BitVec 32
  /-- The last snapshot: the Almanac count and the quantities of R499 as numbers, in the order of its table. -/
  snapshot : Option (List Nat)
  /-- Package power and the two feed currents of the last 1,000 snapshots, newest first, for the averages of R512. -/
  recent : List (Nat × Nat × Nat)
  corr : Tab (Nat × Nat)
  marked : List Nat
  longOps : List LongOp
  /-- Key streamers 0–7 and key expanders 8–15 under reset, with the time the reset began (R525). -/
  unitReset : Tab Nat
  spareFailed : List Nat
  /-- The set that Cox served last (true: the secure one), and in each set the channel served last, by `chanKey` (R513). -/
  lastSecure : Bool
  lastNon : Option Nat
  lastSec : Option Nat
  deriving DecidableEq, Repr

def Cox.reset : Cox :=
  { slotA := { image := [], len := 64 }, slotB := { image := [], len := 0 }, committed := false, trial := none,
    running := false, verified := false, erased := true, handover := false, config := [], inForce := [],
    cal := { a := none, b := none }, calWeights := 64, calNext := none, repair := { a := none, b := none }, frameQ := [], log := [], logAt := 0, logBuf := [], seq := 0, boot := 0, dropped := 0,
    lastRead := 0, snapshot := none, recent := [], corr := [], marked := [], longOps := [], unitReset := [],
    spareFailed := [], lastSecure := false, lastNon := none, lastSec := none }

/-- A key-store slot (R544). -/
structure KsSlot where
  attr : BitVec 256
  secret : List Byte
  deriving DecidableEq, Repr

/-- The security engines (16_security_engines). Counters of R538 by index. -/
structure Security where
  secret : Bool
  rpmb : Tab (BitVec 32)
  rpmbWrites : Nat
  ks : Tab KsSlot
  staging : Tab Mem
  bnFails : List Nat
  bnLocked : Bool
  deriving DecidableEq, Repr

def Security.reset : Security :=
  { secret := false, rpmb := [], rpmbWrites := 0, ks := [], staging := [], bnFails := [],
    bnLocked := false }

/-- SMBus, UART and test port (R517, R585, R586, R610). -/
structure Service where
  smbSecure : Bool
  smbOff : BitVec 10
  smbResp : List Byte
  /-- The UART receiver is inside a frame (R585). -/
  uartIn : Bool
  trst : Bool
  /-- The test-port instruction in force: 0 IDCODE, 1 BYPASS, 2 SAMPLE/PRELOAD, 3 EXTEST (R586). -/
  ir : Nat
  bypass : Bool
  tdo : BitVec 32
  sampled : List Bool
  cells : List Bool
  driven : List Bool
  deriving DecidableEq, Repr

def Service.reset : Service :=
  { smbSecure := false, smbOff := 0, smbResp := [], uartIn := false, trst := false, ir := 0, bypass := false,
    tdo := 0, sampled := [], cells := [], driven := [] }

/-! ## The state -/

/-- The module. -/
structure State where
  /-- Commands that wait, first in first out. -/
  pending : List Instr
  clk : Clock
  free : Nat
  nextId : Nat
  up : StartUp
  pwr : Power
  portA : PortSt
  portB : PortSt
  /-- Keyed 32·port + function. -/
  fns : Tab Fn
  /-- Keyed 8·(32·port + function) + ring. -/
  rings : Tab Ring
  ctxs : Tab Ctx
  tasks : Tab Task
  lastPort : Port
  shells : Tab Shell
  /-- Keyed 34·die + p. -/
  phys : Tab Phys
  /-- Keyed 1024·die + number. -/
  vigils : Tab Vigil
  inbox : List Update
  streams : Tab KStream
  mem : Mem
  stackTab : Tab Stack
  mode : Mode
  sems : Tab Sem
  /-- Counters by their 8-byte place in the dump (R575). -/
  ctr : Tab Nat
  ctrSince : BitVec 64
  dumpLast : Port
  trace : Trace
  dbg : Debug
  sync : Sync
  cox : Cox
  /-- Keyed by `chanKey`. -/
  chans : Tab Channel
  sec : Security
  svc : Service
  deriving DecidableEq, Repr

/-- The module right after reset: no supply applied, every register at its reset value (R587, R596, and the reset
columns of 20_register_map); values the spec does not state are those of log entries 1–9. -/
def State.reset : State :=
  { pending := [],
    clk := { now := 0, alm := 0, pll := false, refA := false, refB := false, coreRef := none, bubble := 0 },
    free := 0, nextId := 1, up := StartUp.reset, pwr := Power.reset, portA := PortSt.reset, portB := PortSt.reset,
    fns := [], rings := [], ctxs := [], tasks := [], lastPort := .B, shells := [], phys := [], vigils := [],
    inbox := [], streams := [], mem := [], stackTab := [],
    mode := { fixedReq := false, dlbOff := false, fixed := false, busy := false, cause := 0, hostPad := 3000 },
    sems := [], ctr := [], ctrSince := 0, dumpLast := .B, trace := Trace.reset, dbg := Debug.reset,
    sync := Sync.reset, cox := Cox.reset, chans := [], sec := Security.reset, svc := Service.reset }

end Sys2Proof.Machine
end

