-- ==== Sys2Proof/Machine/Tables.lean ====
section
/-! DEFINITION. The operations over sparse tables and byte memories, and the bit-field and byte-order helpers
(00_scope R8, R9). -/

namespace Sys2Proof.Machine

/-! ## Bit fields and byte order -/

/-- Bits [hi:lo] of a number, both ends included (R8). -/
def bits (v hi lo : Nat) : Nat := (v >>> lo) % 2 ^ (hi + 1 - lo)

/-- Bit n of a number. -/
def bit (v n : Nat) : Bool := v.testBit n

/-- A w-bit two's-complement number as an integer. -/
def signed (w v : Nat) : Int := if v % 2 ^ w < 2 ^ (w - 1) then (v % 2 ^ w : Nat) else (v % 2 ^ w : Nat) - (2 ^ w : Nat)

/-- An integer as a w-bit two's-complement number. -/
def unsigned (w : Nat) (i : Int) : Nat := (i % (2 ^ w : Nat)).toNat

/-- The number a little-endian byte string spells (R9). -/
def leNat : List Byte → Nat
  | [] => 0
  | b :: bs => b.toNat + 256 * leNat bs

/-- The n bytes of a number, least significant first (R9). -/
def leBytes : Nat → Nat → List Byte
  | 0, _ => []
  | n + 1, v => BitVec.ofNat 8 v :: leBytes n (v / 256)

/-- The set bits of a mask below n, ascending. -/
def setBits (mask n : Nat) : List Nat := (List.range n).filter (fun i => mask.testBit i)

/-- How many bits of a mask below n are set. -/
def popCount (mask n : Nat) : Nat := (setBits mask n).length

/-- The number of the bits set in a mask below bit j. -/
def rankOf (mask j : Nat) : Nat := (setBits mask j).length

/-- The lowest set bit of a number below n. -/
def lowBit (v n : Nat) : Option Nat := (List.range n).find? (fun i => v.testBit i)

/-- ⌈a / b⌉. -/
def ceilDiv (a b : Nat) : Nat := (a + b - 1) / b

/-- ⌈log2 n⌉ for n ≥ 1. -/
def ceilLog2 (n : Nat) : Nat := if n ≤ 1 then 0 else Nat.log2 (n - 1) + 1

/-- Where a failing reserved field begins: the lowest bit of `v` outside the mask of used bits, moved down to the start
of its run of unused bits but not across a place of `splits`, where a field begins; given as a byte offset (R568). -/
def reservedAt (v used nbits : Nat) (splits : List Nat := []) : Option Nat :=
  match (List.range nbits).find? (fun i => v.testBit i && !used.testBit i) with
  | none => none
  | some i =>
    let run := (((List.range (i + 1)).reverse.takeWhile (fun k => !used.testBit k)).getLastD i)
    some (((splits.filter (· ≤ i)).foldl max run) / 8)

/-- The mask of the bits hi to lo. -/
def ones (hi lo : Nat) : Nat := (2 ^ (hi + 1 - lo) - 1) <<< lo

/-! ## Tables -/

variable {α : Type}

/-- The unit listed under a key. -/
def tfind (t : Tab α) (k : Nat) : Option α :=
  match t with
  | [] => none
  | (i, v) :: r => if i = k then some v else tfind r k

/-- The unit under a key, at its reset value where it is not listed. -/
def tget (d : α) (t : Tab α) (k : Nat) : α := (tfind t k).getD d

/-- The table with a unit set. -/
def tset (t : Tab α) (k : Nat) (v : α) : Tab α :=
  t.filter (fun e => e.1 < k) ++ (k, v) :: t.filter (fun e => k < e.1)

/-- The table with a unit taken out. -/
def tdel (t : Tab α) (k : Nat) : Tab α := t.filter (fun e => e.1 ≠ k)

/-- The units of a table, changed one by one. -/
def tmap (f : Nat → α → α) (t : Tab α) : Tab α := t.map (fun e => (e.1, f e.1 e.2))

/-! ## Memories -/

/-- The byte at an address; a byte that is not listed is zero. -/
def mget (m : Mem) (a : Nat) : Byte := (tfind m a).getD 0

/-- The n bytes from an address on, out of cells that begin at or after it. -/
def mexpand : Nat → Nat → Mem → List Byte
  | 0, _, _ => []
  | n + 1, a, [] => 0 :: mexpand n (a + 1) []
  | n + 1, a, (k, b) :: r => if k = a then b :: mexpand n (a + 1) r else 0 :: mexpand n (a + 1) ((k, b) :: r)

/-- The n bytes from an address on. -/
def mslice (m : Mem) (a n : Nat) : List Byte :=
  mexpand n a (m.filter (fun c => a ≤ c.1 && c.1 < a + n))

/-- The cells that hold a byte string from an address on; zero bytes are not listed. -/
def mcells : Nat → List Byte → Mem
  | _, [] => []
  | a, b :: bs => if b = 0 then mcells (a + 1) bs else (a, b) :: mcells (a + 1) bs

/-- The memory with a byte string stored from an address on. -/
def mput (m : Mem) (a : Nat) (bs : List Byte) : Mem :=
  let e := a + bs.length
  m.filter (fun c => c.1 < a) ++ mcells a bs ++ m.filter (fun c => e ≤ c.1)

/-- The memory with n bytes from an address on zeroed. -/
def mzero (m : Mem) (a n : Nat) : Mem := m.filter (fun c => c.1 < a || a + n ≤ c.1)

/-- The little-endian number of n bytes. -/
def mnum (m : Mem) (a n : Nat) : Nat := leNat (mslice m a n)

/-- The memory with an n-byte little-endian number stored. -/
def mputNum (m : Mem) (a n v : Nat) : Mem := mput m a (leBytes n v)

/-- Strictly rising keys. -/
def rising : List Nat → Bool
  | [] => true
  | [_] => true
  | a :: b :: r => a < b && rising (b :: r)

/-- The canonical form of a memory: addresses strictly rising, no zero byte listed. -/
def memWf (m : Mem) : Bool := rising (m.map (·.1)) && m.all (fun c => c.2 ≠ 0)

/-- A store with a byte mask: only the bytes whose mask bit is set are written. -/
def mputMasked (m : Mem) (a : Nat) (mask : Nat) (bs : List Byte) : Mem :=
  ((List.range bs.length).filter (fun i => mask.testBit i)).foldl (fun m i => mput m (a + i) [bs.getD i 0]) m

end Sys2Proof.Machine
end

