-- ==== Sys2Proof/Machine/Residue.lean ====
section
/-! DEFINITION. Word arithmetic (02_residue_arithmetic), the transform pair, automorphisms and base conversion
(03_transforms) on limbs as lists of residues. -/

namespace Sys2Proof.Machine

/-! ## Reduction and lane operations (R53–R57) -/

/-- A word holds 36 bits (R51). -/
def wordMax : Nat := 2 ^ 36

/-- The bit length of a number (R53: the width of a modulus). -/
def bitLen (q : Nat) : Nat := if q = 0 then 0 else Nat.log2 q + 1

/-- The Barrett reciprocal ⌊2^(2b) / q⌋ (R53). -/
def barrettMu (q : Nat) : Nat := 2 ^ (2 * bitLen q) / q

/-- The modular multiply-add of a lane for any input words (R54). -/
def mulAdd (q b mu a c d : Nat) : Nat :=
  let x := a * c + d
  let t1 := x / 2 ^ (b - 1)
  let t3 := t1 * mu / 2 ^ (b + 1)
  let r := (((x : Int) - (t3 * q : Nat)) % (2 ^ 38 : Nat)).toNat
  let r := if r ≥ 2 * q then r - 2 * q else if r ≥ q then r - q else r
  r % 2 ^ 36

/-- The modulus as the lanes use it: q with its width and reciprocal. -/
def laneMulAdd (m : Modulus) (a c d : Nat) : Nat := mulAdd m.q m.b m.mu a c d

/-- `MUL` (R57). -/
def laneMul (m : Modulus) (a c : Nat) : Nat := laneMulAdd m a c 0

/-- `ADD` (R57). -/
def laneAdd (m : Modulus) (a c : Nat) : Nat :=
  let s := a + c
  (if s ≥ m.q then s - m.q else s) % 2 ^ 36

/-- `SUB` (R57). -/
def laneSub (m : Modulus) (a c : Nat) : Nat :=
  let s := (((a : Int) - c + m.q) % (2 ^ 38 : Nat)).toNat
  (if s ≥ m.q then s - m.q else s) % 2 ^ 36

/-- `NEG` (R57). -/
def laneNeg (m : Modulus) (a : Nat) : Nat :=
  if a = 0 then 0 else (((m.q : Int) - a) % (2 ^ 36 : Nat)).toNat

/-- reduce(y, p): R54 with c = 1 and d = 0 (R86, R105). -/
def reduceWord (m : Modulus) (y : Nat) : Nat := laneMulAdd m y 1 0

/-- The six lane operations on one position. -/
inductive LaneOp where
  | mulAdd
  | mul
  | add
  | sub
  | neg
  | mov
  deriving DecidableEq, Repr

/-- One lane operation on words a, c, d (R57). -/
def laneOp (o : LaneOp) (m : Modulus) (a c d : Nat) : Nat :=
  match o with
  | .mulAdd => laneMulAdd m a c d
  | .mul => laneMul m a c
  | .add => laneAdd m a c
  | .sub => laneSub m a c
  | .neg => laneNeg m a
  | .mov => a

/-! ## Powers, primality, admissible moduli (R52, R62) -/

/-- b^e mod q, on the bits of e below n, most significant first. -/
def powModBits (b q e : Nat) : Nat → Nat
  | 0 => 1 % q
  | n + 1 =>
    let r := powModBits b q (e / 2) n
    if e % 2 = 1 then r * r % q * b % q else r * r % q

/-- b^e mod q. -/
def powMod (b e q : Nat) : Nat := powModBits b q e (bitLen e)

/-- The squarings of one Miller–Rabin base: some x^(2^i) for i below s equals q − 1. -/
def mrSquare (q x : Nat) : Nat → Bool
  | 0 => false
  | s + 1 => x = q - 1 || mrSquare q (x * x % q) s

/-- q − 1 = 2^s · d with d odd: the pair (s, d), by halving at most n times. -/
def oddPart : Nat → Nat → Nat → Nat × Nat
  | 0, s, d => (s, d)
  | n + 1, s, d => if d % 2 = 0 && d ≠ 0 then oddPart n (s + 1) (d / 2) else (s, d)

/-- One base of the Miller–Rabin test. -/
def mrBase (q a : Nat) : Bool :=
  let (s, d) := oddPart 64 0 (q - 1)
  a % q = 0 || (let x := powMod a d q; x = 1 || mrSquare q x s)

/-- The device's primality test: Miller–Rabin with the twelve bases of R62, exact below 2^36. -/
def isPrime (q : Nat) : Bool :=
  2 ≤ q && [2, 3, 5, 7, 11, 13, 17, 19, 23, 29, 31, 37].all (fun a => q = a || (q % a ≠ 0 && mrBase q a))

/-- An admissible modulus for a chain whose largest degree is 2^maxLogN (R52). -/
def admissible (maxLogN q : Nat) : Bool :=
  2 ^ 20 < q && q < 2 ^ 36 && q % (2 * 2 ^ maxLogN) = 1 && isPrime q

/-- ⌊log2 x⌋ of an x ≥ 1, from bit k − 1 of the result down, the higher bits in a. -/
def floorLog2 (x : Nat) : Nat → Nat → Nat
  | 0, a => a
  | k + 1, a => if 2 ^ (a + 2 ^ k) ≤ x then floorLog2 x k (a + 2 ^ k) else floorLog2 x k a

/-- The scale step L = round(65,536 × log2 q) of a q below 2^36 (R64). No odd q above 1 gives a tie. -/
def scaleStep (q : Nat) : Nat := (floorLog2 (q ^ 131072) 23 0 + 1) / 2

/-- What the device stores for an entry of a chain (R53, R64). -/
def mkModulus (q psi : Nat) : Modulus :=
  { q := q, psi := psi, b := bitLen q, mu := barrettMu q, step := scaleStep q }

/-- The inverse of a modulo a prime q. -/
def invMod (a q : Nat) : Nat := powMod (a % q) (q - 2) q

/-! ## The transform pair (R84, R85) -/

abbrev Limb := List Nat

/-- The transform root ψ_N of a modulus at degree 2^logN (03_transforms, R88). -/
def psiN (m : Modulus) (maxLogN logN : Nat) : Nat := powMod m.psi (2 ^ (maxLogN - logN)) m.q

/-- The value of a polynomial at x modulo q. -/
def polyEval (q x : Nat) (l : Limb) : Nat := l.foldr (fun a acc => (a + x * acc) % q) 0

/-- `NTT` of a limb of in-range residues (R84): position k holds the value at ψ_N^(2k+1). -/
def nttLimb (q psi : Nat) (l : Limb) : Limb :=
  (List.range l.length).map (fun k => polyEval q (powMod psi (2 * k + 1) q) l)

/-- `INTT` (R85): a_i = N^(−1) × ψ_N^(−i) × Σ_k â_k × (ψ_N^(−2i))^k. -/
def inttLimb (q psi : Nat) (l : Limb) : Limb :=
  let n := l.length
  let inv := powMod psi (2 * n - 1) q
  let nInv := q - (q - 1) / n
  (List.range n).map (fun i => nInv * (powMod inv i q * polyEval q (powMod inv (2 * i) q) l % q) % q)

/-- `AUTO` in the NTT domain (R100): out[k] = in[k'], 2k' + 1 = (2k + 1) × g mod 2N. -/
def autoNtt (g : Nat) (l : Limb) : Limb :=
  let n := l.length
  let a := l.toArray
  (List.range n).map (fun k => a.getD (((2 * k + 1) * g % (2 * n) - 1) / 2) 0)

/-- `AUTO` in the coefficient domain (R101), read from the output's side: position e takes the input i with
i × g ≡ e or e + N modulo 2N. -/
def autoCoef (m : Modulus) (g : Nat) (l : Limb) : Limb :=
  let n := l.length
  let a := l.toArray
  let gInv := powMod g (n - 1) (2 * n)
  (List.range n).map (fun e =>
    let i := e * gInv % (2 * n)
    if i < n then a.getD i 0 else laneNeg m (a.getD (i - n) 0))

/-- A transform-unit command reduces each word as it loads it (R86). -/
def loadLimb (m : Modulus) (l : Limb) : Limb := l.map (reduceWord m)

/-- A Galois element is valid for degree 2^logN when it is odd and below 2N (R99). -/
def galoisOk (logN g : Nat) : Bool := g % 2 = 1 && g < 2 * 2 ^ logN

/-! ## Base conversion (R105) -/

/-- The product of the moduli of a list. -/
def prodQ (ms : List Modulus) : Nat := ms.foldl (fun a m => a * m.q) 1

/-- One target limb of `BCONV` from the limbs y_j already scaled. -/
def bconvTarget (src : List Modulus) (ys : List Limb) (p : Modulus) : Limb :=
  let Q := prodQ src
  let n := (ys.headD []).length
  (src.zip ys).foldl
    (fun acc e => (acc.zip e.2).map (fun z => laneMulAdd p (reduceWord p z.2) (Q / e.1.q % p.q) z.1))
    (List.replicate n 0)

/-- `BCONV` of limbs x over the source moduli onto the target moduli (R105). -/
def bconv (src tgt : List Modulus) (xs : List Limb) : List Limb :=
  let Q := prodQ src
  let ys := (src.zip xs).map (fun e => e.2.map (fun x => laneMul e.1 x (invMod (Q / e.1.q) e.1.q)))
  tgt.map (bconvTarget src ys)

/-- Element-wise combination of two limbs under a modulus. -/
def zipLimb (f : Nat → Nat → Nat) (x y : Limb) : Limb := (x.zip y).map (fun e => f e.1 e.2)

/-! ## Residues in bytes (R67, R68) -/

/-- n residues of 36 bits out of a little-endian number. -/
def residuesOf : Nat → Nat → Limb
  | 0, _ => []
  | n + 1, v => v % 2 ^ 36 :: residuesOf n (v / 2 ^ 36)

/-- The number whose 36-bit fields are the residues, the first lowest. -/
def packWords : Limb → Nat
  | [] => 0
  | r :: rs => r % 2 ^ 36 + 2 ^ 36 * packWords rs

/-- Pairs of residues are nine bytes: the bytes of a limb, two residues at a time. -/
def limbBytes : Limb → List Byte
  | a :: b :: r => leBytes 9 (packWords [a, b]) ++ limbBytes r
  | [a] => leBytes 5 (a % 2 ^ 36)
  | [] => []

/-- The residues of a byte string, nine bytes holding two. -/
def bytesLimb : List Byte → Limb
  | b0 :: b1 :: b2 :: b3 :: b4 :: b5 :: b6 :: b7 :: b8 :: r =>
    residuesOf 2 (leNat [b0, b1, b2, b3, b4, b5, b6, b7, b8]) ++ bytesLimb r
  | _ => []

/-- Lines of a limb of degree 2^logN (R70). -/
def limbLines (logN : Nat) : Nat := 2 ^ logN / 16

/-- Bytes of a limb of degree 2^logN (R70). -/
def limbSize (logN : Nat) : Nat := 2 ^ logN / 128 * 576

end Sys2Proof.Machine
end

