-- ==== Sys2Proof/Machine/Hash.lean ====
section
/-! DEFINITION. The external standards whose values the manual uses and that depend on no secret: SHA-256 (FIPS 180-4,
R543), SHAKE256 (FIPS 202, R128), CRC-32 (IEEE 802.3, R501) and CRC-8 (R447); and the uniform limbs of a key (R129).
PRESUMED (log 16): the standards' text is outside the manual. -/

namespace Sys2Proof.Machine

/-! ## SHA-256 -/

/-- The largest r + d with d < 2^fuel and (r + d)^k ≤ n. -/
def rootFloor (k n : Nat) : Nat → Nat → Nat
  | 0, r => r
  | b + 1, r => rootFloor k n b (if (r + 2 ^ b) ^ k ≤ n then r + 2 ^ b else r)

/-- The first 32 bits of the fraction of the k-th root of a number below 8^k. -/
def rootFraction (k p : Nat) : BitVec 32 := BitVec.ofNat 32 (rootFloor k (p * 2 ^ (32 * k)) 35 0)

/-- The primes below 312, 64 of them. -/
def shaPrimes : List Nat :=
  (List.range 312).filter fun p => 2 ≤ p && [2, 3, 5, 7, 11, 13, 17].all fun d => p = d || p % d ≠ 0

/-- The big-endian number of a byte string. -/
def beNat (bs : List Byte) : Nat := leNat bs.reverse

/-- n bytes of a number, most significant first. -/
def beBytes (n v : Nat) : List Byte := (leBytes n v).reverse

/-- The exclusive or of a word's right rotations. -/
def rotations (w : BitVec 32) (ns : List Nat) : BitVec 32 := (ns.map w.rotateRight).foldl (· ^^^ ·) 0

/-- A sliding window of sixteen message words moves on by one: its first word leaves, and the word that the schedule
makes of four of them follows. -/
def slideWindow (win : List (BitVec 32)) : List (BitVec 32) :=
  let at_ := fun i => win.getD i 0
  win.drop 1 ++ [at_ 0 + (rotations (at_ 1) [7, 18] ^^^ at_ 1 >>> 3) + at_ 9 + (rotations (at_ 14) [17, 19] ^^^ at_ 14 >>> 10)]

/-- The working variables as two histories of four, newest first: those called a to d and those called e to h. -/
structure ShaVars where
  old : List (BitVec 32)
  new : List (BitVec 32)

/-- A round adds one word to each history. -/
def ShaVars.round (x : ShaVars) (kw : BitVec 32) : ShaVars :=
  let p := fun i => x.old.getD i 0
  let q := fun i => x.new.getD i 0
  let t := q 3 + rotations (q 0) [6, 11, 25] + ((q 0 &&& q 1) ||| (~~~ q 0 &&& q 2)) + kw
  let maj := (p 0 &&& (p 1 ||| p 2)) ||| (p 1 &&& p 2)
  { old := (t + rotations (p 0) [2, 13, 22] + maj) :: x.old.take 3, new := (p 3 + t) :: x.new.take 3 }

/-- The rounds of a block, one for each constant left. -/
def shaRounds (win : List (BitVec 32)) (x : ShaVars) : List Nat → ShaVars
  | [] => x
  | p :: ps => shaRounds (slideWindow win) (x.round (rootFraction 3 p + win.headD 0)) ps

/-- The word at a place of a byte string, most significant byte first. -/
def beWord (bs : List Byte) (i : Nat) : BitVec 32 := BitVec.ofNat 32 (beNat ((bs.drop (4 * i)).take 4))

/-- The hash value after a block of 64 bytes. -/
def shaCompress (hv : List (BitVec 32)) (block : List Byte) : List (BitVec 32) :=
  let x := shaRounds ((List.range 16).map (beWord block)) { old := hv.take 4, new := hv.drop 4 } shaPrimes
  List.zipWith (· + ·) hv (x.old ++ x.new)

/-- A message with its padding and its length in bits: whole blocks. -/
def shaPadded (bs : List Byte) : List Byte :=
  bs ++ 0x80 :: List.replicate ((119 - bs.length % 64) % 64) 0 ++ beBytes 8 (8 * bs.length)

/-- SHA-256 of a byte string, in the byte order of the standard (R10). -/
def sha256 (bs : List Byte) : List Byte :=
  let m := shaPadded bs
  let start := (shaPrimes.take 8).map (rootFraction 2)
  let hv := (List.range (m.length / 64)).foldl (fun hv i => shaCompress hv ((m.drop (64 * i)).take 64)) start
  hv.flatMap fun w => beBytes 4 w.toNat

/-- HMAC-SHA-256 with a key of at most one block (R534; FIPS 198-1). -/
def hmacSha256 (key msg : List Byte) : List Byte :=
  let k := (key ++ List.replicate 64 0).take 64
  let pad := fun (b : Byte) => k.map (· ^^^ b)
  sha256 (pad 0x5C ++ sha256 (pad 0x36 ++ msg))

/-! ## SHAKE256 -/

/-- The bit that the linear feedback register of the round constants gives at a step (x^8 + x^6 + x^5 + x^4 + 1). -/
def keccakLfsr : Nat → BitVec 8 → Bool
  | 0, r => r.getLsbD 0
  | n + 1, r => keccakLfsr n (if r.getLsbD 7 then (r <<< 1) ^^^ 0x71 else r <<< 1)

/-- The constant of a round: the register's bits stand at the places 2^j − 1. -/
def keccakRC : List (BitVec 64) :=
  (List.range 24).map fun i =>
    (List.range 7).foldl (fun c j => if keccakLfsr (7 * i + j) 1 then c ||| 1#64 <<< (2 ^ j - 1) else c) 0

/-- The rotation of ρ at a lane x + 5y, by the walk from (1, 0) that takes (x, y) to (y, 2x + 3y). -/
def keccakWalk (lane : Nat) : Nat → Nat → Nat → Nat → Nat
  | 0, _, _, _ => 0
  | n + 1, t, x, y =>
    if x + 5 * y = lane then (t + 1) * (t + 2) / 2 % 64 else keccakWalk lane n (t + 1) y ((2 * x + 3 * y) % 5)

/-- Rotation offsets of ρ, lane x + 5y. -/
def keccakRot : List Nat := (List.range 25).map fun l => keccakWalk l 24 0 1 0

/-- One round of Keccak-f[1600] on 25 lanes. -/
def keccakRound (a : Array (BitVec 64)) (rc : BitVec 64) : Array (BitVec 64) :=
  let g := fun (v : Array (BitVec 64)) (i : Nat) => v.getD i 0
  let c := ((List.range 5).map (fun x => g a x ^^^ g a (x + 5) ^^^ g a (x + 10) ^^^ g a (x + 15) ^^^ g a (x + 20))).toArray
  let d := ((List.range 5).map (fun x => g c ((x + 4) % 5) ^^^ (g c ((x + 1) % 5)).rotateLeft 1)).toArray
  let t := ((List.range 25).map (fun i => g a i ^^^ g d (i % 5))).toArray
  -- ρ and π: the lane at (y, 2x + 3y) comes from (x, y)
  let b := ((List.range 25).map (fun i =>
    let X := i % 5
    let Y := i / 5
    let x := (X + 3 * Y) % 5
    let y := X
    (g t (x + 5 * y)).rotateLeft (keccakRot.getD (x + 5 * y) 0))).toArray
  let e := (List.range 25).map (fun i =>
    let x := i % 5
    let y := i / 5
    g b i ^^^ (~~~ (g b ((x + 1) % 5 + 5 * y)) &&& g b ((x + 2) % 5 + 5 * y)))
  (e.zipIdx.map (fun z => if z.2 = 0 then z.1 ^^^ rc else z.1)).toArray

/-- Keccak-f[1600]. -/
def keccakF (a : Array (BitVec 64)) : Array (BitVec 64) := keccakRC.foldl keccakRound a

/-- The 136 rate bytes of a Keccak state. -/
def keccakOut (a : Array (BitVec 64)) : List Byte :=
  (List.range 17).flatMap (fun i => leBytes 8 (a.getD i 0).toNat)

/-- The state after absorbing a short message (at most 135 bytes) with the SHAKE padding. -/
def shakeStart (msg : List Byte) : Array (BitVec 64) :=
  let v := leNat (msg ++ [0x1f]) + 2 ^ 1087
  keccakF ((List.range 25).map (fun i => BitVec.ofNat 64 (v / 2 ^ (64 * i)))).toArray

/-- The first n rate blocks of SHAKE256 output. -/
def shakeBlocks : Nat → Array (BitVec 64) → List Byte
  | 0, _ => []
  | n + 1, a => keccakOut a ++ shakeBlocks n (keccakF a)

/-! ## The uniform half of a key (R128, R129) -/

/-- The 48-byte input block of a segment (R128). -/
def segmentBlock (seed : List Byte) (logN d kind q t : Nat) : List Byte :=
  seed ++ [0x50, 0x4C, 0x4B, 0x58, 0x01, BitVec.ofNat 8 logN, BitVec.ofNat 8 d, BitVec.ofNat 8 kind] ++
    leBytes 5 q ++ leBytes 2 t ++ [0]

/-- Rejection sampling of R129: from 5-byte candidates, the values below q of their low b bits, at most `need`. -/
def acceptValues (q b : Nat) : Nat → List Byte → List Nat
  | 0, _ => []
  | need + 1, x0 :: x1 :: x2 :: x3 :: x4 :: r =>
    let v := leNat [x0, x1, x2, x3, x4] % 2 ^ b
    if v < q then v :: acceptValues q b need r else acceptValues q b (need + 1) r
  | _ + 1, _ => []

/-- SHAKE256 output is unbounded (R128); segments are read from `fuel` rate blocks, doubled until 1,024 values are
accepted. Each 136-byte block yields at least 13 accepted values on average for every width, so 16 doublings never
run out. -/
def segmentFrom (q b : Nat) (st : Array (BitVec 64)) : Nat → Nat → List Nat
  | 0, _ => []
  | fuel + 1, n =>
    let vs := acceptValues q b 1024 (shakeBlocks n st)
    if vs.length = 1024 then vs else segmentFrom q b st fuel (2 * n)

/-- Segment t of the uniform limb a_(d,j) (R128, R129). -/
def uniformSegment (seed : List Byte) (logN d kind : Nat) (m : Modulus) (t : Nat) : List Nat :=
  segmentFrom m.q m.b (shakeStart (segmentBlock seed logN d kind m.q t)) 16 80

/-- The uniform limb a_(d,j). -/
def uniformLimb (seed : List Byte) (logN d kind : Nat) (m : Modulus) : Limb :=
  (List.range (2 ^ logN / 1024)).flatMap (fun t => uniformSegment seed logN d kind m t)

/-! ## CRCs -/

/-- One bit step of the reflected CRC-32. -/
def crc32Bits : Nat → BitVec 32 → BitVec 32
  | 0, c => c
  | n + 1, c => crc32Bits n (if c.getLsbD 0 then (c >>> 1) ^^^ 0xEDB88320 else c >>> 1)

/-- CRC-32 with the IEEE 802.3 polynomial (R501, R585). -/
def crc32 (bs : List Byte) : BitVec 32 :=
  ~~~ (bs.foldl (fun c b => crc32Bits 8 (c ^^^ b.setWidth 32)) 0xFFFFFFFF)

/-- CRC-8, polynomial x^8 + x^2 + x + 1, over n bits of a number, most significant bit first (R447). -/
def crc8 (v : Nat) : Nat → BitVec 8 → BitVec 8
  | 0, c => c
  | n + 1, c =>
    let top := c.getLsbD 7 != v.testBit n
    crc8 v n (if top then (c <<< 1) ^^^ 0x07 else c <<< 1)

end Sys2Proof.Machine
end

