-- ==== Sys2Proof/Machine/Ops.lean ====
section
/-! DEFINITION. The named operations over the state that the commands share: the units by number, interrupt vectors and
`fn_cause`, the event log, the counters, the trace, the life of a task with its abort (R390), and the semaphores. -/

namespace Sys2Proof.Machine

/-- What a command answers. -/
abbrev Out := Host.Outcome State Fault Refusal

/-- A fault of a task: its code, its `detail` (R568), and the Shell and the index of the command it is laid
to where that is not the one that met it (R569). -/
structure Flt where
  code : Nat
  detail : Nat
  laid : Option (Nat × Nat) := none
  deriving DecidableEq, Repr

/-- An action on the state that may end in a fault; what was counted and logged before the fault stays. -/
abbrev Act (α : Type) := ExceptT Flt (StateM State) α

/-- The outcome of an action: its result or fault, and the state after it. -/
def Act.go {α : Type} (a : Act α) (s : State) : Except Flt α × State := a s

/-- An action that cannot fail. -/
def upd (f : State → State) : Act Unit := modify f

/-- A check: the fault unless the condition holds. -/
def need (c : Bool) (code detail : Nat) : Act Unit := if c then pure () else throw { code := code, detail := detail }

/-! ## Units by number -/

def portNum : Port → Nat
  | .A => 0
  | .B => 1

def otherPort : Port → Port
  | .A => .B
  | .B => .A

def portOf (n : Nat) : Port := if n = 0 then .A else .B

/-- The die of a logical Shell (R24). -/
def dieOf (L : Nat) : Nat := L / 32

/-- The Crew of a logical Shell (R27). -/
def crewOf (L : Nat) : Nat := L / 8

def fnKey (p : Port) (f : Nat) : Nat := 32 * portNum p + f

def ringKey (p : Port) (f r : Nat) : Nat := 8 * fnKey p f + r

/-- A channel's number: functions first (non-secure, secure), then the management controller's two, then the UART. -/
def chanKey : Chan → Nat
  | .fn p f sec => 2 * fnKey p f + (if sec then 1 else 0)
  | .bmc sec => 128 + (if sec then 1 else 0)
  | .uart => 130

def State.port (s : State) : Port → PortSt
  | .A => s.portA
  | .B => s.portB

def State.setPort (s : State) (p : Port) (x : PortSt) : State :=
  match p with
  | .A => { s with portA := x }
  | .B => { s with portB := x }

def State.modPort (s : State) (p : Port) (f : PortSt → PortSt) : State := s.setPort p (f (s.port p))

def State.shell (s : State) (L : Nat) : Shell := tget (Shell.reset L) s.shells L

def State.setShell (s : State) (L : Nat) (x : Shell) : State := { s with shells := tset s.shells L x }

def State.modShell (s : State) (L : Nat) (f : Shell → Shell) : State := s.setShell L (f (s.shell L))

def State.fn (s : State) (k : Nat) : Fn := tget Fn.reset s.fns k

def State.modFn (s : State) (k : Nat) (f : Fn → Fn) : State := { s with fns := tset s.fns k (f (s.fn k)) }

def State.ring (s : State) (k : Nat) : Ring := tget (Ring.reset (k % 8)) s.rings k

def State.setRing (s : State) (k : Nat) (x : Ring) : State := { s with rings := tset s.rings k x }

def State.modRing (s : State) (k : Nat) (f : Ring → Ring) : State := s.setRing k (f (s.ring k))

def State.ctx (s : State) (c : Nat) : Ctx := tget Ctx.reset s.ctxs c

def State.setCtx (s : State) (c : Nat) (x : Ctx) : State := { s with ctxs := tset s.ctxs c x }

def State.modCtx (s : State) (c : Nat) (f : Ctx → Ctx) : State := s.setCtx c (f (s.ctx c))

def State.setTask (s : State) (t : Nat) (x : Task) : State := { s with tasks := tset s.tasks t x }

/-- A task changed, if it exists. -/
def State.modTask (s : State) (t : Nat) (f : Task → Task) : State :=
  match tfind s.tasks t with
  | none => s
  | some x => s.setTask t (f x)

def State.stack (s : State) (k : Nat) : Stack := tget Stack.reset s.stackTab k

def State.modStack (s : State) (k : Nat) (f : Stack → Stack) : State :=
  { s with stackTab := tset s.stackTab k (f (s.stack k)) }

def State.chan (s : State) (c : Chan) : Channel := tget Channel.reset s.chans (chanKey c)

def State.modChan (s : State) (c : Chan) (f : Channel → Channel) : State :=
  { s with chans := tset s.chans (chanKey c) (f (s.chan c)) }

def Sem.reset : Sem := { owner := none, tie := .A }

def State.sem (s : State) (k : Nat) : Sem := tget Sem.reset s.sems k

/-- A physical Shell: P0–P31 of each die carry a logical number at reset (R25). -/
def State.physOf (s : State) (k : Nat) : Phys :=
  tget { failedRec := false, failedTest := false, used := k % 34 < 32 } s.phys k

def State.modPhys (s : State) (k : Nat) (f : Phys → Phys) : State := { s with phys := tset s.phys k (f (s.physOf k)) }

/-- The task a reference names, with its number: one that has not reached `DONE` (R346). -/
def State.findTask (s : State) (r : TaskRef) : Option (Nat × Task) :=
  s.tasks.find? (fun e => e.2.ref = r && e.2.st ≠ .done)

/-- The port whose PF holds a semaphore (R361). -/
def State.holds (s : State) (p : Port) (k : Nat) : Bool := (s.sem k).owner = some p

/-- A write guarded by a semaphore takes effect only from the port that holds it (R623). -/
def State.guard (s : State) (p : Port) (k : Nat) (x : State) : State := if s.holds p k then x else s

/-- Functions see a part of BAR0 only; the PF is function 0 (R322). -/
def isPF (f : Fin 32) : Bool := f == 0

/-- The number of a fresh free value, with the counter advanced (log 2). -/
def State.drawFree (s : State) : Nat × State := (s.free, { s with free := s.free + 1 })

/-- A fresh identifier of a task, key stream or installation (log 2). -/
def State.fresh (s : State) : Nat × State := (s.nextId, { s with nextId := s.nextId + 1 })

/-- A time that has passed since a stamp, in ns of the model's own clock (log 1). -/
def State.since (s : State) (t : Nat) : Nat := s.clk.now - t

/-- One idle step: the block has no command waiting, and 1 ns passes; the Almanac counts while the PLLs are locked
(R19, R46; log 1). -/
def idle (s : State) : State :=
  { s with clk := { s.clk with now := s.clk.now + 1, alm := if s.clk.pll then s.clk.alm + 1 else s.clk.alm } }

/-! ## Counters (R572, R575) -/

/-- Conflict and stall counters of R199 are 32 bits wide; the rest are 64 (R572). -/
def ctrMax (k : Nat) : Nat := if 512 ≤ k && (k - 512) % 128 < 74 then 2 ^ 32 - 1 else 2 ^ 64 - 1

/-- A counter advanced by n; it saturates. -/
def State.bump (s : State) (k : Nat) (n : Nat := 1) : State :=
  { s with ctr := tset s.ctr k (min (tget 0 s.ctr k + n) (ctrMax k)) }

def modCtr (k : Nat) : Nat := 8 + k
def fabCtr (k : Nat) : Nat := 64 + k
def portCtr (p : Port) (k : Nat) : Nat := 128 + 32 * portNum p + k
def stackCtr (st k : Nat) : Nat := 192 + 32 * st + k
def errCtr (k : Nat) : Nat := 448 + k
def shellCtr (L k : Nat) : Nat := 512 + 128 * L + k

/-! ## The on-package fabric (R32–R36) -/

/-- An end of a message: a logical Shell, a stack's controller and key streamer, a die's other agents (synchronisation,
translation, expanders, trace), and the IOD with its ports. -/
inductive Node where
  | shell (L : Nat)
  | stack (k : Nat)
  | agent (d : Nat)
  | iod
  deriving DecidableEq, Repr

/-- The compute die of an end; none on the IOD. -/
def Node.die : Node → Option Nat
  | .shell L => some (dieOf L)
  | .stack k => some (k / 4)
  | .agent d => some d
  | .iod => none

/-- The flow-control classes, in the order of the counters (R36, R575). -/
inductive MsgClass where
  | response
  | write
  | request
  | management
  deriving DecidableEq, Repr

def MsgClass.num : MsgClass → Nat
  | .response => 0
  | .write => 1
  | .request => 2
  | .management => 3

/-- What a message of a class may give rise to (R36). -/
def MsgClass.gives : MsgClass → List MsgClass
  | .response => []
  | .write => [.response]
  | .request => [.response]
  | .management => [.response, .write, .request]

/-- The bridge pair that a message crosses, and its direction: 0 away from the lower-numbered die (R35, R575). Between
the compute dies a Shell's logical number picks BP0 or BP1 and every other source takes BP0; to and from the IOD BP2 or
BP3 of the own die. -/
def bridge (src dst : Node) : Option (Nat × Nat) :=
  match src.die, dst.die with
  | some a, some b =>
    if a = b then none
    else some (match src with
      | .shell L => L % 2
      | _ => 0, if a < b then 0 else 1)
  | some d, none => some (2 + d, 0)
  | none, some d => some (2 + d, 1)
  | none, none => none

/-- Flits that carry n bytes: 72 bytes each, and one for a message without data (R33). -/
def flits (n : Nat) : Nat := max 1 ((n + 71) / 72)

/-- A message of n bytes: its flits are counted at the bridge it crosses (R575). -/
def State.message (s : State) (k : MsgClass) (src dst : Node) (n : Nat) : State :=
  match bridge src dst with
  | none => s
  | some (p, e) => s.bump (64 + 8 * p + 4 * e + k.num) (flits n)

/-- A message and its answer, which is of a class that the first may give rise to (R36). -/
def State.exchange (s : State) (k : MsgClass) (src dst : Node) (out back : Nat) : State :=
  (s.message k src dst out).message .response dst src back

/-- A read of n bytes by one end from another (R36). -/
def State.readMsg (s : State) (src dst : Node) (n : Nat) : State := s.exchange .request src dst 0 n

/-- A write of n bytes (R36). -/
def State.writeMsg (s : State) (src dst : Node) (n : Nat) : State := s.exchange .write src dst n 0

/-! ## Two-copy records (R498) -/

/-- The sequence number of a copy; one that was never written is the oldest. -/
def copySeq {α : Type} : Option (Nat × Bool × α) → Nat
  | none => 0
  | some e => e.1

/-- A record is written into the copy with the older sequence number. -/
def TwoCopy.put {α : Type} (c : TwoCopy α) (x : α) : TwoCopy α :=
  let n := max (copySeq c.a) (copySeq c.b) + 1
  if copySeq c.b < copySeq c.a then { c with b := some (n, true, x) } else { c with a := some (n, true, x) }

/-- The newer of the copies that stand as written and authenticate. -/
def TwoCopy.take {α : Type} (ok : α → Bool) (c : TwoCopy α) : Option α :=
  let good := fun (e : Option (Nat × Bool × α)) => e.filter fun e => e.2.1 && ok e.2.2
  match good c.a, good c.b with
  | some x, some y => some (if x.1 < y.1 then y.2.2 else x.2.2)
  | some x, none => some x.2.2
  | none, some y => some y.2.2
  | none, none => none

/-- A record that was never written. -/
def TwoCopy.none {α : Type} : TwoCopy α := { a := .none, b := .none }

/-- Whether a record was written at all. -/
def TwoCopy.written {α : Type} (c : TwoCopy α) : Bool := c.a.isSome || c.b.isSome

/-! ## Interrupts (R358, R633, R640) -/

/-- An MSI-X entry at reset is masked (log 8). -/
def msixReset : BitVec 128 := 1#128 <<< 96

/-- A vector is raised: a message is sent, or the pending bit records it while the entry is masked (R358). -/
def raise (p : Port) (f v : Nat) (s : State) : State :=
  s.modFn (fnKey p f) fun x =>
    if (tget msixReset x.msix v).getLsbD 96 then { x with pba := x.pba ||| (1#9 <<< v) }
    else { x with sent := tset x.sent v (tget 0 x.sent v + 1) }

/-- A cause of the error vector sets; every cause but `dom_off` raises vector 8 (R633). -/
def setCause (p : Port) (f b : Nat) (s : State) : State :=
  let s := s.modFn (fnKey p f) fun x => { x with cause := x.cause ||| (1#14 <<< b) }
  if b = 7 then s else raise p f 8 s

/-- A cause of the error vectors of both PFs. -/
def setCauseBoth (b : Nat) (s : State) : State := setCause .B 0 b (setCause .A 0 b s)

/-! ## The event log (R501, R502) -/

def logMax : Nat := 1024

/-- Where the oldest record of the lowest severity present stands. -/
def logVictim (b : List LogRec) : Option Nat :=
  let m := b.foldl (fun a r => min a r.sev) 7
  b.findIdx? (fun r => r.sev = m)

/-- A record is placed in the RAM buffer. When the buffer is full, a record of higher severity displaces the oldest of
the lowest severity present, and otherwise it is dropped; what is displaced or dropped is counted, and the count goes
into the next record (R502); both PFs are told (R532). -/
def logEvent (type sev ctx : Nat) (payload : List Nat) (s : State) : State :=
  let c := s.cox
  let r : LogRec :=
    { alm := s.clk.alm, seq := c.seq, boot := c.boot, sev := sev, type := type, ctx := ctx,
      payload := if c.dropped = 0 then payload else payload ++ [c.dropped] }
  if c.logBuf.length < logMax then
    { s with cox := { c with logBuf := c.logBuf ++ [r], seq := c.seq + 1, dropped := 0 } }
  else
    match logVictim c.logBuf with
    | some i =>
      if (c.logBuf.getD i r).sev < sev then
        setCauseBoth 9 { s.bump (errCtr 21) with
          cox := { c with logBuf := c.logBuf.eraseIdx i ++ [r], seq := c.seq + 1, dropped := 1 } }
      else setCauseBoth 9 { s.bump (errCtr 21) with cox := { c with dropped := c.dropped + 1 } }
    | none => s

/-- Cox's summary of corrected events gathers their count and last address by source (R564). -/
def noteCorrected (source addr : Nat) (s : State) : State :=
  { s with cox := { s.cox with corr := tset s.cox.corr source ((tget (0, 0) s.cox.corr source).1 + 1, addr) } }

/-! ## The trace (R577–R582) -/

/-- Whether a source's event of a context is recorded. -/
def traced (t : Trace) (src : Nat) (event ctx : Nat) : Bool :=
  t.en && (if src = 64 then t.cox else t.shells.getLsbD src) &&
    (t.events.getLsbD event || (0x20 ≤ event && event ≤ 0x22)) && (t.ctx = 0 || t.ctx.toNat = ctx)

/-- A source offers a record; it holds up to 8, and a record that finds its queue full is lost and counted (R582). -/
def offer (src : Nat) (r : TraceRec) (s : State) : State :=
  let q := tget [] s.trace.waiting src
  if q.length < 8 then { s with trace := { s.trace with waiting := tset s.trace.waiting src (q ++ [r]) } }
  else
    { s.bump (errCtr 22) with
      trace := { s.trace with lost := tset s.trace.lost src (tget 0 s.trace.lost src + 1) } }

/-- The ring field of a trace record (R578). -/
def refCode (r : TaskRef) : Nat := 256 * portNum r.port + 8 * r.fn.val + r.ring.val

/-- An event of a Shell of a task is offered to the trace. -/
def traceTask (L : Nat) (t : Task) (event op status idx arg : Nat) (s : State) : State :=
  if traced s.trace L event t.ctx then
    offer L { alm := s.clk.alm, shell := L, cox := false, event := event, op := op, status := status, idx := idx,
              ctx := t.ctx, ring := refCode t.ref, dindex := t.ref.index, arg := BitVec.ofNat 64 arg } s
  else s

/-- An event of each of the Shells, whose argument is the unit at which its command stands (R579). -/
def traceUnits (t : Task) (event status : Nat) (ls : List Nat) (s : State) : State :=
  ls.foldl (fun s L => traceTask L t event 0 status (s.shell L).stroke.idx (s.shell L).stroke.point s) s

/-- An event of every Shell of a task. -/
def traceAll (t : Task) (event status arg : Nat) (s : State) : State :=
  (setBits t.shells.toNat 64).foldl (fun s L => traceTask L t event 0 status (s.shell L).stroke.idx arg s) s

/-! ## Cycle-exact timing (R455) -/

/-- A task loses its cycle-exact timing; the loss is logged with the row of R455 and the die. -/
def loseExact (tid row die : Nat) (s : State) : State :=
  match tfind s.tasks tid with
  | none => s
  | some t =>
    if t.exact then logEvent 0x0104 0 t.ctx [row, die] (s.setTask tid { t with exact := false }) else s

/-- Whether a task has a Shell on a die. -/
def onDie (t : Task) (d : Nat) : Bool := bits t.shells.toNat (32 * d + 31) (32 * d) ≠ 0

/-- A task runs from admission until it ends or has yielded. -/
def live (t : Task) : Bool :=
  t.st = .admitted || t.st = .running || t.st = .yielding || t.st = .resuming

/-- Every running task on a die loses it. -/
def loseExactDie (row d : Nat) (s : State) : State :=
  s.tasks.foldl (fun s e => if live e.2 && onDie e.2 d then loseExact e.1 row d s else s) s

/-! ## The life of a task -/

/-- A task changes its state (R346, R639). -/
def setTaskState (tid : Nat) (st : TaskState) (s : State) : State :=
  s.modTask tid fun t => { t with st := st, tState := s.clk.alm }

/-- A freeze ends: it is traced and logged as a hand-set action (R584). -/
def endFreeze (tid : Nat) (s : State) : State :=
  match tfind s.tasks tid with
  | none => s
  | some t =>
    if t.frozen then
      logEvent 0x0103 0 t.ctx [portNum t.ref.port, refCode t.ref, 1, 0]
        (traceAll t 0x22 0 0 (s.setTask tid { t with frozen := false }))
    else s

/-- A Shell of a task stops: it issues nothing more, its releases and asynchronous copies and key streams are dropped
(R390 steps 1–3). -/
def stopShell (L : Nat) (s : State) : State :=
  s.modShell L fun x =>
    { x with stroke := { x.stroke with run := false, wait := .none, rel := [] }, asyncIn := [], asyncOut := [],
             ks0 := none, ks1 := none, boot := none }

/-- Every Shell that a task holds. -/
def heldBy (s : State) (tid : Nat) : List Nat := (List.range 64).filter (fun L => (s.shell L).holder = some tid)

/-- A running task loses a pending gate (R452); the gate disarms. -/
def disarmGate (t : Task) (s : State) : State :=
  match t.gate with
  | none => s
  | some g => s.modPort t.ref.port fun p =>
      { p with gates := tset p.gates g { tget Gate.reset p.gates g with arm := false, task := none } }

/-- The tasks of R390 drop their key streams; updates of their vigils on the way go with them (R387). -/
def dropStreams (tid : Nat) (s : State) : State :=
  { s with streams := s.streams.filter (fun e => e.2.task ≠ tid) }

/-- The window entries that a task's `BOOT` reserves are free again (R212). -/
def endBootWin (tid : Nat) (s : State) : State :=
  { s with shells := tmap (fun _ x => if x.bootWin = some tid then { x with bootWin := none } else x) s.shells }

/-- The first fault of a task as it is kept. -/
def taskFault (f : Flt) (fshell cmd : Nat) : TFault :=
  { code := BitVec.ofNat 8 f.code, detail := BitVec.ofNat 64 f.detail, cmd := BitVec.ofNat 32 cmd, fshell := fshell }

/-- What the log says of a task's fault (R571). -/
def faultRecord (t : Task) (f : Flt) (fshell cmd : Nat) : List Nat :=
  [f.code, refCode t.ref, t.ref.index.toNat, fshell, cmd, f.detail]

/-- A fault of a Shell, which is not an abort by the host or by a stage (R347). -/
def ofShell (code : Nat) : Bool := code ≠ 0x41 && code ≠ 0x42

/-- A fault met at the Almanac count of the task's first fault, on a lower logical Shell (R390). -/
def tiesFirst (now : BitVec 64) (t : Task) (f : Flt) (fshell : Nat) : Bool :=
  match t.fault with
  | none => false
  | some g => t.st = .ending && t.tState = now && ofShell f.code && ofShell g.code.toNat && fshell < g.fshell

/-- The record of a task's fault in the log's buffer takes the fault of the lower Shell. -/
def relogFault (t : Task) (f : Flt) (fshell cmd : Nat) (s : State) : State :=
  { s with cox := { s.cox with logBuf := s.cox.logBuf.map fun r =>
      if r.type = 0x0101 && r.alm = s.clk.alm && (r.payload.drop 1).take 2 = [refCode t.ref, t.ref.index.toNat]
      then { r with payload := faultRecord t f fshell cmd ++ r.payload.drop 6 } else r } }

/-- The whole-task abort (R390). The first fault decides the status, and of two at one Almanac count that of the lower
logical Shell; any other is only counted (R570). `fshell` and `cmd` say where it was raised. -/
def abortTask (tid : Nat) (f : Flt) (fshell cmd : Nat) (s : State) : State :=
  match tfind s.tasks tid with
  | none => s
  | some t =>
    if t.fault.isSome || t.st = .ending || t.st = .done then
      let s := s.bump (errCtr 20)
      if tiesFirst s.clk.alm t f fshell then
        relogFault t f fshell cmd (s.modTask tid fun t => { t with fault := some (taskFault f fshell cmd) })
      else s
    else
      let s := endFreeze tid s
      let s := (heldBy s tid).foldl (fun s L => stopShell L s) s
      let s := dropStreams tid s
      let s := endBootWin tid s
      let s := disarmGate t s
      let s := s.modTask tid fun t =>
        { t with fault := some (taskFault f fshell cmd),
                 st := .ending, tState := s.clk.alm, preReq := false, gate := none, bootRun := false,
                 stalled := false, tDue := s.clk.alm, reported := if t.st = .waiting then t.shells else t.reported }
      let s := traceTask fshell t 0x06 0 f.code cmd f.detail s
      logEvent 0x0101 3 t.ctx (faultRecord t f fshell cmd) s

/-- The abort for a fault that is laid to its own command, and otherwise to the one given (R569). -/
def abortLaid (tid : Nat) (f : Flt) (fshell cmd : Nat) (s : State) : State :=
  match f.laid with
  | some (L, i) => abortTask tid f L i s
  | none => abortTask tid f fshell cmd s

/-- An action whose faults are laid to a Shell's command (R569). -/
def laidTo {α : Type} (fshell cmd : Nat) (a : Act α) : Act α := fun s =>
  match a.go s with
  | (.error f, u) => (.error { f with laid := some (fshell, cmd) }, u)
  | r => r

/-- A dip being recorded (R486). -/
def modDip (f : Dip → Dip) (s : State) : State := { s with pwr := { s.pwr with dip := s.pwr.dip.map f } }

/-- No command is tied to the fault (R569). -/
def noCmd : Nat := 2 ^ 32 - 1

/-- Cox runs its own work: it serves and hands nothing over. -/
def coxRuns (s : State) : Bool := s.up.coxUp && !s.cox.handover

/-- Many tasks aborted alike, those that satisfy a test. -/
def abortWhere (p : Nat → Task → Bool) (f : Flt) (s : State) : State :=
  s.tasks.foldl (fun s e => if p e.1 e.2 then abortTask e.1 f 0 noCmd s else s) s

/-- A pre-emption request reaches a running task (R313); a freeze of the task ends (R584). -/
def requestPreempt (tid : Nat) (s : State) : State :=
  match tfind s.tasks tid with
  | none => s
  | some t =>
    if t.st = .running then
      setTaskState tid .yielding ((endFreeze tid s).modTask tid fun t => { t with preReq := true })
    else s

/-- The task that holds a Shell and is in a given state, where the Stroke core runs and waits for nothing and the task is
not faulted; of a frozen task only the command in flight runs on (R584). -/
def taskOn (st : TaskState) (s : State) (L : Nat) : Option (Nat × Task) :=
  let x := s.shell L
  match x.holder with
  | none => none
  | some tid =>
    match tfind s.tasks tid with
    | none => none
    | some t =>
      if t.st = st && (!t.frozen || x.stroke.begun) && t.fault.isNone && x.stroke.run && x.stroke.wait = .none &&
          !x.stroke.ended && !x.pw.parked then some (tid, t) else none

/-- The Shell's running task, for which it can issue. -/
def runningTask (s : State) (L : Nat) : Option (Nat × Task) := taskOn .running s L

/-- Nothing waits to leave a Shell: its records for the trace have been accepted (R50, R582). -/
def drained (s : State) (L : Nat) : Bool := (tget [] s.trace.waiting L).isEmpty

/-- In S2 and deeper a Shell that holds no task parks once nothing waits to leave it (R50, R482). -/
def parkShell (L : Nat) (s : State) : State :=
  if 2 ≤ s.pwr.stage && L < 64 && (s.shell L).holder.isNone && drained s L then
    s.modShell L fun x => { x with pw := { x.pw with parked := true } }
  else s

/-- A Shell's Stroke core changed. -/
def modStroke (L : Nat) (f : Stroke → Stroke) (s : State) : State := s.modShell L fun x => { x with stroke := f x.stroke }

/-- A pre-emption request is in force for the Shell's task (R313). -/
def preempting (s : State) (L : Nat) : Bool :=
  match (s.shell L).holder.bind (tfind s.tasks) with
  | none => false
  | some t => t.st = .yielding

/-- A function of a port, or the PF for any function of the port. -/
def seesCtx (c : Ctx) (p : Port) (f : Nat) : Bool := c.live && c.port = p && c.fn = f

/-- The module is ready for work (R596). -/
def isReady (s : State) : Bool := s.up.ready = .ready

/-- The main domain runs: supplies in range and not at the reset level. -/
def mainOn (s : State) : Bool := s.up.mainUp && !s.up.resetLevel

end Sys2Proof.Machine
end

