-- ==== Sys2Proof/Machine/Flags.lean ====
section
/-! DEFINITION. The flags: the eight predicate flags of a Shell (R302), and the bits of the fault detail that say where a
check failed (R568). -/

namespace Sys2Proof.Machine

/-- The comparison of `PTEST` (R302): 0 equal, 1 not equal, 2 less than, 3 at least; a cache element compares as `I32`,
a loop register unsigned. -/
def testHolds (cmp : Nat) (asSigned : Bool) (src imm : Nat) : Bool :=
  let lt := if asSigned then signed 32 src < signed 32 imm else src < imm
  match cmp with
  | 0 => src % 2 ^ 32 = imm % 2 ^ 32
  | 1 => src % 2 ^ 32 ≠ imm % 2 ^ 32
  | 2 => lt
  | _ => !lt

/-- The predicate flags with flag f set to a result (R302). -/
def setFlag (pf : BitVec 8) (f : Nat) (b : Bool) : BitVec 8 :=
  if b then pf ||| (1#8 <<< f) else pf &&& ~~~ (1#8 <<< f)

/-- The detail of 0x01: structure, row of its check table, byte offset of the failing field (R568). -/
def detail01 (structure_ row off : Nat) : Nat := structure_ + 256 * row + 65536 * off

/-- The offset of a check that relates several fields (R568). -/
def severalFields : Nat := 0xFFFF

/-- The detail of 0x22: chain and row of the check table (R568). -/
def detail22 (chain row : Nat) : Nat := chain + 16 * row

/-- The detail of 0x20: slot, row, resume check, or the operand rule of R78 row 5 (R568). -/
def detail20 (slot row : Nat) (resume operands : Bool) : Nat :=
  slot + 2 ^ 10 * row + (if resume then 2 ^ 14 else 0) + (if operands then 2 ^ 15 else 0)

/-- The detail of 0x21: operand level and levels requested (R568). -/
def detail21 (level asked : Nat) : Nat := level + 64 * asked

/-- The detail of 0x23: the two scales or the low halves of the two plaintext moduli (R568). -/
def detail23 (a b : Nat) : Nat := a % 2 ^ 32 + 2 ^ 32 * (b % 2 ^ 32)

end Sys2Proof.Machine
end

