-- ==== Sys2Proof/Machine/Floats.lean ====
section
/-! DEFINITION. The numbers of the vector engine: the floating-point formats (08_vector_engine_and_clear_training R248, R250), exact arithmetic
on them (R251), the rounding of R257 and R258, conversions (R252), and the random words of R259 and R263. -/

namespace Sys2Proof.Machine

/-! ## Values (R250, R251) -/

/-- A value: ±m·2^e, an infinity or NaN. -/
inductive Val where
  | fin (neg : Bool) (m : Nat) (e : Int)
  | inf (neg : Bool)
  | nan
  deriving DecidableEq, Repr

/-- A floating-point format: exponent bits, mantissa bits, bias. -/
structure Fmt where
  eb : Nat
  mb : Nat
  bias : Nat
  deriving DecidableEq, Repr

/-- Cache types: `I32`, `I16`, `E9M6`, `E8M7` and `W32` (R248, R310). -/
def tI32 : Nat := 1
def tI16 : Nat := 2
def tE9M6 : Nat := 3
def tE8M7 : Nat := 4
def tW32 : Nat := 8

/-- The format of a floating-point type. -/
def fmtOf : Nat → Option Fmt
  | 3 => some { eb := 9, mb := 6, bias := 255 }
  | 4 => some { eb := 8, mb := 7, bias := 127 }
  | 8 => some { eb := 9, mb := 22, bias := 255 }
  | _ => none

def isFloat (t : Nat) : Bool := (fmtOf t).isSome

/-- Bits of a cache type. -/
def typeBits (t : Nat) : Nat := if t = tI32 || t = tW32 then 32 else 16

/-- The exponent field of all ones. -/
def Fmt.top (f : Fmt) : Nat := 2 ^ f.eb - 1

/-- The value of an encoding (R250); `flush` takes subnormals as zero (R263). -/
def decodeVal (f : Fmt) (flush : Bool) (v : Nat) : Val :=
  let s := v.testBit (f.eb + f.mb)
  let E := v / 2 ^ f.mb % 2 ^ f.eb
  let m := v % 2 ^ f.mb
  if E = f.top then if m = 0 then .inf s else .nan
  else if E = 0 then .fin s (if flush then 0 else m) (1 - (f.bias : Int) - f.mb)
  else .fin s (2 ^ f.mb + m) ((E : Int) - f.bias - f.mb)

/-- m·2^e with its sign as an integer at exponent `g` ≤ e. -/
def scaled (neg : Bool) (m : Nat) (e g : Int) : Int :=
  let x : Int := (m * 2 ^ (e - g).toNat : Nat)
  if neg then -x else x

/-- Exact addition (R251). -/
def Val.add : Val → Val → Val
  | .nan, _ => .nan
  | _, .nan => .nan
  | .inf a, .inf b => if a = b then .inf a else .nan
  | .inf a, _ => .inf a
  | _, .inf b => .inf b
  | .fin a m e, .fin b n f =>
    let g := min e f
    let x := scaled a m e g + scaled b n f g
    if x = 0 then .fin (a && b) 0 g else .fin (x < 0) x.natAbs g

def Val.negate : Val → Val
  | .nan => .nan
  | .inf a => .inf (!a)
  | .fin a m e => .fin (!a) m e

def Val.abs : Val → Val
  | .nan => .nan
  | .inf _ => .inf false
  | .fin _ m e => .fin false m e

/-- Exact multiplication (R251). -/
def Val.mul : Val → Val → Val
  | .nan, _ => .nan
  | _, .nan => .nan
  | .inf a, .inf b => .inf (a != b)
  | .inf a, .fin b n _ => if n = 0 then .nan else .inf (a != b)
  | .fin a m _, .inf b => if m = 0 then .nan else .inf (a != b)
  | .fin a m e, .fin b n f => .fin (a != b) (m * n) (e + f)

/-- The order of `VMAX` and `VMIN`: −0 below +0 (R251). -/
def Val.below : Val → Val → Bool
  | .inf a, .inf b => a && !b
  | .inf a, _ => a
  | _, .inf b => !b
  | .fin a m e, .fin b n f =>
    let g := min e f
    let x := scaled a m e g
    let y := scaled b n f g
    x < y || (x = 0 && y = 0 && a && !b)
  | _, _ => false

/-- The larger or the smaller of two values; NaN wins (R251). -/
def Val.pick (big : Bool) (x y : Val) : Val :=
  if x = .nan || y = .nan then .nan
  else if big then (if x.below y then y else x) else (if y.below x then y else x)

/-! ## Rounding (R257, R258) -/

/-- How a value is rounded: to nearest with ties to even, or with a random word of some bits. -/
inductive Rnd where
  | near
  | stoch (bits rho : Nat)
  deriving DecidableEq, Repr

/-- m·2^e in units of 2^g, rounded. -/
def roundUnits (r : Rnd) (m : Nat) (e g : Int) : Nat :=
  if g ≤ e then m * 2 ^ (e - g).toNat
  else
    let sh := (g - e).toNat
    let k := m / 2 ^ sh
    let f := m % 2 ^ sh
    match r with
    | .near => if 2 ^ sh < 2 * f || (2 * f = 2 ^ sh && k % 2 = 1) then k + 1 else k
    | .stoch b rho => if 2 ^ b ≤ f * 2 ^ b / 2 ^ sh + rho then k + 1 else k

/-- A value rounded once to a format (R251); `flush` writes subnormal results as zero (R263). -/
def encodeVal (f : Fmt) (flush : Bool) (r : Rnd) (v : Val) : Nat :=
  let sign := fun (s : Bool) => if s then 2 ^ (f.eb + f.mb) else 0
  match v with
  | .nan => f.top * 2 ^ f.mb + 2 ^ (f.mb - 1)
  | .inf s => sign s + f.top * 2 ^ f.mb
  | .fin s m e =>
    if m = 0 then sign s
    else
      let E := max ((Nat.log2 m : Int) + e) (1 - (f.bias : Int))
      let k := roundUnits r m e (E - f.mb)
      let x := (E + f.bias - 1).toNat * 2 ^ f.mb + k
      if f.top * 2 ^ f.mb ≤ x then sign s + f.top * 2 ^ f.mb
      else if flush && x < 2 ^ f.mb then sign s
      else sign s + x

/-- A value rounded to an integer between two bounds; NaN gives 0 (R252). -/
def toInt (r : Rnd) (lo hi : Int) (v : Val) : Int :=
  match v with
  | .nan => 0
  | .inf s => if s then lo else hi
  | .fin s m e =>
    let k : Int := roundUnits r m e 0
    max lo (min hi (if s then -k else k))

/-- The value of an integer. -/
def valInt (x : Int) : Val := .fin (x < 0) x.natAbs 0

/-- The value that the bits of a cache element stand for. -/
def valOf (flush : Bool) (t v : Nat) : Val :=
  match fmtOf t with
  | some f => decodeVal f flush v
  | none => valInt (signed (typeBits t) v)

/-- A value converted to a type: rounded, or rounded and saturated (R252). -/
def bitsOf (flush : Bool) (r : Rnd) (t : Nat) (v : Val) : Nat :=
  match fmtOf t with
  | some f => encodeVal f flush r v
  | none =>
    let w := typeBits t
    unsigned w (toInt r (-(2 ^ (w - 1) : Nat)) ((2 ^ (w - 1) : Nat) - 1) v)

/-- A type holds every value of another by its types alone, so that a conversion draws nothing (R258). -/
def holdsAll (src dst : Nat) : Bool :=
  src = dst || (!isFloat src && !isFloat dst) || (dst = tW32 && (src = tI16 || src = tE9M6 || src = tE8M7))

/-- The unit in the last place of an encoding (R250), as an exponent of two. -/
def ulpExp (f : Fmt) (v : Nat) : Int := (max (v / 2 ^ f.mb % 2 ^ f.eb) 1 : Nat) - (f.bias : Int) - f.mb

/-! ## Random words (R259, R263) -/

/-- The mixing function of R259. -/
def mix (z : BitVec 64) : BitVec 64 :=
  let z := (z ^^^ (z >>> 30)) * 0xBF58476D1CE4E5B9#64
  let z := (z ^^^ (z >>> 27)) * 0x94D049BB133111EB#64
  z ^^^ (z >>> 31)

/-- The random word of lane n of Shell λ at count k (R259). -/
def laneWord (seed : BitVec 64) (lam n k : Nat) : BitVec 64 :=
  mix (seed ^^^ mix (BitVec.ofNat 64 (k + 2 ^ 40 * n + 2 ^ 49 * lam)))

/-- The first state of forerunner generator n (R263). -/
def foreInit (seed : BitVec 64) (n : Nat) : BitVec 32 :=
  let s := seed.setWidth 32 ^^^ BitVec.ofNat 32 (0x9E3779B9 * (n + 1))
  if s = 0 then 1 else s

/-- One step of a forerunner generator (R263). -/
def foreStep (s : BitVec 32) : BitVec 32 := if s.getLsbD 0 then (s >>> 1) ^^^ 0x80200003#32 else s >>> 1

end Sys2Proof.Machine
end

