-- ==== Sys2Proof/Machine/Memory.lean ====
section
/-! DEFINITION. The named operations over the three address spaces: regions and lines of a scratchpad (06_shell_and_scratchpad),
lines of a stack with their protection, repair and write-combining buffer (12_stacked_memory), host memory through a
port, translation (R326–R330) and the hardware cache (R200–R204). -/

namespace Sys2Proof.Machine

/-! ## Line protection (R192, R401) -/

/-- What a read of a line with errors finds. -/
inductive ErrClass where
  | clean
  | corr
  | unc
  deriving DecidableEq, Repr

/-- The Reed–Solomon codes of 72 byte symbols and more: any two erroneous bytes are corrected, three to six are detected;
what lies beyond is open (R192, R401; log 31). -/
def rsClass (code symbols : Nat) (e : LineErr) : ErrClass :=
  let n := ((List.range symbols).filter fun k => e.wrong.any fun b => b / 8 = k).length
  if n = 0 then .clean else if n ≤ 2 then .corr else if n ≤ 6 then .unc
  else if Config.beyondCode code e.wrong then .unc else .clean

/-- The word of the standard code that a bit of a line's code word belongs to (R192). -/
def secdedWord (b : Nat) : Nat := if b < 576 then b / 72 else (b - 576) / 8

/-- The standard code: eight words, each of which corrects one bit and detects two (R192). -/
def secdedClass (e : LineErr) : ErrClass :=
  let per := (List.range 8).map fun w => ((List.range 640).filter fun b => e.wrong.contains b && secdedWord b = w).length
  if per.any (· = 2) then .unc
  else if per.all (· ≤ 1) then (if per.all (· = 0) then .clean else .corr)
  else if Config.beyondCode 1 e.wrong then .unc else .clean

/-- A scratchpad line under its region's code. -/
def spClass (strong : Bool) (e : LineErr) : ErrClass :=
  if e.forced then .unc else if strong then rsClass 2 80 e else secdedClass e

/-- A stack's line. -/
def stackClass (e : LineErr) : ErrClass := if e.forced then .unc else rsClass 0 72 e

/-- A code word made uncorrectable on purpose, which carries the event already recorded (R218, R424). -/
def forcedErr : LineErr := { wrong := [], forced := true, seen := true }

/-! ## Scratchpad lines (R184, R187–R190) -/

/-- Lines of a scratchpad (R184). -/
def spLines : Nat := 262144

/-- A scratchpad address (R184). -/
def spAddr (L line : Nat) : Nat := L * 2 ^ 18 + line

/-- The Shell and the line of a 24-bit scratchpad address. -/
def addrShell (a : Nat) : Nat := bits a 23 18
def addrLine (a : Nat) : Nat := bits a 17 0

/-- First line of the hardware cache's range: the lines come from the top (R200). -/
def cacheFirst (size : Nat) : Nat := spLines - cacheLines size
where
  /-- Scratchpad lines of a `cache_size` (R200). -/
  cacheLines : Nat → Nat
    | 1 => 8192
    | 2 => 16384
    | 3 => 32768
    | 4 => 65536
    | _ => 0

/-- First line and line count of a region (R184, R187). -/
def Region.line0 (r : Region) : Nat := 64 * r.base.toNat
def Region.lines (r : Region) : Nat := 64 * r.len.toNat

/-- A region a task may access: its own task-scoped regions, or context-scoped ones of its context (R190, R191). -/
def regionMine (tid ctx : Nat) (r : Region) : Bool :=
  if r.scope then r.ctx.toNat = ctx else r.task = some tid

/-- The regions of a Shell that cover a line, of those a task may access. -/
def regionAt (x : Shell) (tid ctx line : Nat) : Option Region :=
  (x.regions.map (·.2)).find? fun r => regionMine tid ctx r && r.line0 ≤ line && line < r.line0 + r.lines

/-- The first of n lines from a on that no region the task may access covers; each step passes one region (R190). -/
def firstOut (x : Shell) (tid ctx : Nat) : Nat → Nat → Nat → Option Nat
  | 0, a, _ => some a
  | fuel + 1, a, e =>
    if e ≤ a then none
    else match regionAt x tid ctx a with
      | none => some a
      | some r => firstOut x tid ctx fuel (r.line0 + r.lines) e

/-- n lines from a 24-bit address on lie on the executing Shell, within the regions of the task (R110, R190); the detail
of 0x02 is the first address out of range (R568). -/
def rangeErr (s : State) (L tid ctx a n : Nat) : Option Nat :=
  if addrShell a ≠ L || (s.shell L).vacant then some a
  else (firstOut (s.shell L) tid ctx 33 (addrLine a) (addrLine a + n)).map (spAddr L)

/-- The code of an action that has to wait for an earlier command in flight; it is no fault (R295). -/
def heldCode : Nat := 256

/-- Lines of a pinned image whose `KEY_PIN` is still in flight on the Shell (R141): header and mask lines, then a limb or
two for each pair. -/
def pinLines (x : KStream) (m : Member) : Nat :=
  let alpha := bits x.hdr.toNat 48 43
  2 + popCount m.mask.toNat 64 * ceilDiv (x.level + 1) alpha * (if m.full then 2 else 1) *
    (2 ^ bits x.hdr.toNat 8 4 / 16)

/-- A range of lines meets an image that a command in flight is writing (R295). -/
def pinMeets (s : State) (L line n : Nat) : Bool :=
  s.streams.any fun e => e.2.pin && e.2.started && e.2.members.any fun m =>
    m.sh = L && !m.closed && m.z0 < line + n && line < m.z0 + pinLines e.2 m

/-- A command whose lines meet such an image does not start. -/
def scoreboard (L line n : Nat) : Act Unit := do
  if pinMeets (← get) L line n then throw { code := heldCode, detail := 0 }

/-- The range check as an action. -/
def inRange (L tid ctx a n : Nat) : Act Unit := do
  scoreboard L (addrLine a) n
  let s ← get
  match rangeErr s L tid ctx a n with
  | none => pure ()
  | some d => throw { code := 0x02, detail := d }

/-- A footprint in bytes [lo, hi) of a scratchpad lies wholly within one region (R225). -/
def oneRegion (x : Shell) (tid ctx lo hi : Nat) : Bool :=
  (x.regions.map (·.2)).any fun r =>
    regionMine tid ctx r && 72 * r.line0 ≤ lo && hi ≤ 72 * (r.line0 + r.lines)

/-- Whether a line lies in a region under the strong code. -/
def strongLine (x : Shell) (line : Nat) : Bool :=
  x.regions.any fun e => e.2.strong && e.2.line0 ≤ line && line < e.2.line0 + e.2.lines

/-- The class of a line's error in a Shell (R192). -/
def lineClass (x : Shell) (e : Nat × LineErr) : ErrClass := spClass (strongLine x e.1) e.2

/-- A correctable error that an access of the Shell met is counted (R194, R199). -/
def countCorr (L line : Nat) (s : State) : State :=
  noteCorrected L (spAddr L line) (s.bump (shellCtr L (if strongLine (s.shell L) line then 84 else 83)))

/-- What a read of a line finds (R194): a correctable error is counted and the corrected line awaits its write-back; an
uncorrectable one is the fault 0x31. -/
def readLineErr (L : Nat) (e : Nat × LineErr) : Act Unit := do
  let s ← get
  match lineClass (s.shell L) e with
  | .clean => pure ()
  | .corr =>
    set ((countCorr L e.1 s).modShell L fun x =>
      { x with wbPending := if x.wbPending.contains e.1 then x.wbPending else x.wbPending ++ [e.1] })
  | .unc =>
    set (s.bump (shellCtr L 85))
    throw { code := 0x31, detail := spAddr L e.1 }

/-- Marked lines among n lines from `line` on. -/
def markedIn (x : Shell) (line n : Nat) : List (Nat × LineErr) :=
  x.lineErr.filter fun e => line ≤ e.1 && e.1 < line + n

/-- n whole lines of a Shell, read by an agent of the Shell. -/
def spRead (L line n : Nat) : Act (List Byte) := do
  let s ← get
  (markedIn (s.shell L) line n).forM (readLineErr L)
  return mslice (s.shell L).sp (72 * line) (72 * n)

/-- Bytes of a Shell from a byte place on. -/
def spReadBytes (L lo n : Nat) : Act (List Byte) := do
  let s ← get
  if n ≠ 0 then (markedIn (s.shell L) (lo / 72) ((lo + n - 1) / 72 - lo / 72 + 1)).forM (readLineErr L)
  return mslice (s.shell L).sp lo n

/-- Marked lines that a write of n bytes from `lo` on covers only in part (R194). -/
def partialMarks (x : Shell) (lo n : Nat) : List (Nat × LineErr) :=
  x.lineErr.filter fun e =>
    lo < 72 * (e.1 + 1) && 72 * e.1 < lo + n && !(lo ≤ 72 * e.1 && 72 * (e.1 + 1) ≤ lo + n)

/-- The first of them that is uncorrectable. -/
def partialUnc (x : Shell) (lo n : Nat) : Option Nat :=
  ((partialMarks x lo n).find? fun e => lineClass x e = .unc).map (·.1)

/-- Bytes stored in a Shell: every line that is written has a whole code word again (R194). -/
def spPut (L lo : Nat) (bs : List Byte) (s : State) : State :=
  s.modShell L fun x =>
    { x with sp := mput x.sp lo bs,
             lineErr := x.lineErr.filter fun e => !(lo < 72 * (e.1 + 1) && 72 * e.1 < lo + bs.length),
             wbPending := x.wbPending.filter fun l => !(lo < 72 * (l + 1) && 72 * l < lo + bs.length) }

/-- A write of bytes; a partial write reads its line: it counts and corrects a correctable error, and fails on an
uncorrectable line as a read does (R186, R194). -/
def spWrite (L lo : Nat) (bs : List Byte) : Act Unit := do
  let s ← get
  match partialUnc (s.shell L) lo bs.length with
  | some l =>
    set (s.bump (shellCtr L 85))
    throw { code := 0x31, detail := spAddr L l }
  | none =>
    set (spPut L lo bs (((partialMarks (s.shell L) lo bs.length).filter fun e => lineClass (s.shell L) e = .corr).foldl
      (fun s e => countCorr L e.1 s) s))

/-- Whole lines zeroed; their marks go (R189, R213). -/
def zeroLines (L line n : Nat) (s : State) : State :=
  s.modShell L fun x =>
    { x with sp := mzero x.sp (72 * line) (72 * n),
             lineErr := x.lineErr.filter fun e => !(line ≤ e.1 && e.1 < line + n),
             wbPending := x.wbPending.filter fun l => !(line ≤ l && l < line + n) }

/-! ## Address decode of a stack (R399) -/

/-- Device physical addresses below 2^38 name memory (R399). -/
def physMax : Nat := 2 ^ 38

def stackOf (pa : Nat) : Nat := bits pa 37 35
def stackOff (pa : Nat) : Nat := bits pa 34 0

/-- Logical channel, bank and row of a stack offset (R399). -/
def chanOf (A : Nat) : Nat := bits A 13 8 ^^^ bits A 19 14 ^^^ bits A 25 20
def bankOf (A : Nat) : Nat := bits A 19 16 ^^^ bits A 23 20
def rowOf (A : Nat) : Nat := bits A 34 20
def colOf (A : Nat) : Nat := 256 * bits A 15 14 + bits A 7 0

/-- The stack offset of a place: logical channel, bank, row and column (R399 is one-to-one). -/
def stackPlace (ch bank row col : Nat) : Nat :=
  let a14 := bits col 9 8
  let a16 := bank ^^^ bits row 3 0
  let a8 := ch ^^^ (a14 + 4 * a16) ^^^ bits row 5 0
  bits col 7 0 + 256 * a8 + 2 ^ 14 * a14 + 2 ^ 16 * a16 + 2 ^ 20 * row

/-- Physical channel of a logical one; 66 marks a channel that is lost (R396, R423). -/
def physChan (x : Stack) (ch : Nat) : Nat := (tfind x.chmap ch).getD ch

def lostChan : Nat := 66

/-- The 2 MiB frame of a physical address. -/
def frameOf (pa : Nat) : Nat := bits pa 37 21

/-- An address out of service (R400). -/
def outOfService (s : State) (pa : Nat) : Bool :=
  let x := s.stack (stackOf pa)
  physChan x (chanOf (stackOff pa)) = lostChan || x.acked.contains (frameOf pa)

/-- The physical row that holds a line, through the repair table (R425): a spare row i is row 32,768 + i. -/
def heldRow (x : Stack) (A : Nat) : Row :=
  let r : Row := { ch := physChan x (chanOf A), bank := bankOf A, row := rowOf A }
  match x.rowMap.find? (fun e => e.1 = r) with
  | some e => { r with row := 32768 + e.2 }
  | none => r

/-- Spare rows of a bank in use: the next free one is one above the highest (R425, R426). -/
def nextSpare (x : Stack) (r : Row) : Nat :=
  (x.rowMap.filter (fun e => e.1.ch = r.ch && e.1.bank = r.bank)).foldl (fun m e => max m (e.2 + 1)) 0

/-! ## Errors of a stack (R402, R422–R427) -/

/-- The frame retirement of R427. -/
def retireFrame (st frame : Nat) (s : State) : State :=
  if (s.stack st).retired.contains frame then s
  else setCauseBoth 11 (logEvent 0x0204 4 0 [frame]
    (({ s with cox := { s.cox with frameQ := s.cox.frameQ ++ [frame] } }.modStack st fun x =>
      { x with retired := x.retired ++ [frame] }).bump (stackCtr st 16)))

/-- A stack goes out of service (R423): the channel is lost with a copy of it, and at the next start-up the whole
stack. -/
def loseChannel (st ch : Nat) (s : State) : State :=
  setCauseBoth 9 (logEvent 0x0206 4 0 [st]
    (s.modStack st fun x =>
      { x with out := true, chmap := tset x.chmap ch lostChan,
               copying := x.copying.filter fun c => c.logical ≠ ch }))

/-- A logical channel must be replaced by its half's spare (R422); a spare in use, or a copy of that half in progress,
its own among them, puts the stack out of service (R423). -/
def spareChannel (st ch : Nat) (s : State) : State :=
  let x := s.stack st
  let h := ch / 32
  if physChan x ch = lostChan then s
  else if x.spareUsed.getLsbD h || x.copying.any (fun c => c.logical / 32 = h) then loseChannel st ch s
  else s.modStack st fun x => { x with copying := x.copying ++ [{ logical := ch, spare := 64 + h }] }

/-- The table of row events takes an event; when it is full, the oldest row not repaired is dropped (R424). -/
def rowTable (t : List RowEvent) (r : Row) (corr : Bool) : List RowEvent :=
  let add := fun (e : RowEvent) => if corr then { e with corr := e.corr + 1 } else { e with unc := e.unc + 1 }
  if t.any (fun e => e.row = r) then t.map fun e => if e.row = r then add e else e
  else
    let t := if t.length < 256 then t else match t.findIdx? (fun e => !e.repaired) with
      | some i => t.eraseIdx i
      | none => t.drop 1
    t ++ [add { row := r, corr := 0, unc := 0, repaired := false }]

/-- A row that meets the condition of R424 is to be repaired, or its frame retired where the bank has no free spare row
(R427). -/
def rowDue (st : Nat) (A : Nat) (r : Row) (s : State) : State :=
  let x := s.stack st
  match x.rowEvents.find? (fun e => e.row = r) with
  | none => s
  | some e =>
    if e.repaired || (e.unc = 0 && e.corr < 4) then s
    else if 8 ≤ nextSpare x r then retireFrame st (16384 * st + A / 2 ^ 21) s
    else if x.rowPending.contains r then s
    else s.modStack st fun x => { x with rowPending := x.rowPending ++ [r] }

/-- Nanoseconds within which uncorrectable reads in three rows call for the spare (R422). -/
def dayNs : Nat := 86400000000000

/-- An uncorrectable read returned by a channel: the third row within 24 hours, and each further one, calls for the spare
(R422, R423). -/
def noteUncRead (st A : Nat) (s : State) : State :=
  let x := s.stack st
  let r := heldRow x A
  let recent := x.uncRows.filter (fun e => s.clk.now - e.1 ≤ dayNs)
  if recent.any (fun e => e.2 = r) then s.modStack st fun x => { x with uncRows := recent }
  else
    let rows := recent ++ [(s.clk.now, r)]
    let s := s.modStack st fun x => { x with uncRows := rows }
    if 3 ≤ (rows.filter (fun e => e.2.ch = r.ch)).length then spareChannel st (chanOf A) s else s

/-- An uncorrectable event of a line is recorded against its row (R424). -/
def noteUncRow (st A : Nat) (s : State) : State :=
  let r := heldRow (s.stack st) A
  rowDue st A r (s.modStack st fun x => { x with rowEvents := rowTable x.rowEvents r false })

/-- A correctable read is recorded against its row, and counted for its channel within the second: the 1,001st calls for
the spare (R422, R424). -/
def noteCorrRow (st A : Nat) (s : State) : State :=
  let x := s.stack st
  let r := heldRow x A
  let sec := s.clk.now / 1000000000
  let k := 64 * sec + chanOf A
  let n := tget 0 x.corrSec k + 1
  let s := s.modStack st fun x =>
    { x with rowEvents := rowTable x.rowEvents r true,
             corrSec := tset (x.corrSec.filter (fun e => e.1 / 64 = sec)) k n }
  let s := noteCorrected (128 + st) (st * 2 ^ 35 + A) s
  rowDue st A r (if n = 1001 then spareChannel st (chanOf A) s else s)

/-- A read or an internal read finds a line uncorrectable: its channel is noted each time, its row the first time
(R422, R424). -/
def noteUnc (st : Nat) (e : Nat × LineErr) (s : State) : State :=
  let A := 64 * e.1
  let s := noteUncRead st A
    (s.modStack st fun x => { x with lineErr := tset x.lineErr e.1 { e.2 with seen := true } })
  if e.2.seen then s else noteUncRow st A s

/-! ## Reads and writes of stacked memory (R402, R408) -/

/-- The bytes of a write-combining entry over the bytes of its line (R408). -/
def overlayEntry (e : WEntry) (a : Nat) (bs : List Byte) : List Byte :=
  bs.zipIdx.map fun z =>
    let p := a + z.2
    if p / 64 = e.line && e.mask.getLsbD (p % 64) then (e.data.extractLsb' (8 * (p % 64)) 8) else z.1

/-- What a read of n bytes of stacked memory returns: the memory's bytes with those of the write-combining buffer. -/
def memSlice (s : State) (pa n : Nat) : List Byte :=
  ((s.stack (stackOf pa)).wcb.filter (fun e => pa / 64 ≤ e.line && 64 * e.line < pa + n)).foldl
    (fun bs e => overlayEntry e pa bs) (mslice s.mem pa n)

/-- The refresh interval of a stack in ns (R413). -/
def refreshNs (x : Stack) : Nat := if x.throttle = 0 then 3900 else 1950

/-- Cycles of a stack's controller that a bank is blocked by one refresh: 100 ns at 1.6 GHz (R45, R413). -/
def refreshCycles : Nat := 160

/-- Refreshes of a bank that are postponed by more than 4 intervals are performed before the access: the bank's row
closes, and the access stalls for them (R414, R428). In fixed mode banks are refreshed at fixed counts alone (R415). -/
def catchUp (st k : Nat) (s : State) : State :=
  let x := s.stack st
  let due := tget (x.refBase + refreshNs x) x.refresh k
  let n := (s.clk.now - due) / refreshNs x + 1
  if s.mode.fixed || s.clk.now < due || n ≤ 4 then s
  else (s.bump (stackCtr st 8) (refreshCycles * n)).modStack st fun x =>
    { x with openRow := tdel x.openRow k, refresh := tset x.refresh k (due + n * refreshNs x) }

/-- An access to a row of a bank: a hit or a miss, and the row stays open (R397, R428). -/
def touchRow (pa : Nat) (s : State) : State :=
  let st := stackOf pa
  let A := stackOff pa
  let k := 16 * chanOf A + bankOf A
  let s := catchUp st k s
  let row := (heldRow (s.stack st) A).row
  (s.bump (stackCtr st (if tfind (s.stack st).openRow k = some row then 6 else 7))).modStack st fun x =>
    { x with openRow := tset x.openRow k row }

/-- A read of one chunk of a channel, counted by class (R404, R428). -/
def touchChunk (cls pa : Nat) (s : State) : State := touchRow pa (s.bump (stackCtr (stackOf pa) cls))

/-- The marked lines of a stack among the bytes [pa, pa + n); a line whose entry has a full mask is not read (R408). -/
def marksIn (s : State) (pa n : Nat) : List (Nat × LineErr) :=
  let A := stackOff pa
  let x := s.stack (stackOf pa)
  x.lineErr.filter fun e => A / 64 ≤ e.1 && 64 * e.1 < A + n &&
    !x.wcb.any fun y => stackOff (64 * y.line) = 64 * e.1 && y.mask = BitVec.allOnes 64

/-! ## The write-combining buffer (R38, R402, R408, R409) -/

/-- General entries, all entries, and the general occupancy at which general entries retire. -/
def wcbGeneral : Nat := 224
def wcbAll : Nat := 256
def wcbHigh : Nat := 160

def WEntry.full (e : WEntry) : Bool := e.mask = BitVec.allOnes 64

def generalCount (x : Stack) : Nat := (x.wcb.filter fun e => !e.reserve).length

/-- A line's bytes merged into an entry: later bytes replace earlier ones (R408). -/
def mergeBytes (e : WEntry) (off : Nat) (bs : List Byte) : WEntry :=
  bs.zipIdx.foldl (fun (e : WEntry) (z : Byte × Nat) =>
    let k := 8 * (off + z.2)
    let v := z.1.setWidth 512
    { e with mask := e.mask ||| (1#64 <<< (off + z.2)),
             data := (e.data &&& ~~~ (0xFF#512 <<< k)) ||| (v <<< k) }) e

/-- The internal read of a merge finds a line correctable: it is counted and recorded, and the merged line goes back under
a whole code word (R402, R404, R428). -/
def mergeMark (st line : Nat) (s : State) : State :=
  match tfind (s.stack st).lineErr line with
  | some e =>
    if stackClass e = .corr then
      noteCorrRow st (64 * line)
        ((s.bump (stackCtr st 11)).modStack st fun x => { x with lineErr := tdel x.lineErr line })
    else s
  | none => s

/-- A line that the internal read of a merge finds uncorrectable. -/
def uncAt (x : Stack) (line : Nat) : Option (Nat × LineErr) :=
  ((tfind x.lineErr line).filter fun e => stackClass e = .unc).map fun e => (line, e)

/-- The bytes of an entry. -/
def WEntry.bytes (e : WEntry) : List Byte := (List.range 64).map fun i => e.data.extractLsb' (8 * i) 8

/-- An entry retires: its bytes go to the line. A partial one is merged with what stands there, and is discarded where
that line is uncorrectable (R402, R409). -/
def retireEntry (st : Nat) (e : WEntry) (s : State) : State :=
  let s := s.modStack st fun x => { x with wcb := x.wcb.filter fun y => y.line ≠ e.line }
  let line := stackOff (64 * e.line) / 64
  let put := fun (s : State) => touchRow (64 * e.line) { s with mem := mputMasked s.mem (64 * e.line) e.mask.toNat e.bytes }
  if e.full then put (s.modStack st fun x => { x with lineErr := tdel x.lineErr line })
  else
    let s := mergeMark st line (s.bump (stackCtr st 4))
    match uncAt (s.stack st) line with
    | some m => noteUnc st m (s.bump (stackCtr st 13))
    | none => put (s.modStack st fun x => { x with lineErr := tdel x.lineErr line })

/-- The entry that retires when a write waits for a place: the oldest full one, else the oldest (R409). -/
def nextOut (x : Stack) : Option WEntry := (x.wcb.find? WEntry.full).orElse fun _ => x.wcb.head?

/-- A write waits for a place while the general entries and the reserve are all full: an entry retires first (R409). -/
def makeRoom (st : Nat) (s : State) : State :=
  if (s.stack st).wcb.length < wcbAll then s
  else match nextOut (s.stack st) with
    | some e => retireEntry st e s
    | none => s

/-- Bytes of one line taken into the buffer of its stack: into the line's entry, or into a new one, of the reserve only
when the general entries are full. -/
def takeLine (pa : Nat) (bs : List Byte) (s : State) : State :=
  let st := stackOf pa
  let l := pa / 64
  let now := s.clk.now
  let s := if (s.stack st).wcb.any (fun e => e.line = l) then s else makeRoom st s
  s.modStack st fun x =>
    let x := if bs.length = 64 then { x with lineErr := tdel x.lineErr (stackOff pa / 64) } else x
    if x.wcb.any (fun e => e.line = l) then
      { x with wcb := x.wcb.map fun e =>
          if e.line = l then { mergeBytes e (pa % 64) bs with since := now, cycle := [] } else e }
    else
      let e : WEntry :=
        { line := l, mask := 0, data := 0, reserve := wcbGeneral ≤ generalCount x, since := now, cycle := [] }
      { x with wcb := x.wcb ++ [mergeBytes e (pa % 64) bs] }

/-- What a read of a marked line does (R402, R424): a correctable one is counted, recorded, and written back corrected
through the write-combining buffer; an uncorrectable one is noted and is the fault 0x30. -/
def readMark (st : Nat) (e : Nat × LineErr) : Act Unit := do
  let s ← get
  let pa := st * 2 ^ 35 + 64 * e.1
  match stackClass e.2 with
  | .clean => pure ()
  | .corr => set (takeLine pa (memSlice s pa 64) (noteCorrRow st (64 * e.1) (s.bump (stackCtr st 11))))
  | .unc =>
    set (noteUnc st e (s.bump (stackCtr st 12)))
    throw { code := 0x30, detail := pa }

/-- The 256-byte chunks of the bytes [pa, pa + n). -/
def chunksOf (pa n : Nat) : List Nat :=
  if n = 0 then [] else (List.range ((pa + n - 1) / 256 - pa / 256 + 1)).map fun i => 256 * (pa / 256 + i)

/-- One chunk read: out of service, then its row, then the lines of the read that lie in it. -/
def readChunk (cls pa n c : Nat) : Act Unit := do
  let s ← get
  let lo := max pa c
  let hi := min (pa + n) (c + 256)
  if outOfService s c then
    set (s.bump (stackCtr (stackOf pa) 12))
    throw { code := 0x30, detail := 64 * (lo / 64) }
  set (touchChunk cls c s)
  (marksIn s lo (hi - lo)).forM (readMark (stackOf pa))

/-- n bytes of stacked memory by physical address, read in a class: 0 critical, 1 stream, 2 bulk (R404). -/
def stackFetch (cls pa n : Nat) : Act (List Byte) := do
  if physMax < pa + n then throw { code := 0x10, detail := pa }
  (chunksOf pa n).forM (readChunk cls pa n)
  return memSlice (← get) pa n

/-- The uncorrectable line, if any, that a write covers only in part (R402). -/
def partialMark (s : State) (pa n : Nat) : Option (Nat × LineErr) :=
  let A := stackOff pa
  (marksIn s pa n).find? fun e => stackClass e.2 = .unc && !(A ≤ 64 * e.1 && 64 * (e.1 + 1) ≤ A + n)

/-- A write of bytes inside one line: out of service and partial writes to uncorrectable lines fail and are counted
(R400, R402); else the buffer takes it. -/
def bufferLine (pa : Nat) (bs : List Byte) : Act Unit := do
  let s ← get
  let st := stackOf pa
  if outOfService s (256 * (pa / 256)) then
    set (s.bump (stackCtr st 13))
    throw { code := 0x30, detail := 64 * (pa / 64) }
  match partialMark s pa bs.length with
  | some m =>
    set (noteUnc st m (s.bump (stackCtr st 13)))
    throw { code := 0x30, detail := 64 * (pa / 64) }
  | none => set ((takeLine pa bs s).bump (stackCtr st 3))

/-- The bytes [va, va + n) cut at page boundaries: start and length of each piece. -/
def pieces (page va n : Nat) : List (Nat × Nat) :=
  if n = 0 then []
  else (List.range ((va + n - 1) / page - va / page + 1)).map fun i =>
    let lo := max va (page * (va / page + i))
    (lo, min (va + n) (page * (va / page + i + 1)) - lo)

/-- A write of bytes inside one stack, taken line by line in ascending address (R366, R408). -/
def stackStore (pa : Nat) (bs : List Byte) : Act Unit := do
  if physMax < pa + bs.length then throw { code := 0x10, detail := pa }
  (pieces 64 pa bs.length).forM fun z => bufferLine z.1 ((bs.drop (z.1 - pa)).take z.2)

/-! ## Accumulate windows (R438, R439, R444) -/

/-- The enabled accumulate window that holds an address: context, window number, entry, and the window offset. -/
def accWindow (s : State) (pa : Nat) : Option (Nat × Nat × MWin × Nat) :=
  s.ctxs.findSome? fun c => c.2.mwins.findSome? fun w =>
    if w.2.en && w.2.acc then
      (w.2.frames.findIdx? (fun f => f = frameOf pa)).map fun i => (c.1, w.1, w.2, 2 ^ 21 * i + pa % 2 ^ 21)
    else none

/-- Bytes of a unit (R438). -/
def accUnit (m : MWin) : Nat := if m.etype = 0 then 576 else if m.etype = 1 then 4 else 2

/-- The modulus of unit i of an `R36` window (R439). -/
def accModulus (m : MWin) (i : Nat) : Nat := m.mods.getD (i / (2 ^ m.logN.toNat / 128) % m.mods.length) 0

/-- The new value of unit i (R438). -/
def accAdd (m : MWin) (i old inp : Nat) : Nat :=
  if m.etype = 1 then (old + inp) % 2 ^ 32
  else if m.etype = 0 then
    let q : Modulus := { q := accModulus m i, psi := 0, b := 0, mu := 0, step := 0 }
    (List.range 128).foldl (fun a k =>
      a + 2 ^ (36 * k) * laneAdd q (bits old (36 * k + 35) (36 * k)) (bits inp (36 * k + 35) (36 * k))) 0
  else
    let e := m.etype.toNat
    bitsOf false .near e (Val.add (valOf false e old) (valOf false e inp))

/-- Unit i is sampled (R444). -/
def accSampled (m : MWin) (i : Nat) : Bool :=
  m.chk.toNat ≤ 16 && (mix (m.wseed ^^^ BitVec.ofNat 64 i)).toNat % 2 ^ m.chk.toNat = 0

/-- A sample reaches the check queue of the window's check Shell, or finds it full and is skipped. In fixed mode, with
`chk` ≥ 4, the reserved vector pass has taken the oldest before (R444, R445). -/
def pushSample (x : Sample) (L chk : Nat) (s : State) : State :=
  let q := (s.shell L).checkQ
  if q.length < 64 then (s.modShell L fun y => { y with checkQ := q ++ [x] }).bump (shellCtr L 93)
  else if s.mode.fixed && 4 ≤ chk then (s.modShell L fun y => { y with checkQ := q.drop 1 ++ [x] }).bump (shellCtr L 93)
  else s.bump (shellCtr L 94)

/-- The bytes [off, off + n) of a window by physical address. -/
def accPieces (m : MWin) (off n : Nat) : List (Nat × Nat) :=
  (pieces (2 ^ 21) off n).map fun z => (2 ^ 21 * m.frames.getD (z.1 / 2 ^ 21) 0 + z.1 % 2 ^ 21, z.2)

/-- The bytes of a unit's new value taken into entries like any other write (R411). -/
def putUnit (ps : List (Nat × Nat)) (bs : List Byte) (s : State) : State :=
  ((ps.flatMap fun z => pieces 64 z.1 z.2).foldl (fun (a : List Byte × State) z =>
    (a.1.drop z.2, takeLine z.1 (a.1.take z.2) a.2)) (bs, s)).2

/-- Additions in order, from a value. -/
def accFold (m : MWin) (i base : Nat) (ins : List (Nat × Nat)) : Nat := ins.foldl (fun v z => accAdd m i v z.2) base

/-- A requester's addition among those of the same time, behind its own and those before it in the order of R410. -/
def accInsert (rank inp : Nat) (ins : List (Nat × Nat)) : List (Nat × Nat) :=
  ins.takeWhile (fun z => z.1 ≤ rank) ++ (rank, inp) :: ins.dropWhile (fun z => z.1 ≤ rank)

/-- One unit of an accumulate window takes its addition (R411, R438). `rank` is the requester's place in the order of R410
for a write that reaches the controller as such: those of one unit and one time are applied in that order. -/
def accOne (rank : Option Nat) (c w : Nat) (m : MWin) (i : Nat) (inp : List Byte) (s : State) : State :=
  let ps := accPieces m (accUnit m * i) (accUnit m)
  let st := stackOf (2 ^ 21 * m.frames.headD 0)
  let old := leNat (ps.flatMap fun z => memSlice s z.1 z.2)
  let same := fun (a : AccCycle) => a.at_ = s.clk.now && a.ctx = c && a.win = w && a.elem = i
  let cyc : AccCycle := ((s.stack st).accNow.find? same).getD
    { at_ := s.clk.now, ctx := c, win := w, elem := i, base := old, ins := [] }
  let cyc := { cyc with ins := accInsert (rank.getD 0) (leNat inp) (if rank.isNone then [] else cyc.ins),
                        base := if rank.isNone then old else cyc.base }
  let before := accFold m i cyc.base (cyc.ins.takeWhile fun z => z.1 < rank.getD 0)
  let new := accFold m i cyc.base cyc.ins
  let s := putUnit ps (leBytes (accUnit m) new) s
  let s := (s.bump (stackCtr st 5)).modStack st fun x =>
    { x with accNow := (x.accNow.filter fun a => a.at_ = s.clk.now && !same a) ++ (if rank.isNone then [] else [cyc]) }
  if accSampled m i then
    pushSample { ctx := c, win := w, elem := i, etype := m.etype.toNat, modulus := accModulus m i,
                 old := if rank.isNone then old else before, inp := leNat inp,
                 new := accAdd m i (if rank.isNone then old else before) (leNat inp) } m.chkShell.toNat m.chk.toNat s
  else s

/-- Marked lines of a stack among pieces of memory. -/
def marksOf (s : State) (ps : List (Nat × Nat)) : List (Nat × LineErr) := ps.flatMap fun z => marksIn s z.1 z.2

/-- A write of bytes to an accumulate window (R438): discarded in the check state, discarded with 0x01 when it does not
cover whole units, failed where it meets an address out of service or an uncorrectable line, and else added unit by
unit. -/
def accStore (rank : Option Nat) (c w : Nat) (m : MWin) (off : Nat) (bs : List Byte) : Act Unit := do
  let s ← get
  let st := stackOf (2 ^ 21 * m.frames.headD 0)
  let u := accUnit m
  if m.wstate = 3 then set (s.bump (stackCtr st 22))
  else if off % u ≠ 0 || bs.length % u ≠ 0 then
    set (s.bump (stackCtr st 21))
    throw { code := 0x01, detail := 2 ^ 16 * 0xFFFF }
  else
    let ps := accPieces m off bs.length
    let out := ps.findSome? fun z => ((chunksOf z.1 z.2).find? (outOfService s)).map fun k => max (64 * (z.1 / 64)) k
    match out, (marksOf s ps).find? fun e => stackClass e.2 = .unc with
    | some a, _ =>
      set (s.bump (stackCtr st 13))
      throw { code := 0x30, detail := a }
    | none, some e =>
      set (noteUnc st e (s.bump (stackCtr st 13)))
      throw { code := 0x30, detail := st * 2 ^ 35 + 64 * e.1 }
    | none, none =>
      let s := (marksOf s ps).foldl (fun s e => mergeMark st e.1 s) s
      set (((List.range (bs.length / u)).foldl (fun s k =>
        accOne rank c w m (off / u + k) ((bs.drop (u * k)).take u) s) s).bump (stackCtr st 3) (ceilDiv bs.length 64))

/-- A write cut into the runs that go to one accumulate window each, and the rest. -/
def accRuns (s : State) (zs : List (Nat × List Byte)) : List (Option (Nat × Nat × MWin) × Nat × List Byte) :=
  zs.foldr (fun z r =>
    match accWindow s z.1 with
    | none => (none, z.1, z.2) :: r
    | some (c, w, m, off) =>
      match r with
      | (some (c', w', m'), off', bs) :: r' =>
        if c' = c && w' = w && off' = off + z.2.length then (some (c, w, m'), off, z.2 ++ bs) :: r'
        else (some (c, w, m), off, z.2) :: r
      | _ => (some (c, w, m), off, z.2) :: r) []

/-- Bytes written at physical addresses by an end of the fabric, each piece inside one 2 MiB frame: frames of an accumulate
window add (R438), others store (R408). -/
def storeParts (ag : Node) (zs : List (Nat × List Byte)) : Act Unit := do
  upd fun s => zs.foldl (fun s z => s.writeMsg ag (.stack (stackOf z.1)) z.2.length) s
  (accRuns (← get) zs).forM fun r =>
    match r.1 with
    | none => stackStore r.2.1 r.2.2
    | some (c, w, m) => accStore none c w m r.2.1 r.2.2

/-- Bytes at one physical address, cut at the frames. -/
def storeBytes (ag : Node) (pa : Nat) (bs : List Byte) : Act Unit := do
  if physMax < pa + bs.length then throw { code := 0x10, detail := pa }
  storeParts ag ((pieces (2 ^ 21) pa bs.length).map fun z => (z.1, (bs.drop (z.1 - pa)).take z.2))

/-- A write whose failing lines are discarded and whose others are stored: a host's, the trace's (R400, R582). -/
def storeQuiet (ag : Node) (pa : Nat) (bs : List Byte) (s : State) : State :=
  let zs := (pieces 64 pa bs.length).map fun z => (z.1, (bs.drop (z.1 - pa)).take z.2)
  (accRuns s zs).foldl (fun s r => match r.1 with
    | none => ((stackStore r.2.1 r.2.2).go s).2
    | some (c, w, m) => ((accStore none c w m r.2.1 r.2.2).go s).2)
    (s.writeMsg ag (.stack (stackOf pa)) bs.length)

/-! ## Translation (R326, R327, R330) -/

/-- How a page translates: the address and whether it is cacheable (R202). -/
structure Xlat where
  addr : Nat
  cached : Bool
  deriving DecidableEq, Repr

/-- A page-table entry that does not translate (R326). -/
def pteBad (e : BitVec 64) : Bool :=
  !e.getLsbD 0 || (e.extractLsb' 3 18).toNat ≠ 0 || (e.extractLsb' 38 26).toNat ≠ 0

/-- The translation agent that serves an end: its die's (R23). -/
def agentOf (ag : Node) : Node :=
  match ag.die with
  | some d => .agent d
  | none => .iod

/-- n bytes of stacked memory read by an end of the fabric, in a class. -/
def stackRead (ag : Node) (cls pa n : Nat) : Act (List Byte) := do
  upd fun s => s.readMsg ag (.stack (stackOf pa)) n
  stackFetch cls pa n

/-- The entry of a device page: from the context's TLB, or walked (R325, R326). -/
def walk (ag : Node) (c va : Nat) : Act (BitVec 64) := do
  let s ← get
  let x := s.ctx c
  match tfind x.tlb (va / 2 ^ 21) with
  | some e => return e
  | none =>
    let bs ← stackRead (agentOf ag) 0 (x.dptRoot.toNat + 8 * (va / 2 ^ 21)) 8
    return BitVec.ofNat 64 (leNat bs)

/-- A device virtual address (R326, R330). -/
def xlateDev (ag : Node) (c va : Nat) (w : Bool) : Act Xlat := do
  if 2 ^ 39 ≤ va then throw { code := 0x10, detail := va }
  let s ← get
  if physMax < (s.ctx c).dptRoot.toNat + 8 * (va / 2 ^ 21) + 8 then throw { code := 0x10, detail := va }
  let e ← walk ag c va
  if pteBad e then throw { code := 0x10, detail := va }
  upd fun s => s.modCtx c fun x => { x with tlb := tset x.tlb (va / 2 ^ 21) e }
  if w && !e.getLsbD 1 then throw { code := 0x11, detail := va }
  return { addr := (e.extractLsb' 21 17).toNat * 2 ^ 21 + va % 2 ^ 21, cached := e.getLsbD 2 }

/-- How a host answers for a page the environment does not list: it maps to itself, writable (log 7). -/
def hostPageReset (k : Nat) : HostPage := { page := some k, w := true, large := false, poison := false }

/-- The place of a page in what the environment answers: by PASID, or for an untranslated access. -/
def askKey (pasid : Option Nat) (k : Nat) : Nat := pasid.getD (2 ^ 20) * 2 ^ 45 + k

/-- The first 4 KiB page of the 2 MiB around a page. -/
def largeBase (k : Nat) : Nat := 512 * (k / 512)

/-- The host's answer for a 4 KiB page, and whether it covers 2 MiB (R327). -/
def hostAnswer (x : PortSt) (pasid : Option Nat) (k : Nat) : HostPage :=
  let small := tget (hostPageReset k) x.ats (askKey pasid k)
  match tfind x.ats (askKey pasid (largeBase k)) with
  | some h => if h.large then { h with page := h.page.map (· + k % 512) } else small
  | none => small

/-- An entry of the translation cache covers a page of a PASID. -/
def AtsEntry.covers (e : AtsEntry) (k : Nat) : Bool := if e.large then e.page = largeBase k else e.page = k

/-- The port's translation cache holds 4,096 translations; a use is a hit or a miss, and a miss asks the host (R327). The page
found, and whether it may be written. -/
def atsUse (p : Port) (pasid k : Nat) (s : State) : Option (Nat × Bool) × State :=
  let x := s.port p
  match x.atsCache.find? fun e => e.pasid = pasid && e.covers k with
  | some e => (some (e.to_ + (k - e.page), e.w), s.bump (portCtr p 7))
  | none =>
    let s := s.bump (portCtr p 8)
    let h := hostAnswer x (some pasid) k
    match h.page with
    | none => (none, s)
    | some q =>
      let first := if h.large then largeBase k else k
      let e : AtsEntry := { pasid := pasid, page := first, large := h.large, to_ := q - (k - first), w := h.w }
      let c := if x.atsCache.length < 4096 then x.atsCache else x.atsCache.drop 1
      (some (q, h.w), s.modPort p fun x => { x with atsCache := c ++ [e] })

/-- Whether the accesses of a context are translated: `pasid_en`, and ATS not disabled on its function (R327). -/
def translated (s : State) (c : Nat) : Bool :=
  let x := s.ctx c
  x.pasidEn && !(s.fn (fnKey x.port x.fn)).atsOff

/-- A host address of a context (R327, R330, R40). -/
def xlateHost (c va : Nat) (w : Bool) : Act Xlat := do
  let s ← get
  let x := s.ctx c
  if 2 ^ 57 ≤ va then throw { code := 0x10, detail := va }
  if !(s.port x.port).linkUp then
    if w then set (s.bump (portCtr x.port 15))
    throw { code := 0x10, detail := va }
  let k := va / 4096
  if translated s c then
    let r := atsUse x.port x.pasid.toNat k s
    set r.2
    match r.1 with
    | none => throw { code := 0x10, detail := va }
    | some q =>
      if w && !q.2 then throw { code := 0x11, detail := va }
      return { addr := 4096 * q.1 + va % 4096, cached := x.hcache }
  else
    if (hostAnswer (s.port x.port) none k).page.isNone then throw { code := 0x10, detail := va }
    return { addr := va, cached := x.hcache }

/-- A virtual address of a context in space 1 (stacked) or 2 (host). -/
def xlate (ag : Node) (c space va : Nat) (w : Bool) : Act Xlat :=
  if space = 1 then xlateDev ag c va w else xlateHost c va w

def pageSize (space : Nat) : Nat := if space = 1 then 2 ^ 21 else 4096

/-- Every page of a footprint translates; the translated pieces. -/
def xlateAll (ag : Node) (c space va n : Nat) (w : Bool) : Act (List (Nat × Nat)) :=
  (pieces (pageSize space) va n).mapM fun z => do
    let x ← xlate ag c space z.1 w
    return (x.addr, z.2)

/-- A footprint lies in one stack, by translated addresses (R31, R329): the first page that does not translate is
0x10, the first in another stack 0x02. Host footprints must lie below 2^57 (R225). -/
def oneStack (ag : Node) (c space va n : Nat) : Act Unit := do
  if space = 1 then
    let ps ← (pieces (pageSize 1) va n).mapM fun z => do
      let x ← xlateDev ag c z.1 false
      return (z.1, stackOf x.addr)
    match ps with
    | [] => pure ()
    | p :: r =>
      match r.find? (fun q => q.2 ≠ p.2) with
      | some q => throw { code := 0x02, detail := q.1 }
      | none => pure ()
  else if 2 ^ 57 < va + n then throw { code := 0x02, detail := max va (2 ^ 57) }
  else
    discard <| xlateAll ag c space va n false

/-- Every page of a footprint is writable. -/
def writable (ag : Node) (c space va n : Nat) : Act Unit := discard <| xlateAll ag c space va n true

/-! ## Memory by virtual address -/

/-- Host bytes; a page the host answers with poison reads as uncorrectable (R402, R568 0x30). -/
def hostFetch (ag : Node) (p : Port) (a n : Nat) : Act (List Byte) := do
  upd fun s => s.readMsg ag .iod n
  let s ← get
  match (pieces 4096 a n).find? (fun z => (hostAnswer (s.port p) none (z.1 / 4096)).poison) with
  | some z => throw { code := 0x30, detail := 64 * (z.1 / 64) }
  | none =>
    set (s.bump (portCtr p 0) n)
    return mslice (s.port p).host a n

/-- Bytes placed in host memory by a port. -/
def hostPut (ag : Node) (p : Port) (a : Nat) (bs : List Byte) (s : State) : State :=
  ((s.writeMsg ag .iod bs.length).modPort p fun x => { x with host := mput x.host a bs }).bump (portCtr p 1) bs.length

/-- A piece read at a translated address. -/
def fetchAt (ag : Node) (c space cls a n : Nat) : Act (List Byte) := do
  if space = 1 then stackRead ag cls a n else hostFetch ag ((← get).ctx c).port a n

/-- A read of memory by an agent of a task that does not use the hardware cache. -/
def readMem (ag : Node) (c space va n cls : Nat) : Act (List Byte) := do
  let ps ← xlateAll ag c space va n false
  let bs ← ps.mapM fun z => fetchAt ag c space cls z.1 z.2
  return bs.flatten

/-- A byte string cut to the lengths of translated pieces. -/
def partsOf : List (Nat × Nat) → List Byte → List (Nat × List Byte)
  | [], _ => []
  | z :: r, bs => (z.1, bs.take z.2) :: partsOf r (bs.drop z.2)

/-- Bytes written at translated pieces. -/
def writePieces (ag : Node) (c space : Nat) (ps : List (Nat × Nat)) (bs : List Byte) : Act Unit :=
  if space = 1 then storeParts ag (partsOf ps bs)
  else (partsOf ps bs).forM fun z => upd fun s => hostPut ag (s.ctx c).port z.1 z.2 s

/-- A write of memory by an agent of a task: every page first translates for writing. -/
def writeMem (ag : Node) (c space va : Nat) (bs : List Byte) : Act Unit := do
  let ps ← xlateAll ag c space va bs.length true
  writePieces ag c space ps bs

/-! ## The hardware cache (R200–R204) -/

/-- Sets of 16 ways (R200). -/
def cacheSets (size : Nat) : Nat := (spLines - cacheFirst size) / 16

/-- The way among 16 that the pseudo-LRU tree names: bit n of the tree sends the search to the upper half of node n. -/
def plruVictim (t : BitVec 16) : Nat :=
  (List.range 4).foldl (fun n _ => 2 * n + (if t.getLsbD n then 1 else 0)) 1 - 16

/-- The tree after a use of way y: every node on its path points away from it. -/
def plruTouch (t : BitVec 16) (y : Nat) : BitVec 16 :=
  (List.range 4).foldl (fun t i =>
    let n := (16 + y) / 2 ^ (4 - i)
    let up := (16 + y) / 2 ^ (3 - i) % 2 = 1
    if up then t &&& ~~~ (1#16 <<< n) else t ||| (1#16 <<< n)) t

/-- The set of a memory line (R201). -/
def cacheSet (x : Shell) (line : Nat) : Nat := line % cacheSets x.cacheEff.toNat

/-- The way of a set that holds a memory line; a way whose line is uncorrectable counts as a miss (R204). -/
def cacheFind (x : Shell) (t : Tag) : Option Nat :=
  let set := cacheSet x t.line
  ((List.range 16).find? fun y => tfind x.tags (16 * set + y) = some t).bind fun y =>
    let k := 16 * set + y
    match tfind x.lineErr (cacheFirst x.cacheEff.toNat + k) with
    | some e => if spClass false e = .unc then none else some k
    | none => some k

/-- The way that a fill takes: an invalid one first, else the tree's victim (R201; log 18). -/
def cacheWay (x : Shell) (line : Nat) : Nat :=
  let set := cacheSet x line
  16 * set + (((List.range 16).find? fun y => (tfind x.tags (16 * set + y)).isNone).getD
    (plruVictim (tget 0 x.plru set)))

/-- A way used. -/
def cacheUse (k : Nat) (x : Shell) : Shell :=
  { x with plru := tset x.plru (k / 16) (plruTouch (tget 0 x.plru (k / 16)) (k % 16)) }

/-- A line filled into a way: bytes 0–63 of its scratchpad line. -/
def cacheFill (L : Nat) (t : Tag) (bs : List Byte) (s : State) : State :=
  let x := s.shell L
  let k := cacheWay x t.line
  let line := cacheFirst x.cacheEff.toNat + k
  (s.modShell L fun x => cacheUse k { x with tags := tset x.tags k t, sp := mput x.sp (72 * line) (bs ++ List.replicate 8 0),
                                             lineErr := tdel x.lineErr line })

/-- A 64-byte memory line read through the cache (R202). -/
def cachedLine (L c space cls a : Nat) : Act (List Byte) := do
  let s ← get
  let t : Tag := { space := space, port := if space = 1 then .A else (s.ctx c).port, line := a / 64 }
  match cacheFind (s.shell L) t with
  | some k =>
    let line := cacheFirst (s.shell L).cacheEff.toNat + k
    (markedIn (s.shell L) line 1).forM (readLineErr L)
    upd fun s => (s.bump (shellCtr L 87)).modShell L (cacheUse k)
    return mslice (s.shell L).sp (72 * line) 64
  | none =>
    set ((s.bump (shellCtr L 88)).modShell L fun x =>
      { x with tags := x.tags.filter fun e => e.2 ≠ t })
    let bs ← fetchAt (.shell L) c space cls (64 * (a / 64)) 64
    upd (cacheFill L t bs)
    return bs

/-- A read of memory by a line agent or the DMA engine of a Shell: pages with the cacheable attribute go through the
hardware cache (R202). -/
def readCached (L c space va n cls : Nat) : Act (List Byte) := do
  let s ← get
  if (s.shell L).cacheEff = 0 then readMem (.shell L) c space va n cls
  else
    let ps ← (pieces (pageSize space) va n).mapM fun z => do
      let x ← xlate (.shell L) c space z.1 false
      return (x, z.2)
    let bs ← ps.mapM fun z =>
      if z.1.cached then do
        let ls ← (pieces 64 z.1.addr z.2).mapM fun q => do
          let line ← cachedLine L c space cls q.1
          return ((line.drop (q.1 % 64)).take q.2)
        return ls.flatten
      else fetchAt (.shell L) c space cls z.1.addr z.2
    return bs.flatten

/-- A write by the Shell updates the cached copy of each line it meets (R203). -/
def cacheWriteThrough (L space : Nat) (p : Port) (a : Nat) (bs : List Byte) (s : State) : State :=
  if (s.shell L).cacheEff = 0 then s
  else (pieces 64 a bs.length).foldl (fun s q =>
    let t : Tag := { space := space, port := if space = 1 then .A else p, line := q.1 / 64 }
    match cacheFind (s.shell L) t with
    | none => s
    | some k => s.modShell L fun x =>
        { x with sp := mput x.sp (72 * (cacheFirst x.cacheEff.toNat + k) + q.1 % 64) ((bs.drop (q.1 - a)).take q.2) }) s

/-- A write of memory by the Shell L, with its cached copies (R203). -/
def writeShell (L c space va : Nat) (bs : List Byte) : Act Unit := do
  let ps ← xlateAll (.shell L) c space va bs.length true
  writePieces (.shell L) c space ps bs
  upd fun s => (ps.foldl (fun (z : Nat × State) q =>
    (z.1 + q.2, if space = 1 && (accWindow s q.1).isSome then z.2
      else cacheWriteThrough L space (s.ctx c).port q.1 ((bs.drop z.1).take q.2) z.2)) (0, s)).2

/-- The cache invalidated whole (R203, R204). -/
def cacheDrop (L : Nat) (s : State) : State := s.modShell L fun x => { x with tags := [], plru := [] }

/-- A cache invalidated whole by one of the events of R204; an invalidation of a cache of no lines is none. -/
def cacheEvent (L : Nat) (s : State) : State :=
  if (s.shell L).cacheEff = 0 then s else (cacheDrop L s).bump (shellCtr L 89)

/-! ## Regions as a whole (R188, R189, R214) -/

/-- The region entry numbers of a Shell that are free. -/
def freeEntries (x : Shell) : List Nat := (List.range 32).filter fun e => (tfind x.regions e).isNone

/-- Whether a range of groups overlaps a region other than entry `skip`, meets the cache range or leaves the scratchpad
(R188). -/
def regionClash (x : Shell) (skip base len : Nat) : Bool :=
  4096 < base + len || cacheFirst x.cacheEff.toNat < 64 * (base + len) ||
    x.regions.any fun e => e.1 ≠ skip && e.2.base.toNat < base + len && base < e.2.base.toNat + e.2.len.toNat

/-- A region installed: its lines are zeroed before any access (R189). -/
def installRegion (L e : Nat) (r : Region) (s : State) : State :=
  let (id, s) := s.fresh
  zeroLines L r.line0 r.lines (s.modShell L fun x => { x with regions := tset x.regions e { r with inst := id } })

/-- The windows that a removed region bore close (R211). -/
def closeWindowsOf (r : Region) (x : Shell) : Shell :=
  { x with windows := x.windows.filter fun w => w.2.inst ≠ r.inst }

/-- A context-scoped region removed: zeroed and released, its windows closed (R214, R211). -/
def removeRegion (L e : Nat) (s : State) : State :=
  match tfind (s.shell L).regions e with
  | none => s
  | some r =>
    zeroLines L r.line0 r.lines
      (s.modShell L fun x => closeWindowsOf r { x with regions := tdel x.regions e })

end Sys2Proof.Machine
end

