-- ==== Sys2Proof/Machine/Operands.lean ====
section
/-! DEFINITION. The operand forms of native commands (09_command_streams R288–R300): the 256-bit word and its reserved
fields, address fields with their loop advance, the issue of a command by a Stroke core; and tensors
(07_tensor_layout R219–R237): descriptors, their checks, the places of their elements, and reading and writing them. -/

namespace Sys2Proof.Machine

/-! ## The command word (R288–R290) -/

/-- The 256 bits of a command with an opcode (R288). -/
def cmdWord (op : Nat) (w : Cmd) : Nat :=
  op + 2 ^ 8 * w.form.toNat + 2 ^ 10 * w.adv.toNat + 2 ^ 14 * w.rsv.toNat + 2 ^ 16 * w.ctl.toNat +
    2 ^ 32 * w.imm.toNat + 2 ^ 64 * w.opa.toNat + 2 ^ 128 * w.opb.toNat + 2 ^ 192 * w.opc.toNat

/-- Bits [hi:lo] of the command, `ctl` at its place in the word: `ctl`[19:16] is `w.f 19 16`. -/
def cf (w : Cmd) (hi lo : Nat) : Nat := bits (cmdWord 0 w) hi lo

def opaF (w : Cmd) (hi lo : Nat) : Nat := bits w.opa.toNat hi lo
def opbF (w : Cmd) (hi lo : Nat) : Nat := bits w.opb.toNat hi lo
def opcF (w : Cmd) (hi lo : Nat) : Nat := bits w.opc.toNat hi lo
def immF (w : Cmd) (hi lo : Nat) : Nat := bits w.imm.toNat hi lo

/-- What the encoding tables say of a command: opcode, operand bits used, address fields, tensor operands, and where a
field that this form leaves unused begins or ends (R308–R311). -/
structure Enc where
  op : Nat
  used : Nat
  fields : List Nat
  tensor : Bool
  parts : List Nat := []
  deriving DecidableEq, Repr

/-- Bits of `ctl`[hi:lo], `imm`, `opa`, `opb` and `opc` as a mask over the command. -/
def uCtl (hi lo : Nat) : Nat := ones hi lo
def uImm (hi lo : Nat) : Nat := ones (32 + hi) (32 + lo)
def uOpa (hi lo : Nat) : Nat := ones (64 + hi) (64 + lo)
def uOpb (hi lo : Nat) : Nat := ones (128 + hi) (128 + lo)
def uOpc (hi lo : Nat) : Nat := ones (192 + hi) (192 + lo)

/-- Where an address field stands (R289). -/
def uAf : Nat → Nat
  | 0 => uOpa 23 0
  | 1 => uOpa 47 24
  | 2 => uOpb 23 0
  | _ => uOpb 47 24

/-- Bits of a tensor operand word by form (R291). -/
def tensorBits (form : Nat) : Nat := if form = 0 then ones 59 0 else if form = 1 then ones 23 0 else ones 7 0

/-- Where the fields of R288 begin. -/
def cmdSplits : List Nat := [8, 10, 14, 16, 32, 64, 128, 192]

/-- The byte offset of a field that R290 rejects: a reserved field first, then `form` and `adv`. -/
def cmdBad (e : Enc) (w : Cmd) : Option Nat :=
  match reservedAt (cmdWord e.op w) (e.used ||| 0x3FFF) 256 (cmdSplits ++ e.parts) with
  | some b => some b
  | none =>
    if w.form = 3 || (w.form ≠ 0 && !e.tensor) || (w.adv ≠ 0 && w.form = 2) ||
        (List.range 4).any (fun f => w.adv.getLsbD f && !e.fields.contains f)
    then some 1 else none

/-! ## Loop advance (R300) -/

/-- The step of an open loop for a field. -/
def Loop.delta (l : Loop) : Nat → Int
  | 0 => l.d0
  | 1 => l.d1
  | 2 => l.d2
  | _ => l.d3

/-- Address field f of a command (R289). -/
def afOf (w : Cmd) : Nat → Nat
  | 0 => opaF w 23 0
  | 1 => opaF w 47 24
  | 2 => opbF w 23 0
  | _ => opbF w 47 24

/-- A field of 24 bits placed at bit `at_` of an operand word. -/
def putField (v : BitVec 64) (at_ x : Nat) : BitVec 64 :=
  BitVec.ofNat 64 (v.toNat - bits v.toNat (at_ + 23) at_ * 2 ^ at_ + x * 2 ^ at_)

/-- A command with address field f replaced. -/
def withAf (w : Cmd) (f x : Nat) : Cmd :=
  match f with
  | 0 => { w with opa := putField w.opa 0 x }
  | 1 => { w with opa := putField w.opa 24 x }
  | 2 => { w with opb := putField w.opb 0 x }
  | _ => { w with opb := putField w.opb 24 x }

/-- The effective line of an address field inside open loops (R300). -/
def effLine (loops : List Loop) (f line : Nat) : Int :=
  loops.foldl (fun a l => a + (l.i : Int) * l.delta f) (line : Int)

/-- The command with its effective lines; a line out of range is 0x02 with the detail of R300. -/
def effCmd (loops : List Loop) (w : Cmd) : Except Flt Cmd :=
  (List.range 4).foldlM (fun w f =>
    if w.adv.getLsbD f then
      let a := afOf w f
      let e := effLine loops f (addrLine a)
      if e < 0 || (spLines : Int) ≤ e then
        .error { code := 0x02, detail := 2 ^ 18 * addrShell a + unsigned 18 e + 2 ^ 24 * f + 2 ^ 26 }
      else .ok (withAf w f (spAddr (addrShell a) e.toNat))
    else .ok w) w

/-! ## Opcodes (R308–R311) -/

/-- The control, lane and transform commands by opcode (R308). -/
def controlOps : List (Nat × (Fin 64 → Cmd → Instr)) :=
  [(0x00, .nop), (0x01, .endStream), (0x02, .loop), (0x03, .lend), (0x04, .lset), (0x05, .hint), (0x06, .ptest),
   (0x07, .skip), (0x10, .muladd), (0x11, .mul), (0x12, .add), (0x13, .sub), (0x14, .neg), (0x15, .mov),
   (0x20, .ntt), (0x21, .intt), (0x22, .auto), (0x23, .bconv)]

/-- The chain, key, scheme and share commands (R309). -/
def schemeOps : List (Nat × (Fin 64 → Cmd → Instr)) :=
  [(0x30, .chainSet), (0x31, .chainDrop), (0x32, .keyInstall), (0x33, .keyDrop), (0x34, .keyOpen), (0x35, .keyPin),
   (0x36, .kip), (0x37, .keyClose), (0x40, .hadd), (0x41, .hsub), (0x42, .hneg), (0x43, .hmulc), (0x44, .hmulp),
   (0x45, .hmul), (0x46, .relin), (0x47, .rotate), (0x48, .kswitch), (0x49, .rescale), (0x4A, .lvldrop),
   (0x4B, .boot), (0x50, .sadd), (0x51, .ssub), (0x52, .sneg), (0x53, .smulc), (0x54, .smulp), (0x55, .smul),
   (0x56, .sbeaver)]

/-- The vector commands (R310). -/
def vectorOps : List (Nat × (Fin 64 → Cmd → Instr)) :=
  [(0x60, .vload), (0x61, .vstore), (0x62, .vadd), (0x63, .vsub), (0x64, .vmul), (0x65, .vfma), (0x66, .vmax),
   (0x67, .vmin), (0x68, .vneg), (0x69, .vabs), (0x6A, .vcvt), (0x6B, .vred), (0x6C, .vdot), (0x6D, .vupd),
   (0x6E, .vseed), (0x6F, .vmode)]

/-- The encoder, memory, window and synchronisation commands (R311). -/
def memoryOps : List (Nat × (Fin 64 → Cmd → Instr)) :=
  [(0x70, .encode), (0x71, .tcopy), (0x72, .tperm), (0x73, .tdescCreate), (0x74, .tdescFree), (0x75, .scacheInv),
   (0x76, .winOpen), (0x77, .winClose), (0x80, .catch), (0x81, .scnt), (0x82, .swait), (0x83, .vigil),
   (0x84, .vigilDrop)]

/-- The command that a fetched command of a Shell's stream names by its opcode; none for a reserved opcode (R290). -/
def nativeOf (sh : Fin 64) (r : Raw) : Option Instr :=
  ((controlOps ++ schemeOps ++ vectorOps ++ memoryOps).find? fun e => e.1 = r.op.toNat).map fun e => e.2 sh r.w

/-- Commands with yield points inside (R312): lane and transform commands, `KIP`, the scheme commands from `HADD` to
`LVLDROP`, share commands, `ENCODE`, `TCOPY` and `TPERM`. -/
def yieldsInside (op : Nat) : Bool :=
  (0x10 ≤ op && op ≤ 0x15) || (0x20 ≤ op && op ≤ 0x23) || op = 0x36 || (0x40 ≤ op && op ≤ 0x4A) ||
    (0x50 ≤ op && op ≤ 0x56) || (0x70 ≤ op && op ≤ 0x72)

/-! ## The native-stream buffer (R285–R288, R301) -/

/-- A native command out of its 32 bytes (R288). -/
def rawOf (bs : List Byte) : Raw :=
  let v := leNat bs
  { op := BitVec.ofNat 8 v,
    w := { form := BitVec.ofNat 2 (v >>> 8), adv := BitVec.ofNat 4 (v >>> 10), rsv := BitVec.ofNat 2 (v >>> 14),
           ctl := BitVec.ofNat 16 (v >>> 16), imm := BitVec.ofNat 32 (v >>> 32), opa := BitVec.ofNat 64 (v >>> 64),
           opb := BitVec.ofNat 64 (v >>> 128), opc := BitVec.ofNat 64 (v >>> 192) } }

/-- The commands of n × 32 bytes. -/
def rawsOf : Nat → List Byte → List Raw
  | 0, _ => []
  | n + 1, bs => rawOf (bs.take 32) :: rawsOf n (bs.drop 32)

/-- Commands that the buffer holds (R287), and a loop body at most, from `LOOP` to `LEND` inclusive (R301). -/
def bodyMax : Nat := 1024

/-- The first command that the buffer has to hold: the `LOOP` of the outermost open loop, whose body repeats without
another fetch (R301), and otherwise the next command. -/
def bufLow (x : Stroke) : Nat :=
  match x.loops.getLast? with
  | some l => l.start - 1
  | none => x.idx

/-- A command that has a place in the buffer. -/
def bufWants (x : Stroke) (i : Nat) : Bool := bufLow x ≤ i && i < bufLow x + bodyMax

/-- The commands of a block taken into the buffer, which lets go of those it no longer has to hold. -/
def bufPut (blk : Nat) (rs : List Raw) (x : Stroke) : Stroke :=
  { x with buf := (rs.zipIdx.foldl (fun b z => tset b (32 * blk + z.2) z.1) x.buf).filter fun e => bufWants x e.1 }

/-- A fault held against a block (R287). -/
def bufHold (blk : Nat) (f : Flt) (x : Stroke) : Stroke := { x with bufFault := tset x.bufFault blk (f.code, f.detail) }

/-- A block of 32 commands fetched from the stream; a fetch that fails is held against its block (R287). -/
def fetchBlock (L c blk : Nat) (s : State) : Option (List Raw) × State :=
  let x := (s.shell L).stroke
  let n := min 32 (x.count - 32 * blk)
  match (readCached L c 1 (x.base + 64 + 1024 * blk) (32 * n) 0).go s with
  | (.ok bs, s) => (some (rawsOf n bs), modStroke L (bufPut blk (rawsOf n bs)) s)
  | (.error f, s) => (none, modStroke L (bufHold blk f) s)

/-- The command at an index of the stream, fetched if it is not held; none where its block could not be fetched. -/
def commandAt (L c i : Nat) (s : State) : Option Raw × State :=
  match tfind (s.shell L).stroke.buf i with
  | some r => (some r, s)
  | none =>
    if (tfind (s.shell L).stroke.bufFault (i / 32)).isSome then (none, s)
    else
      let (rs, s) := fetchBlock L c (i / 32) s
      (rs.bind fun rs => rs[i % 32]?, s)

/-! ## Issue (R294, R295, R312–R314) -/

/-- How a command leaves its Stroke core: completed, continuing elsewhere, issued and waiting, not issued at all, stopped
at a yield point inside it, or begun and short of what it needs to go on. -/
inductive Flow where
  | done
  | jump (i : Nat)
  | wait
  | hold
  | part
  | stay
  deriving DecidableEq, Repr

/-- The Stroke core moved to an index. -/
def goTo (L i : Nat) (s : State) : State := modStroke L (fun x => { x with idx := i, begun := false, point := 0 }) s

/-- A command that issues: counted and traced (R575, R579), once. -/
def issued (L : Nat) (t : Task) (op idx : Nat) (w : Cmd) (s : State) : State :=
  if (s.shell L).stroke.begun then s
  else traceTask L t 0x01 op 0 idx (afOf w 0 + 2 ^ 24 * afOf w 3) (s.bump (shellCtr L 78))

/-- A command that completes; its cycles are free (log 10). -/
def finished (L : Nat) (t : Task) (op idx : Nat) (s : State) : State :=
  let (n, s) := s.drawFree
  traceTask L t 0x02 op 0 idx (Config.cycles n % 2 ^ 64) s

/-- A command that issues and completes. -/
def complete (L : Nat) (t : Task) (op idx : Nat) (w : Cmd) (s : State) : State :=
  finished L t op idx (issued L t op idx w s)

/-- One command skipped (R303). -/
def skipOne (L : Nat) (t : Task) (op : Nat) (s : State) : State :=
  let k := (s.shell L).stroke.idx
  traceTask L t 0x03 op 0 k 0 ((goTo L (k + 1) (modStroke L (fun x => { x with skip := x.skip - 1 }) s)).bump (shellCtr L 79))

/-- A pre-emption request is in force: behind the command in flight the Stroke core issues nothing more (R313). -/
def restsAfter (L : Nat) (t : Task) (s : State) : State :=
  if t.st = .yielding then modStroke L (fun x => { x with halted := true }) s else s

/-- The units of a command, from the recorded point on, each followed by a yield point. Under a pre-emption request the
command runs on to a yield point and records it; how many units it does in flight is open (log 141). -/
def units (L n : Nat) (f : Nat → Act Unit) : Act Flow := do
  let s ← get
  let p := (s.shell L).stroke.point
  let e ← if preempting s L then do
      let (k, s) := s.drawFree
      set s
      pure (min n (p + 1 + Config.unitsInFlight k))
    else pure n
  (List.range' p (e - p)).forM f
  if e < n then
    upd (modStroke L fun x => { x with point := e })
    return .part
  return .done

/-- The units of a command and, behind the last, what completes it. -/
def unitsThen (L n : Nat) (f : Nat → Act Unit) (fin : Act Unit) : Act Flow := do
  match ← units L n f with
  | .done =>
    fin
    return .done
  | x => return x

/-- A native command's meaning: its encoding, whether its count is zero, whether a count or size in a descriptor that it
reads is zero (R306), what is checked before its lines are formed, and what it does for a task with its effective
fields. -/
structure Native where
  enc : Enc
  zero : Bool
  quiet : Nat → Task → Cmd → State → Bool
  head : Cmd → Act Unit
  body : Nat → Task → Cmd → Act Flow

/-- The check of a command's reserved fields (R290). -/
def reservedHead (enc : Enc) (w : Cmd) : Act Unit :=
  match cmdBad enc w with
  | some b => throw { code := 0x01, detail := detail01 0 1 b }
  | none => pure ()

/-- The meaning of a command by its parts; its reserved fields are checked first unless it says otherwise. -/
def native (enc : Enc) (zero : Bool) (body : Nat → Task → Cmd → Act Flow) (head : Cmd → Act Unit := reservedHead enc)
    (quiet : Nat → Task → Cmd → State → Bool := fun _ _ _ _ => false) : Native :=
  { enc := enc, zero := zero, quiet := quiet, head := head, body := body }

/-- A pure result as an action. -/
def liftExcept {α : Type} (r : Except Flt α) : Act α :=
  match r with
  | .ok a => pure a
  | .error f => throw f

/-- A zero count or size in a descriptor, read at the command's effective lines. -/
def Native.isQuiet (n : Native) (loops : List Loop) (tid : Nat) (t : Task) (w : Cmd) (s : State) : Bool :=
  match effCmd loops w with
  | .ok e => n.quiet tid t e s
  | .error _ => false

/-- What an issued command does: a zero count makes it a no-op of which only the opcode is checked (R306); otherwise its
head is checked (R290; R113 row 0), the loop advance gives the effective lines (R300), and its body runs. -/
def Native.run (n : Native) (loops : List Loop) (tid : Nat) (t : Task) (w : Cmd) : Act Flow := do
  if n.zero || n.isQuiet loops tid t w (← get) then return .done
  n.head w
  let w ← liftExcept (effCmd loops w)
  n.body tid t w

/-- How the Stroke core of Shell L leaves a command that ran. A command that was held has done nothing (`heldCode`). -/
def settleIssue (L tid : Nat) (t : Task) (op idx : Nat) (w : Cmd) (s : State) : Except Flt Flow × State → State
  | (.ok .done, s') => restsAfter L t (goTo L (idx + 1) (complete L t op idx w s'))
  | (.ok (.jump i), s') => restsAfter L t (goTo L i (complete L t op idx w s'))
  | (.ok .wait, s') => issued L t op idx w s'
  | (.ok .hold, _) => s
  | (.ok .part, s') => restsAfter L t (modStroke L (fun x => { x with begun := true }) (issued L t op idx w s'))
  | (.ok .stay, s') => modStroke L (fun x => { x with begun := true }) (issued L t op idx w s')
  | (.error f, s') => if f.code = heldCode then s else abortLaid tid f L idx s'

/-- The task for which a Shell's Stroke core issues a command: its running task, or one that is asked to yield, whose
command in flight runs on to its next yield point (R313; log 141). -/
def issuing (s : State) (L op : Nat) : Option (Nat × Task) :=
  match runningTask s L with
  | some z => some z
  | none =>
    if yieldsInside op && !(s.shell L).stroke.halted && (s.shell L).stroke.skip = 0 then taskOn .yielding s L else none

/-- A command that the stream holds at the index reached is offered to its unit. A command whose block could not be fetched
aborts the task with the fault held against it (R287), and one with a reserved opcode with 0x01 (R290). -/
def issueHeld (L : Nat) (n : Native) (w : Cmd) (tid : Nat) (t : Task) (r : Option Raw) (s : State) : State :=
  let x := (s.shell L).stroke
  match r with
  | none =>
    match tfind x.bufFault (x.idx / 32) with
    | some (code, d) => abortTask tid { code := code, detail := d } L x.idx s
    | none => s
  | some r =>
    if (nativeOf (Fin.ofNat 64 L) r).isNone then abortTask tid { code := 0x01, detail := detail01 0 1 0 } L x.idx s
    else settleIssue L tid t n.enc.op x.idx w s ((n.run x.loops tid t w).go s)

/-- A command offered to the Stroke core of Shell L, the next one of its stream (log 142). Where the core cannot issue,
nothing happens. A skipped command is neither checked nor executed (R303). The end of the stream aborts the task
(R287). -/
def issue (L : Nat) (n : Native) (w : Cmd) (s : State) : State :=
  match issuing s L n.enc.op with
  | none => s
  | some (tid, t) =>
    let x := (s.shell L).stroke
    if 0 < x.skip then skipOne L t n.enc.op s
    else if x.count ≤ x.idx then abortTask tid { code := 0x01, detail := detail01 0 0 severalFields } L x.idx s
    else
      let (r, s) := commandAt L t.ctx x.idx s
      issueHeld L n w tid t r s

/-- A command with no wait and no jump. -/
def plain (a : Act Unit) : Act Flow := do
  a
  return .done

/-- A check of the command itself that fails with 0x01 (structure 0). -/
def bad01 {α : Type} (row off : Nat) : Act α := throw { code := 0x01, detail := detail01 0 row off }

/-! ## Tensors: types and places (R219–R221, R231) -/

/-- Element width in bits (R219). -/
def elemWidth : Nat → Nat
  | 0 => 36
  | 1 => 32
  | 2 => 16
  | 3 => 16
  | 4 => 16
  | 5 => 8
  | 6 => 8
  | _ => 4

/-- Elements per scratchpad line (R219). -/
def perLine (etype : Nat) : Nat := 576 / elemWidth etype

/-- A descriptor image (R222). -/
def descOf (v : Nat) : TDesc :=
  { etype := bits v 3 0, space := bits v 5 4, smode := bits v 7 6, list := v.testBit 8, wr := v.testBit 9,
    slot := bits v 39 32, base := bits v 127 64, n0 := bits v 151 128, n1 := bits v 175 152, n2 := bits v 199 176,
    n3 := bits v 223 200, s0 := signed 32 (bits v 255 224), s1 := signed 32 (bits v 287 256),
    s2 := signed 32 (bits v 319 288), s3 := signed 32 (bits v 351 320), sbase := bits v 415 352,
    lbase := bits v 439 416, lcount := bits v 455 440, blk0 := bits v 467 456, blk1 := bits v 479 468 }

/-- Used bits of a descriptor: [9:0], [39:32] and [479:64] (R222). -/
def descUsed : Nat := ones 9 0 ||| ones 39 32 ||| ones 479 64

/-- Elements of a tensor: a list tensor has those of its blocks (R234). -/
def elemCount (d : TDesc) : Nat := if d.list then d.blk0 * d.blk1 * d.lcount else d.n0 * d.n1 * d.n2 * d.n3

/-- Sizes and strides of the four dimensions. -/
def dims (d : TDesc) : List (Nat × Int) := [(d.n0, d.s0), (d.n1, d.s1), (d.n2, d.s2), (d.n3, d.s3)]

/-- The hull of the element offsets (R225). -/
def hullLo (d : TDesc) : Int := (dims d).foldl (fun a z => a + min 0 (((z.1 : Int) - 1) * z.2)) 0
def hullHi (d : TDesc) : Int := (dims d).foldl (fun a z => a + max 0 (((z.1 : Int) - 1) * z.2)) 0

/-- Elements per line of an interleaved tensor (R229). -/
def interleaved (etype : Nat) : Nat := if etype = 5 then 64 else 128

/-- The first bit of an element by its offset: bits are counted from bit 0 of line 0 of the Shell in scratchpad, and
from bit 0 of byte 0 in memory (R221, R231). -/
def bitAt (d : TDesc) (e : Int) : Int :=
  let w : Int := elemWidth d.etype
  if d.space = 0 then
    let line0 : Int := 576 * addrLine d.base
    if d.smode = 2 then
      let v : Int := interleaved d.etype
      line0 + 576 * (e / v) + (if d.etype = 5 then 16 + 8 * (e % v) else 32 + 4 * (e % v))
    else line0 + w * (d.slot + e)
  else 8 * (d.base : Int) + w * e

/-- A byte range [lo, hi) of an address space: scratchpad of a Shell, stacked or host memory. -/
structure Span where
  space : Nat
  shell : Nat
  lo : Int
  hi : Int
  deriving DecidableEq, Repr

/-- The footprint of a tensor's values (R225); an interleaved tensor is held in whole lines. -/
def valueSpan (d : TDesc) : Span :=
  let sh := if d.space = 0 then addrShell d.base else 0
  if d.space = 0 && d.smode = 2 then
    let l0 : Int := addrLine d.base
    { space := 0, shell := sh, lo := 72 * l0, hi := 72 * (l0 + hullHi d / interleaved d.etype + 1) }
  else
    { space := d.space, shell := sh, lo := bitAt d (hullLo d) / 8,
      hi := (bitAt d (hullHi d) + elemWidth d.etype - 1) / 8 + 1 }

/-- The footprint of a scale array (R230). -/
def scaleSpan (d : TDesc) : Option Span :=
  if d.smode = 1 then
    let n : Int := ceilDiv d.n0 32 * d.n1 * d.n2 * d.n3
    if d.space = 0 then
      some { space := 0, shell := addrShell d.sbase, lo := 72 * addrLine d.sbase, hi := 72 * addrLine d.sbase + n }
    else some { space := d.space, shell := 0, lo := d.sbase, hi := d.sbase + n }
  else none

/-- The lines of a block list (R233). -/
def listSpan (d : TDesc) : Option Span :=
  if d.list then
    let l := addrLine d.lbase
    some { space := 0, shell := addrShell d.lbase, lo := 72 * l, hi := 72 * (l + ceilDiv d.lcount 8) }
  else none

/-- The footprint set of an operand (overlap section before R237). -/
def footprint (d : TDesc) : List Span := valueSpan d :: ((scaleSpan d).toList ++ (listSpan d).toList)

/-! ## The checks of a descriptor (R223–R229, R232, R234) -/

/-- The detail of an address in a span. -/
def spanAddr (x : Span) (b : Int) : Nat :=
  if x.space = 0 then unsigned 24 (2 ^ 18 * x.shell + b / 72) else unsigned 64 b

/-- Row 1 of R223 beyond the reserved bits: encodings, unused fields and the combinations of R229, R232 and R234; the
byte offset of the failing field. `modes` are the block-scale forms the command accepts (R232). -/
def descBad (d : TDesc) (modes : List Nat) : Option Nat :=
  if 7 < d.etype then some 0
  else if d.space = 3 || d.smode = 3 then some 0
  else if !modes.contains d.smode then some 0
  else if d.space ≠ 0 && d.slot ≠ 0 then some 4
  else if d.space = 0 && 2 ^ 24 ≤ d.base then some 11
  else if d.smode ≠ 1 && d.sbase ≠ 0 then some 44
  else if d.smode = 1 && d.space = 0 && 2 ^ 24 ≤ d.sbase then some 47
  else if !d.list && d.lbase ≠ 0 then some 52
  else if !d.list && d.lcount ≠ 0 then some 55
  else if !d.list && d.blk0 ≠ 0 then some 57
  else if !d.list && d.blk1 ≠ 0 then some 58
  else if d.smode ≠ 0 && ((d.etype ≠ 5 && d.etype ≠ 7) || d.s0 ≠ 1) then some severalFields
  else if d.smode = 2 && (d.space ≠ 0 || d.slot ≠ 0 || d.list ||
      [d.s1, d.s2, d.s3].any (fun x => x < 0 || x % interleaved d.etype ≠ 0)) then some severalFields
  else if d.smode ≠ 0 && d.list && d.blk0 % 32 ≠ 0 then some severalFields
  else none

/-- Row 2 of R223: sizes. -/
def sizeBad (d : TDesc) : Option Nat :=
  if d.n0 = 0 then some 16
  else if d.n1 = 0 then some 19
  else if d.n2 = 0 then some 22
  else if d.n3 = 0 then some 25
  else if d.list && (d.lcount = 0 || 4096 < d.lcount) then some 55
  else if d.list && (d.blk0 = 0 || d.n0 < d.blk0) then some 57
  else if d.list && (d.blk1 = 0 || d.n1 < d.blk1) then some 58
  else if 2 ^ 32 ≤ elemCount d then some severalFields
  else none

/-- A dimension inserted in ascending order of |σ|, ties in ascending number (R226). -/
def insertDim (x : Nat × Nat × Int) : List (Nat × Nat × Int) → List (Nat × Nat × Int)
  | [] => [x]
  | y :: r => if y.2.2.natAbs ≤ x.2.2.natAbs then y :: insertDim x r else x :: y :: r

/-- The write test of R226: the dimension that fails. -/
def aliasDim (d : TDesc) : Option Nat :=
  let ds := ((dims d).zipIdx.filter (fun z => 1 < z.1.1)).map (fun z => (z.2, z.1.1, z.1.2))
  let sorted := ds.foldl (fun a x => insertDim x a) []
  (sorted.foldl (fun (st : Nat × Option Nat) x =>
    match st.2 with
    | some _ => st
    | none => if x.2.2.natAbs < 1 + st.1 then (st.1, some x.1) else (st.1 + x.2.2.natAbs * (x.2.1 - 1), none))
    (0, none)).2

/-- A span of the executing Shell's scratchpad lies within one region of the task (R225). -/
def spanInRegion (L tid c : Nat) (x : Span) : Act Unit := do
  let s ← get
  if x.shell = L && 0 ≤ x.lo then scoreboard L (x.lo.toNat / 72) ((x.hi.toNat - 1) / 72 + 1 - x.lo.toNat / 72)
  if x.shell ≠ L || x.lo < 0 then throw { code := 0x02, detail := spanAddr x x.lo }
  if !oneRegion (s.shell L) tid c x.lo.toNat x.hi.toNat then
    let first := (regionAt (s.shell L) tid c (x.lo.toNat / 72)).map (fun r => 72 * (r.line0 + r.lines))
    throw { code := 0x02, detail := spanAddr x (first.getD x.lo.toNat : Nat) }

/-- Row 5 of R223 for one span: regions, one stack, or the port's address space (R225, R329). The values of a copy may lie in
another Shell's scratchpad, which is checked line by line at its windows (R244). -/
def spanRange (L tid c : Nat) (remote : Bool) (x : Span) : Act Unit := do
  if x.space = 0 then
    if !(remote && x.shell ≠ L) then spanInRegion L tid c x
  else if x.lo < 0 then throw { code := 0x02, detail := spanAddr x x.lo }
  else oneStack (.shell L) c x.space x.lo.toNat (x.hi - x.lo).toNat

/-- Row 6 of R223 for one span. -/
def spanWritable (L c : Nat) (x : Span) : Act Unit := do
  if x.space ≠ 0 then writable (.shell L) c x.space x.lo.toNat (x.hi - x.lo).toNat

/-- The checks of R223 on a descriptor, in order; `raw` is the descriptor's image where it has one. -/
def checkDesc (L tid c : Nat) (raw : Option Nat) (d : TDesc) (wr remote : Bool) (modes : List Nat) : Act Unit := do
  match raw with
  | some v =>
    match reservedAt v descUsed 576 [10, 40, 480] with
    | some b => throw { code := 0x01, detail := detail01 2 1 b }
    | none => pure ()
  | none => pure ()
  match descBad d modes with
  | some b => throw { code := 0x01, detail := detail01 2 1 b }
  | none => pure ()
  match sizeBad d with
  | some b => throw { code := 0x01, detail := detail01 2 2 b }
  | none => pure ()
  if d.space = 0 && d.smode ≠ 2 && perLine d.etype ≤ d.slot then
    throw { code := 0x01, detail := detail01 2 3 4 }
  if wr then
    match aliasDim d with
    | some k => throw { code := 0x04, detail := k }
    | none => pure ()
  spanRange L tid c remote (valueSpan d)
  ((scaleSpan d).toList ++ (listSpan d).toList).forM (spanRange L tid c false)
  if wr then ([valueSpan d] ++ (scaleSpan d).toList).forM (spanWritable L c)

/-! ## Operands of a command (R291, R228) -/

/-- A direct operand: dense, scratchpad, one dimension of the command's count (R291). -/
def directDesc (word count : Nat) : TDesc :=
  { etype := bits word 59 56, space := 0, smode := 0, list := false, wr := true, slot := bits word 31 24,
    base := bits word 23 0, n0 := count, n1 := 1, n2 := 1, n3 := 1, s0 := signed 24 (bits word 55 32), s1 := 0,
    s2 := 0, s3 := 0, sbase := 0, lbase := 0, lcount := 0, blk0 := 0, blk1 := 0 }

/-- Some size of an inline operand is zero (R224). -/
def sizeZero (d : TDesc) : Bool :=
  d.n0 = 0 || d.n1 = 0 || d.n2 = 0 || d.n3 = 0 || (d.list && (d.lcount = 0 || d.blk0 = 0 || d.blk1 = 0))

/-- A tensor operand as the command takes it at acceptance, with its image where it is inline. -/
structure Operand where
  d : TDesc
  raw : Option Nat
  inline : Bool
  deriving DecidableEq, Repr

/-- The operand named by a word; `off` is the word's byte offset in the command. -/
def takeOperand (L tid c form word count off : Nat) (wr : Bool) : Act Operand := do
  if form = 0 then return { d := directDesc word count, raw := none, inline := true }
  else if form = 1 then
    let a := bits word 23 0
    inRange L tid c a 1
    let bs ← spRead L (addrLine a) 1
    return { d := descOf (leNat bs), raw := some (leNat bs), inline := true }
  else
    let s ← get
    if !(s.shell L).maint then bad01 1 1
    match tfind (s.shell L).handles (bits word 7 0) with
    | none => bad01 1 off
    | some h =>
      let live := (s.shell L).regions.map (fun e => e.2.inst)
      if h.regs.any (fun i => !live.contains i) then
        throw { code := 0x02, detail := spanAddr (valueSpan h.d) (valueSpan h.d).lo }
      if wr && !h.d.wr then bad01 1 off
      return { d := h.d, raw := none, inline := false }

/-- The checks of R224 on an inline operand; a handle's descriptor is checked only for what the command accepts: its form
(R232), and the executing Shell's own scratchpad (R225) where the command is no copy. -/
def checkOperand (L tid c : Nat) (o : Operand) (wr remote : Bool) (modes : List Nat) : Act Unit := do
  if o.inline then checkDesc L tid c o.raw o.d wr remote modes
  else
    match descBad o.d modes with
    | some b => throw { code := 0x01, detail := detail01 2 1 b }
    | none => pure ()
    let x := valueSpan o.d
    if !remote && x.space = 0 && x.shell ≠ L then throw { code := 0x02, detail := spanAddr x x.lo }

/-- A zero size in a descriptor line that an inline operand names, which makes the command a no-op (R224, R306); the line is
looked at where the task may read it. -/
def lineQuiet (L tid c form word : Nat) (s : State) : Bool :=
  let line : Act Nat := do
    inRange L tid c (bits word 23 0) 1
    return leNat (← spRead L (addrLine (bits word 23 0)) 1)
  form = 1 && match (line.go s).1 with
    | .ok v => sizeZero (descOf v)
    | .error _ => false

/-- Where two spans meet: the lowest shared byte. -/
def spanMeet (x y : Span) : Option Int :=
  if x.space = y.space && x.shell = y.shell && x.lo < y.hi && y.lo < x.hi then some (max x.lo y.lo) else none

/-- The lowest address that two operands share (R568). -/
def shareAddr (a b : TDesc) : Option Nat :=
  (footprint a).findSome? fun x => (footprint b).findSome? fun y => (spanMeet x y).map (spanAddr x)

/-- Two operands coincide exactly: equal in every field but `wr` (R237). -/
def coincide (a b : TDesc) : Bool := { a with wr := false } = { b with wr := false }

/-- A destination against a source (R237). One whose footprint set takes in the block list of either coincides with
nothing. -/
def overlapRule (dst src : TDesc) : Act Unit := do
  let meets := fun (xs ys : List Span) => ys.findSome? fun y => xs.findSome? fun x => (spanMeet x y).map (spanAddr x)
  match (meets (footprint dst) (listSpan src).toList).or
      (meets (valueSpan dst :: (scaleSpan dst).toList) (listSpan dst).toList) with
  | some a => throw { code := 0x03, detail := a }
  | none =>
    if !coincide dst src then
      match shareAddr dst src with
      | some a => throw { code := 0x03, detail := a }
      | none => pure ()

/-! ## Elements in logical order (R220, R233–R235) -/

/-- The element offset of coordinates (R221). -/
def offsetAt (d : TDesc) (i : Nat × Nat × Nat × Nat) : Int :=
  i.1 * d.s0 + i.2.1 * d.s1 + i.2.2.1 * d.s2 + i.2.2.2 * d.s3

/-- The coordinates of the blocks of a list (R233): four 18-bit coordinates per entry. -/
def entriesOf : Nat → Nat → List (Nat × Nat × Nat × Nat)
  | 0, _ => []
  | n + 1, v => (bits v 17 0, bits v 35 18, bits v 53 36, bits v 71 54) :: entriesOf n (v / 2 ^ 72)

/-- The block list read once, checked in a pre-pass (R235). -/
def readList (L : Nat) (d : TDesc) (scatter : Bool) : Act (List (Nat × Nat × Nat × Nat)) := do
  if !d.list then return []
  let bs ← spRead L (addrLine d.lbase) (ceilDiv d.lcount 8)
  let es := entriesOf d.lcount (leNat bs)
  match es.find? (fun e => d.n0 < e.1 * d.blk0 + d.blk0 || d.n1 < e.2.1 * d.blk1 + d.blk1 || d.n2 ≤ e.2.2.1 ||
      d.n3 ≤ e.2.2.2) with
  | some e =>
    let at_ := bitAt d (offsetAt d (e.1 * d.blk0, e.2.1 * d.blk1, e.2.2.1, e.2.2.2)) / 8
    throw { code := 0x02, detail := spanAddr (valueSpan d) at_ }
  | none => pure ()
  if scatter then
    match es.zipIdx.find? (fun z => (es.take z.2).contains z.1) with
    | some z => throw { code := 0x04, detail := z.2 + 65536 }
    | none => pure ()
  return es

/-- Coordinates of every element in ascending logical index (R220, R234). -/
def coords (d : TDesc) (es : List (Nat × Nat × Nat × Nat)) : List (Nat × Nat × Nat × Nat) :=
  if d.list then
    es.flatMap fun e => (List.range d.blk1).flatMap fun j1 => (List.range d.blk0).map fun j0 =>
      (e.1 * d.blk0 + j0, e.2.1 * d.blk1 + j1, e.2.2.1, e.2.2.2)
  else
    (List.range d.n3).flatMap fun i3 => (List.range d.n2).flatMap fun i2 => (List.range d.n1).flatMap fun i1 =>
      (List.range d.n0).map fun i0 => (i0, i1, i2, i3)

/-- The bit place of the scale of an element in the same space (R230, R231). -/
def scaleBit (d : TDesc) (i : Nat × Nat × Nat × Nat) : Nat :=
  if d.smode = 1 then
    let k := i.1 / 32 + ceilDiv d.n0 32 * (i.2.1 + d.n1 * (i.2.2.1 + d.n2 * i.2.2.2))
    if d.space = 0 then 576 * addrLine d.sbase + 8 * k else 8 * (d.sbase + k)
  else
    let v := interleaved d.etype
    let e := (offsetAt d i).toNat
    576 * (addrLine d.base + e / v) + 8 * (e % v / 32)

/-! ## Lines of a tensor -/

/-- Bits of a line: 576 in scratchpad; memory is reached by 64-byte lines. -/
def lineBits (space : Nat) : Nat := if space = 0 then 576 else 512

/-- Whether a window of the owner admits a Shell of the same context for a line (R206–R209); in maintenance state none does
(R522). -/
def windowAdmits (o : Shell) (src c line : Nat) (write : Bool) : Bool :=
  !o.maint && !o.pw.parked && o.windows.any fun w =>
    w.2.ctx = c && w.2.shells.getLsbD src && (if write then w.2.wr else w.2.rd) &&
      64 * w.2.base ≤ line && line < 64 * (w.2.base + w.2.len)

/-- The access of a Shell to a line of another Shell's scratchpad, refused with 0x11 and counted (R209, R244). -/
def crossCheck (L sh c line : Nat) (write : Bool) : Act Unit := do
  let s ← get
  if (s.shell sh).vacant then throw { code := 0x02, detail := spAddr sh line }
  if !windowAdmits (s.shell sh) L c line write then
    set (s.bump (shellCtr sh 90))
    throw { code := 0x11, detail := spAddr sh line }

/-- One line read for Shell L as a number: own or another Shell's scratchpad, or memory through the cache. -/
def fetchLine (L c space sh cls line : Nat) : Act Nat := do
  if space = 0 then
    if sh ≠ L then crossCheck L sh c line false
    return leNat (← spRead sh line 1)
  else return leNat (← readCached L c space (64 * line) 64 cls)

/-- The lines that elements of w bits touch, each once, in order of first use. -/
def linesOf (lb w : Nat) (ps : List Nat) : List Nat :=
  (ps.foldl (fun (acc : List Nat) p =>
    let a := p / lb
    let b := (p + w - 1) / lb
    let acc := if acc.head? = some a || acc.contains a then acc else a :: acc
    if b = a || acc.contains b then acc else b :: acc) []).reverse

/-- The lines fetched into a table. -/
def fetchLines (L c space sh cls : Nat) (ls : List Nat) : Act (Tab Nat) :=
  ls.foldlM (fun t l => do
    let v ← fetchLine L c space sh cls l
    return tset t l v) []

/-- A field of w bits out of a table of lines. -/
def fieldAt (t : Tab Nat) (lb w p : Nat) : Nat :=
  let a := tget 0 t (p / lb)
  let b := tget 0 t (p / lb + 1)
  ((a >>> (p % lb)) + b * 2 ^ (lb - p % lb)) % 2 ^ w

/-- Fields of w bits read at bit places of a space. -/
def readFields (L c space sh cls w : Nat) (ps : List Nat) : Act (List Nat) := do
  let lb := lineBits space
  let t ← fetchLines L c space sh cls (linesOf lb w ps)
  return ps.map (fieldAt t lb w)

/-- The Shell whose scratchpad holds a tensor's values, and the one that holds its scales (R230, R231). -/
def TDesc.shell (d : TDesc) : Nat := if d.space = 0 then addrShell d.base else 0
def TDesc.scaleShell (d : TDesc) : Nat := if d.space = 0 && d.smode = 1 then addrShell d.sbase else d.shell

/-- The bit places of a tensor's elements in logical order; a place below line 0 of another Shell is negative (R244). -/
def places (d : TDesc) (es : List (Nat × Nat × Nat × Nat)) : List Int := (coords d es).map fun i => bitAt d (offsetAt d i)

/-- The bit places of their scales. -/
def scalePlaces (d : TDesc) (es : List (Nat × Nat × Nat × Nat)) : List Nat := (coords d es).map (scaleBit d)

/-- The raw elements of a tensor in logical order. -/
def readTensor (L c : Nat) (d : TDesc) (es : List (Nat × Nat × Nat × Nat)) (cls : Nat) : Act (List Nat) :=
  readFields L c d.space d.shell cls (elemWidth d.etype) ((places d es).map Int.toNat)

/-- The block scale of each element (R230, R231). -/
def readScales (L c : Nat) (d : TDesc) (es : List (Nat × Nat × Nat × Nat)) (cls : Nat) : Act (List Nat) :=
  readFields L c d.space d.scaleShell cls 8 (scalePlaces d es)

/-- A masked write gathered by line: line, mask and value. -/
def gather (lb w : Nat) (t : Tab (Nat × Nat)) (z : Nat × Nat) : Tab (Nat × Nat) :=
  let put := fun (t : Tab (Nat × Nat)) (line m v : Nat) =>
    if m = 0 then t
    else
      let o := tget (0, 0) t line
      tset t line (o.1 ||| m, (o.2 &&& ((o.1 ||| m) ^^^ m)) ||| v)
  let p := z.1 % lb
  let m := (2 ^ w - 1) <<< p
  let v := (z.2 % 2 ^ w) <<< p
  put (put t (z.1 / lb) (m % 2 ^ lb) (v % 2 ^ lb)) (z.1 / lb + 1) (m >>> lb) (v >>> lb)

/-- One line of a scratchpad written under a bit mask; a partial write to an uncorrectable line fails (R194). -/
def spMerge (L line mask v : Nat) : Act Unit := do
  let s ← get
  if mask = 2 ^ 576 - 1 then set (spPut L (72 * line) (leBytes 72 v) s)
  else
    let old := mnum (s.shell L).sp (72 * line) 72
    let put := spPut L (72 * line) (leBytes 72 ((old &&& (2 ^ 576 - 1 - mask)) ||| v))
    match (tfind (s.shell L).lineErr line).map fun e => lineClass (s.shell L) (line, e) with
    | some .unc =>
      set (s.bump (shellCtr L 85))
      throw { code := 0x31, detail := spAddr L line }
    | some .corr => set (put (countCorr L line s))
    | _ => set (put s)

/-- The runs of bytes that a mask of 64 bytes covers, as first byte and length. -/
def byteRuns (mask : Nat) : List (Nat × Nat) :=
  ((List.range 64).foldl (fun (acc : List (Nat × Nat)) i =>
    if bits mask (8 * i + 7) (8 * i) = 0 then acc
    else match acc with
      | (a, n) :: r => if a + n = i then (a, n + 1) :: r else (i, 1) :: (a, n) :: r
      | [] => [(i, 1)]) []).reverse

/-- The byte runs that a masked write of one 64-byte line of memory stores, the bits of a byte it covers in part merged
with what stands there. -/
def lineRuns (L c space line mask v : Nat) : Act (List (Nat × List Byte)) := do
  let old ← do
    if (List.range 64).all (fun i => let b := bits mask (8 * i + 7) (8 * i); b = 0 || b = 255) then pure 0
    else pure (leNat (← readMem (.shell L) c space (64 * line) 64 0))
  let new := leBytes 64 ((old &&& (2 ^ 512 - 1 - mask)) ||| v)
  return (byteRuns mask).map fun r => (64 * line + r.1, (new.drop r.1).take r.2)

/-- One line of a scratchpad written for Shell L. -/
def storeLine (L c sh line mask v : Nat) : Act Unit := do
  if sh ≠ L then crossCheck L sh c line true
  spMerge sh line mask v

/-- One line of a tensor written under a bit mask: of a scratchpad, or of memory in runs of bytes. -/
def storeMasked (L c space sh line mask v : Nat) : Act Unit := do
  if space = 0 then storeLine L c sh line mask v
  else (← lineRuns L c space line mask v).forM fun r => writeShell L c space r.1 r.2

/-- A masked line out of fields of w bits, as mask and value. -/
def maskedLine (space w line : Nat) (zs : List (Nat × Nat)) : Nat × Nat :=
  tget (0, 0) (zs.foldl (gather (lineBits space) w) []) line

/-- Fields of w bits written at bit places, each line once, in the order in which the fields first come to it (R220). -/
def writeFields (L c space sh w : Nat) (zs : List (Nat × Nat)) : Act Unit := do
  let t := zs.foldl (gather (lineBits space) w) []
  (linesOf (lineBits space) w (zs.map (·.1))).forM fun l =>
    storeMasked L c space sh l (tget (0, 0) t l).1 (tget (0, 0) t l).2

/-- Elements written to a tensor without scales in logical order. -/
def writeTensor (L c : Nat) (d : TDesc) (es : List (Nat × Nat × Nat × Nat)) (vs : List Nat) : Act Unit :=
  writeFields L c d.space d.shell (elemWidth d.etype) (((places d es).map Int.toNat).zip vs)

/-! ## Copies by destination line (R220, R231, R239, R243) -/

/-- A copy as its destination lines see it: source and destination, the source place and scale place of each destination
element in logical order, and the elements' own places. -/
structure CopyOp where
  src : TDesc
  dst : TDesc
  from_ : List Int
  fromScale : List Nat
  dest : List Int
  destScale : List Nat

/-- A line of a destination to be written: of its values, or of its separate scale array. -/
structure CopyLine where
  scale : Bool
  line : Nat

/-- The destination lines of a copy, in the order in which the elements come to them; those of a separate scale array come
behind (log 149). -/
def CopyOp.lines (k : CopyOp) : List CopyLine :=
  let lb := lineBits k.dst.space
  (linesOf lb (elemWidth k.dst.etype) (k.dest.map Int.toNat)).map (fun l => { scale := false, line := l }) ++
    (if k.dst.smode = 1 then (linesOf lb 8 k.destScale).map fun l => { scale := true, line := l } else [])

/-- The elements of which a field of w bits lies in a line, by number. -/
def fieldsIn (lb w line : Nat) (ps : List Nat) : List Nat :=
  (ps.zipIdx.filter fun z => z.1 / lb = line || (z.1 + w - 1) / lb = line).map (·.2)

/-- An element below line 0 of another Shell's scratchpad lies in no window (R209, R244). -/
def needPlaces (sh : Nat) (ps : List Int) : Act Unit := do
  match ps.find? (· < 0) with
  | none => pure ()
  | some p =>
    upd fun s => s.bump (shellCtr sh 90)
    throw { code := 0x11, detail := unsigned 24 (2 ^ 18 * sh + p / 576) }

/-- What stands at bit places of a tensor's space, for chosen elements. -/
def pick {α : Type} (d : α) (ps : List α) (is : List Nat) : List α := is.map fun i => ps.getD i d

/-- One destination line: what it takes is read, and it is written at once (R239, R243); an interleaved line is written whole,
with zero elsewhere (R231). -/
def CopyOp.put (L c cls : Nat) (k : CopyOp) (z : CopyLine) : Act Unit := do
  let d := k.dst
  let lb := lineBits d.space
  let w := elemWidth d.etype
  if z.scale then
    let is := fieldsIn lb 8 z.line k.destScale
    let us ← readFields L c k.src.space k.src.scaleShell cls 8 (pick 0 k.fromScale is)
    let m := maskedLine d.space 8 z.line ((pick 0 k.destScale is).zip us)
    storeMasked L c d.space d.scaleShell z.line m.1 m.2
  else
    let is := fieldsIn lb w z.line (k.dest.map Int.toNat)
    needPlaces k.src.shell (pick 0 k.from_ is)
    let vs ← readFields L c k.src.space k.src.shell cls w ((pick 0 k.from_ is).map Int.toNat)
    needPlaces d.shell (pick 0 k.dest is)
    let m := maskedLine d.space w z.line (((pick 0 k.dest is).map Int.toNat).zip vs)
    if d.smode = 2 then
      let us ← readFields L c k.src.space k.src.scaleShell cls 8 (pick 0 k.fromScale is)
      let u := maskedLine d.space 8 z.line ((pick 0 k.destScale is).zip us)
      storeMasked L c d.space d.shell z.line (2 ^ 576 - 1) (m.2 ||| u.2)
    else storeMasked L c d.space d.shell z.line m.1 m.2

/-- A unit of a copy: one destination line. -/
def CopyOp.unit (L c cls : Nat) (k : CopyOp) (i : Nat) : Act Unit :=
  match k.lines[i]? with
  | none => pure ()
  | some z => k.put L c cls z

end Sys2Proof.Machine
end

