-- ==== Sys2Proof/Machine/Objects.lean ====
section
/-! DEFINITION. Objects: the header and its checks (R71–R79), the limbs of an object and where they lie (R70, R75), and
reading and writing limbs of a scratchpad. -/

namespace Sys2Proof.Machine

/-- An object header (R72); `scale` and `ptmod` share bits 128 and up by scheme. -/
structure Hdr where
  scheme : Nat
  logN : Nat
  level : Nat
  limbs : Nat
  ext : Bool
  chain : Nat
  comps : Nat
  domain : Bool
  layout : Nat
  kind : Nat
  keyset : Nat
  scale : Nat
  ptmod : Nat
  deriving DecidableEq, Repr

def ckks : Nat := 1
def bgv : Nat := 2
def bfv : Nat := 3
def shareScheme : Nat := 4

/-- The header in a 576-bit line (R72). -/
def hdrOf (v : Nat) : Hdr :=
  { scheme := bits v 7 0, logN := bits v 12 8, level := bits v 21 16, limbs := bits v 30 24, ext := v.testBit 31,
    chain := bits v 35 32, comps := bits v 37 36, domain := v.testBit 38, layout := bits v 42 40, kind := bits v 45 44,
    keyset := bits v 127 64, scale := if bits v 7 0 = ckks then bits v 159 128 else 0,
    ptmod := if bits v 7 0 = bgv || bits v 7 0 = bfv then bits v 163 128 else 0 }

/-- The 72 bytes of a header's line (R71, R72). -/
def hdrBytes (h : Hdr) : List Byte :=
  leBytes 72 (h.scheme + 2 ^ 8 * h.logN + 2 ^ 16 * h.level + 2 ^ 24 * h.limbs + (if h.ext then 2 ^ 31 else 0) +
    2 ^ 32 * h.chain + 2 ^ 36 * h.comps + (if h.domain then 2 ^ 38 else 0) + 2 ^ 40 * h.layout + 2 ^ 44 * h.kind +
    2 ^ 64 * h.keyset + 2 ^ 128 * (if h.scheme = ckks then h.scale else h.ptmod))

/-- Used bits of a header by scheme (R72). -/
def hdrUsed (scheme : Nat) : Nat :=
  ones 12 0 ||| ones 21 16 ||| ones 38 24 ||| ones 42 40 ||| ones 45 44 ||| ones 127 64 |||
    (if scheme = ckks then ones 159 128 else if scheme = shareScheme then 0 else ones 163 128)

/-- The byte offset of the field that makes a header not well formed (R73). -/
def hdrBad (v : Nat) : Option Nat :=
  let h := hdrOf v
  match reservedAt v (hdrUsed h.scheme) 576 (if h.scheme = ckks then [192, 512] else [164, 192, 512]) with
  | some b => some b
  | none =>
    if h.scheme = 0 || 4 < h.scheme then some 0
    else if h.logN < 12 || 17 < h.logN then some 1
    else if h.limbs = 0 || 64 < h.limbs then some 3
    else if h.comps = 0 then some 4
    else if 1 < h.layout then some 5
    else if h.kind = 3 then some 5
    else if h.kind = 0 && (h.scheme = shareScheme || h.comps < 2) then some severalFields
    else if h.kind = 1 && (h.scheme = shareScheme || h.comps ≠ 1) then some severalFields
    else if h.kind = 2 && (h.scheme ≠ shareScheme || h.comps ≠ 1 || h.ext) then some severalFields
    else if (h.scheme = bgv || h.scheme = bfv) && h.ptmod < 2 then some 16
    else if h.scheme = ckks && h.scale = 0 then some 16
    else none

/-! ## Chains of a task (R65, R74) -/

/-- K, P and the ciphertext moduli of a chain. -/
def Chain.K (c : Chain) : Nat := c.mods.length
def Chain.cipher (c : Chain) : Nat := c.mods.length - c.special

def Modulus.zero : Modulus := { q := 1, psi := 0, b := 1, mu := 4, step := 0 }

/-- The modulus of a chain index. -/
def Chain.mod (c : Chain) (j : Nat) : Modulus := c.mods.getD j Modulus.zero

/-- A header consistent with its chain (R74). -/
def hdrFits (snap : Tab Chain) (h : Hdr) : Bool :=
  match tfind snap h.chain with
  | none => false
  | some c =>
    h.logN ≤ c.maxLogN && h.level + 1 ≤ c.cipher &&
      h.limbs = h.level + 1 + (if h.ext then c.special else 0) &&
      (!(h.scheme = bgv || h.scheme = bfv) || c.mods.all (fun m => h.ptmod % m.q ≠ 0))

/-- The chain index of limb j (R75). -/
def limbIndex (h : Hdr) (c : Chain) (j : Nat) : Nat := if j ≤ h.level then j else c.cipher + (j - h.level - 1)

/-- The moduli of an object's limbs in limb order. -/
def limbMods (h : Hdr) (c : Chain) : List Modulus := (List.range h.limbs).map fun j => c.mod (limbIndex h c j)

/-- Lines of an object: its header and its limbs (R75). -/
def objLines (h : Hdr) : Nat := 1 + h.comps * h.limbs * limbLines h.logN

/-- The line of limb j of component i, from the object's first line (R75). -/
def limbLine (h : Hdr) (i j : Nat) : Nat :=
  1 + (if h.layout = 0 then i * h.limbs + j else j * h.comps + i) * limbLines h.logN

/-- The scale ceiling S_ℓ (before R80). -/
def scaleCeil (c : Chain) (level : Nat) : Nat := (c.mods.take (level + 1)).foldl (fun a m => a + m.step) 0

/-! ## Limbs of a scratchpad -/

/-- A limb of degree 2^logN at a line. -/
def readLimb (L line logN : Nat) : Act Limb := do return bytesLimb (← spRead L line (limbLines logN))

def writeLimb (L line : Nat) (l : Limb) : Act Unit := spWrite L (72 * line) (limbBytes l)

/-- n limbs laid out consecutively. -/
def readLimbs (L line logN n : Nat) : Act (List Limb) :=
  (List.range n).mapM fun i => readLimb L (line + i * limbLines logN) logN

def writeLimbs (L line logN : Nat) (ls : List Limb) : Act Unit :=
  ls.zipIdx.forM fun z => writeLimb L (line + z.2 * limbLines logN) z.1

/-- A component of an object: its limbs in limb order. -/
abbrev Poly := List Limb

/-- The components of an object. -/
def readComps (L line : Nat) (h : Hdr) : Act (List Poly) :=
  (List.range h.comps).mapM fun i => (List.range h.limbs).mapM fun j => readLimb L (line + limbLine h i j) h.logN

/-- An object written: its limbs, then its header (R76). -/
def writeObj (L line : Nat) (h : Hdr) (cs : List Poly) : Act Unit := do
  cs.zipIdx.forM fun z => z.1.zipIdx.forM fun y => writeLimb L (line + limbLine h z.2 y.2) y.1
  spWrite L (72 * line) (hdrBytes h)

/-- The header at an address of the executing Shell: its line in range, then R78 row 1. `row` is the row that the detail
reports: that of R78, or of the command's own table where that says so. -/
def takeHdr (L tid c a : Nat) (row : Nat := 1) : Act Hdr := do
  inRange L tid c a 1
  let v := leNat (← spRead L (addrLine a) 1)
  match hdrBad v with
  | some b => throw { code := 0x01, detail := detail01 3 row b }
  | none => return hdrOf v

/-- R78 row 2: the operand is in the domain the operation requires. -/
def needDomain (h : Hdr) (ntt : Bool) (row : Nat := 2) : Act Unit := need (h.domain = ntt) 0x01 (detail01 3 row 4)

/-- R78 row 3 (R74). -/
def needFits (t : Task) (h : Hdr) : Act Unit := need (hdrFits t.snap h) 0x22 (detail22 h.chain 3)

/-- The snapshot chain of a header that R74 has passed. -/
def chainOf (t : Task) (h : Hdr) : Chain :=
  (tfind t.snap h.chain).getD { maxLogN := 0, special := 0, tol := 0, mods := [], reg := 0 }

/-! ## Overlap of line ranges (R59, R111, R151) -/

/-- The lowest line two ranges of n and m lines share. -/
def linesMeet (a n b m : Nat) : Option Nat := if a < b + m && b < a + n then some (max a b) else none

/-- A destination range against a source range: exactly coinciding or disjoint. -/
def coincideOrDisjoint (L a n b m : Nat) : Act Unit :=
  if a = b && n = m then pure ()
  else match linesMeet a n b m with
    | some l => throw { code := 0x03, detail := spAddr L l }
    | none => pure ()

/-- Ranges that must be disjoint. -/
def mustBeDisjoint (L a n b m : Nat) : Act Unit :=
  match linesMeet a n b m with
  | some l => throw { code := 0x03, detail := spAddr L l }
  | none => pure ()

/-- n lines of a Shell whose content the manual does not state take free bytes (log 2). -/
def scramble (L line n : Nat) : Act Unit := do
  let (k, s) := (← get).drawFree
  set (spPut L (72 * line) ((List.range (72 * n)).map fun i => Config.freeByte (2 ^ 40 * k + i)) s)

/-- A key stream is open on the Shell (R113 row 0, R136). -/
def streamOpen (s : State) (L : Nat) : Bool := (s.shell L).ks0.isSome || (s.shell L).ks1.isSome

end Sys2Proof.Machine
end

