-- ==== Sys2Proof/Machine/Transform.lean ====
section
/-! DEFINITION. The transform unit: `NTT`, `INTT`, `AUTO` and `BCONV` in object and limb form (03_transforms R84–R117). -/

namespace Sys2Proof.Machine

/-- What the unit does to one limb. -/
inductive Xform where
  | ntt
  | intt
  | auto
  deriving DecidableEq, Repr

/-- One limb transformed: its words are reduced as they are loaded (R86); a non-zero Galois element permutes the output
(R102). `dom` is the domain an `AUTO` works in: true for the NTT domain. -/
def xformLimb (k : Xform) (dom : Bool) (m : Modulus) (maxLogN logN g : Nat) (l : Limb) : Limb :=
  let l := loadLimb m l
  let psi := psiN m maxLogN logN
  match k with
  | .ntt => let y := nttLimb m.q psi l; if g = 0 then y else autoNtt g y
  | .intt => let y := inttLimb m.q psi l; if g = 0 then y else autoCoef m g y
  | .auto => if dom then autoNtt g l else autoCoef m g l

/-- The limb buffer pair and the twiddle generator as a limb or tile leaves them (R88, R90, R107). -/
def unitHolds (L : Nat) (x y : List Nat) (root : Nat) (s : State) : State :=
  s.modShell L fun z => { z with limbBuf := (x, y), root := root }

/-- One limb loaded, worked on and stored (R90, R103); a limb that cannot be read is not stored (R116). -/
def xformStore (L : Nat) (k : Xform) (dom : Bool) (m : Modulus) (maxLogN logN g src dst : Nat) : Act Unit := do
  let l ← readLimb L src logN
  let y := xformLimb k dom m maxLogN logN g l
  upd (unitHolds L (loadLimb m l) y (if k = .auto then 0 else psiN m maxLogN logN))
  writeLimb L dst y

/-- The encoding in limb form and in object form (R308). -/
def encXform (op : Nat) (k : Xform) (limb : Bool) : Enc :=
  { op := op,
    used := uCtl 16 16 ||| uImm 17 0 ||| uAf 0 ||| uAf 1 |||
      (if limb then uCtl 25 17 ||| uOpb 63 0 ||| (if k = .auto then uCtl 26 26 else 0) else 0),
    fields := [0, 1], tensor := false, parts := [17, 21, 26, 27] }

/-- The Galois element of a command is valid: `NTT` and `INTT` also take 0 (R99, R109). -/
def galoisFits (k : Xform) (logN g : Nat) : Bool := galoisOk logN g || (g = 0 && k ≠ .auto)

/-- Rows 0 and the reserved fields, in the order of R113: an open key stream first. -/
def xformHead (L : Nat) (e : Enc) (w : Cmd) : Act Unit := do
  let s ← get
  if streamOpen s L then bad01 0 severalFields
  match cmdBad e w with
  | some b => bad01 1 b
  | none => pure ()

/-- The snapshot chain named by a limb-form command, able to hold the degree (R113 row 2). -/
def limbChain (t : Task) (id logN : Nat) : Act Chain :=
  match tfind t.snap id with
  | none => throw { code := 0x22, detail := detail22 id 2 }
  | some c => if logN ≤ c.maxLogN then pure c else throw { code := 0x22, detail := detail22 id 2 }

/-- Limb form (R109, R113), limb by limb (R114). -/
def xformLimbs (L : Nat) (k : Xform) (tid : Nat) (t : Task) (w : Cmd) : Act Flow := do
  let logN := cf w 25 21
  let g := immF w 17 0
  let mask := w.opb.toNat
  if logN < 12 || 17 < logN then bad01 1 2
  if !galoisFits k logN g then bad01 1 4
  let ch ← limbChain t (cf w 20 17) logN
  if mask / 2 ^ ch.K ≠ 0 then bad01 3 16
  let n := popCount mask 64 * limbLines logN
  let src := afOf w 0
  let dst := afOf w 1
  inRange L tid t.ctx src n
  inRange L tid t.ctx dst n
  coincideOrDisjoint L (addrLine dst) n (addrLine src) n
  let js := setBits mask 64
  units L js.length fun i =>
    let off := i * limbLines logN
    xformStore L k (cf w 26 26 = 0) (ch.mod (js.getD i 0)) ch.maxLogN logN g (addrLine src + off) (addrLine dst + off)

/-- The domain that an operation requires of its source object (R109). -/
def needsDomain (k : Xform) (h : Hdr) : Act Unit :=
  match k with
  | .ntt => needDomain h false
  | .intt => needDomain h true
  | .auto => pure ()

/-- Object form (R109, R113): every limb of every component, one by one (R114, R116); the header is written last with its
new domain (R76). -/
def xformObject (L : Nat) (k : Xform) (tid : Nat) (t : Task) (w : Cmd) : Act Flow := do
  let src := afOf w 0
  let dst := afOf w 1
  let g := immF w 17 0
  let h ← takeHdr L tid t.ctx src 2
  needsDomain k h
  needFits t h
  if !galoisFits k h.logN g then bad01 3 4
  if k = .auto && h.kind = 2 then bad01 3 severalFields
  inRange L tid t.ctx src (objLines h)
  inRange L tid t.ctx dst (objLines h)
  coincideOrDisjoint L (addrLine dst) (objLines h) (addrLine src) (objLines h)
  let ch := chainOf t h
  let h' := match k with
    | .ntt => { h with domain := true }
    | .intt => { h with domain := false }
    | .auto => h
  unitsThen L (h.comps * h.limbs)
    (fun i =>
      let at_ := limbLine h (i / h.limbs) (i % h.limbs)
      xformStore L k h.domain (ch.mod (limbIndex h ch (i % h.limbs))) ch.maxLogN h.logN g (addrLine src + at_)
        (addrLine dst + at_))
    (spWrite L (72 * addrLine dst) (hdrBytes h'))

/-- A transform-unit command on a Shell; a zero mask in limb form is a no-op before every check (R112). -/
def xform (sh op : Nat) (k : Xform) (w : Cmd) : Native :=
  let limb : Bool := cf w 16 16 = 1
  native (encXform op k limb) (limb && w.opb = 0) (head := xformHead sh (encXform op k limb)) fun tid t w =>
    if limb then xformLimbs sh k tid t w else xformObject sh k tid t w

/-- `NTT` (R84). -/
def natNtt (sh : Fin 64) (w : Cmd) : Native := xform sh 0x20 .ntt w

/-- `NTT`. -/
def execNtt (sh : Fin 64) (w : Cmd) (s : State) : Out := .next (issue sh (natNtt sh w) w s)

/-- `INTT` (R85). -/
def natIntt (sh : Fin 64) (w : Cmd) : Native := xform sh 0x21 .intt w

/-- `INTT`. -/
def execIntt (sh : Fin 64) (w : Cmd) (s : State) : Out := .next (issue sh (natIntt sh w) w s)

/-- `AUTO` (R100, R101). -/
def natAuto (sh : Fin 64) (w : Cmd) : Native := xform sh 0x22 .auto w

/-- `AUTO`. -/
def execAuto (sh : Fin 64) (w : Cmd) (s : State) : Out := .next (issue sh (natAuto sh w) w s)

def encBconv : Enc :=
  { op := 0x23, used := uCtl 25 16 ||| uAf 0 ||| uAf 1 ||| uOpb 63 0 ||| uOpc 63 0, fields := [0, 1], tensor := false }

/-- The basis constants q̂_j^(−1) mod q_j and q̂_j mod p_t of a combination (R106). -/
def basisConsts (src tgt : List Modulus) : List Nat :=
  let Q := prodQ src
  src.map (fun m => invMod (Q / m.q) m.q) ++ tgt.flatMap fun p => src.map fun m => Q / m.q % p.q

/-- The constant cache holds the last four combinations (R106). -/
def noteConsts (L : Nat) (k : Nat × Nat × Nat) (vs : List Nat) (s : State) : State :=
  s.modShell L fun x => { x with consts := ((k, vs) :: x.consts.filter (fun y => y.1 ≠ k)).take 4 }

/-- Coefficients of a tile, and its lines of a limb (R107). -/
def tileSize : Nat := 2048
def tileLines : Nat := tileSize / 16

/-- One tile: each source line is read once and each destination line written once (R107). -/
def bconvTile (L logN x y : Nat) (src tgt : List Modulus) (i : Nat) : Act Unit := do
  let place := fun (a n : Nat) => a + n * limbLines logN + i * tileLines
  let xs ← src.zipIdx.mapM fun z => do pure (loadLimb z.1 (bytesLimb (← spRead L (place x z.2) tileLines)))
  let ys := bconv src tgt xs
  upd (unitHolds L xs.flatten ys.flatten 0)
  ys.zipIdx.forM fun z => writeLimb L (place y z.2) z.1

/-- `BCONV`: the limbs of the source basis converted to the target basis, tile by tile (R104, R105, R107, R113). -/
def natBconv (sh : Fin 64) (w : Cmd) : Native :=
  native encBconv (w.opb = 0 || w.opc = 0) (head := xformHead sh encBconv) fun tid t w => do
    let logN := cf w 25 21
    let S := w.opb.toNat
    let T := w.opc.toNat
    if cf w 16 16 = 0 then bad01 1 2
    if logN < 12 || 17 < logN then bad01 1 2
    let ch ← limbChain t (cf w 20 17) logN
    if S / 2 ^ ch.K ≠ 0 then bad01 3 16
    if T / 2 ^ ch.K ≠ 0 then bad01 3 24
    if S &&& T ≠ 0 then bad01 3 severalFields
    let n := popCount S 64 * limbLines logN
    let m := popCount T 64 * limbLines logN
    inRange sh tid t.ctx (afOf w 0) n
    inRange sh tid t.ctx (afOf w 1) m
    mustBeDisjoint sh (addrLine (afOf w 1)) m (addrLine (afOf w 0)) n
    let src := (setBits S 64).map ch.mod
    let tgt := (setBits T 64).map ch.mod
    upd (noteConsts sh (cf w 20 17, S, T) (basisConsts src tgt))
    units sh (2 ^ logN / tileSize) (bconvTile sh logN (addrLine (afOf w 0)) (addrLine (afOf w 1)) src tgt)

/-- `BCONV`. -/
def execBconv (sh : Fin 64) (w : Cmd) (s : State) : Out := .next (issue sh (natBconv sh w) w s)

end Sys2Proof.Machine
end

