-- ==== Sys2Proof/Machine/Encoder.lean ====
section
/-! DEFINITION. The encoder (08_vector_engine_and_clear_training R264–R270): its front ends in fixed point and modulo t, and `ENCODE`. -/

namespace Sys2Proof.Machine

/-! ## Exact rounding -/

/-- num / den to the nearest integer, ties away from zero. -/
def roundDiv (num : Int) (den : Nat) : Int :=
  let q : Int := ((2 * num.natAbs + den) / (2 * den) : Nat)
  if num < 0 then -q else q

/-- num × 2^sh / den to the nearest integer, ties away from zero. -/
def roundScaled (num : Int) (sh : Int) (den : Nat) : Int :=
  if 0 ≤ sh then roundDiv (num * (2 ^ sh.toNat : Nat)) den else roundDiv num (den * 2 ^ (-sh).toNat)

/-! ## Twiddles (R266) -/

/-- Fraction bits of the working precision; every ω(e) that is not a multiple of 1/4 turn is irrational, so a working
error below 2^-300 decides its rounding to 2^-62. -/
def workBits : Nat := 320

/-- arctan(1/k) in working precision by n terms. -/
def atanInv (k : Nat) : Nat → Int
  | 0 => 0
  | n + 1 =>
    let t : Int := (2 ^ workBits / ((2 * n + 1) * k ^ (2 * n + 1)) : Nat)
    atanInv k n + (if n % 2 = 0 then t else -t)

/-- π in working precision (Machin's formula). -/
def piFixed : Int := 16 * atanInv 5 80 - 4 * atanInv 239 80

/-- A working-precision product. -/
def fixMul (a b : Int) : Int := a * b / (2 ^ workBits : Nat)

/-- The sum of n terms of the exponential series of ix from term k on: real and imaginary part; the term carries its
part. -/
def expSeries (x : Int) : Nat → Nat → Int × Int → Int × Int → Int × Int
  | 0, _, _, acc => acc
  | n + 1, k, t, acc =>
    let t' := (-(fixMul t.2 x) / ((k : Int) + 1), fixMul t.1 x / ((k : Int) + 1))
    expSeries x n (k + 1) t' (acc.1 + t.1, acc.2 + t.2)

/-- ω(e) = exp(2πi·e / 2N), each part a multiple of 2^-62, to nearest (R266). -/
def omega (n2 e : Nat) : Int × Int :=
  let one : Int := (2 ^ workBits : Nat)
  let x := 2 * piFixed * (e % n2 : Nat) / (n2 : Int)
  let z := expSeries x 120 0 (one, 0) (0, 0)
  (roundDiv z.1 (2 ^ (workBits - 62)), roundDiv z.2 (2 ^ (workBits - 62)))

/-! ## The encoding scale (R267) -/

/-- The greatest n below 2^bits with a property that holds of an initial stretch. -/
def bisect (p : Nat → Bool) : Nat → Nat → Nat
  | 0, lo => lo
  | b + 1, lo => if p (lo + 2 ^ b) then bisect p b (lo + 2 ^ b) else bisect p b lo

/-- Δ_fx = round(2^(62 + φ/65,536)): the greatest n with n − 1/2 ≤ 2^(62 + φ/65,536). -/
def deltaFx (phi : Nat) : Nat := bisect (fun n => (2 * n - 1) ^ 65536 ≤ 2 ^ (63 * 65536 + phi)) 64 0

/-! ## The CKKS front end (R266) -/

/-- A complex value with 40 fraction bits. -/
abbrev Fix := Int × Int

/-- A part in fixed point: x·2^k to 40 fraction bits, saturated at 2^55 (R266 step 1). -/
def fixPart (x k : Int) : Int :=
  let v := roundScaled x (k + 40) 1
  if (2 ^ 95 : Nat) ≤ v then (2 ^ 95 - 1 : Nat)
  else if v ≤ -(2 ^ 95 : Nat) then -(2 ^ 95 - 1 : Nat)
  else v

/-- The product with a twiddle, each part rounded once. -/
def fixTwiddle (a w : Fix) : Fix :=
  (roundDiv (a.1 * w.1 - a.2 * w.2) (2 ^ 62), roundDiv (a.1 * w.2 + a.2 * w.1) (2 ^ 62))

/-- One block of a stage: sums, then differences times their twiddles. -/
def dftBlock (n2 len : Nat) (v : List Fix) : List Fix :=
  let a := v.take (len / 2)
  let b := v.drop (len / 2)
  let sums := (a.zip b).map fun z => (z.1.1 + z.2.1, z.1.2 + z.2.2)
  let difs := (a.zip b).zipIdx.map fun z =>
    let e := (4 * len - powMod 5 z.2 (4 * len)) * (n2 / (4 * len))
    fixTwiddle (z.1.1.1 - z.1.2.1, z.1.1.2 - z.1.2.2) (omega n2 e)
  sums ++ difs

/-- n blocks of a stage. -/
def dftBlocks (n2 len : Nat) : Nat → List Fix → List Fix
  | 0, _ => []
  | n + 1, v => dftBlock n2 len (v.take len) ++ dftBlocks n2 len n (v.drop len)

/-- The stages from len = 2^k down to 2. -/
def dftStages (n2 : Nat) : Nat → List Fix → List Fix
  | 0, v => v
  | k + 1, v => dftStages n2 k (dftBlocks n2 (2 ^ (k + 1)) (v.length / 2 ^ (k + 1)) v)

/-- The low b bits of a number reversed. -/
def bitRev : Nat → Nat → Nat
  | 0, _ => 0
  | b + 1, i => (i % 2) * 2 ^ b + bitRev b (i / 2)

/-- The transform of R266 on 2^logS values at degree N = n2 / 2. -/
def slotTransform (n2 logS : Nat) (v : List Fix) : List Fix :=
  let w := (dftStages n2 logS v).toArray
  (List.range v.length).map fun k =>
    let z := w.getD (bitRev logS k) (0, 0)
    (roundDiv z.1 v.length, roundDiv z.2 v.length)

/-- The integer coefficients of slot values: round(v × Δ / dv) (R266, R267; `dv` is 1 but for R174). -/
def slotCoeffs (logN logS escale dv : Nat) (v : List Fix) : List Int :=
  let n := 2 ^ logN
  let s := 2 ^ logS
  let gap := n / (2 * s)
  let w := (slotTransform (2 * n) logS v).toArray
  let d : Int := deltaFx (escale % 65536)
  let sh : Int := (escale / 65536 : Nat) - 62 - 40
  (List.range n).map fun i =>
    let j := if i < n / 2 then i else i - n / 2
    if j % gap = 0 then
      let z := w.getD (j / gap) (0, 0)
      roundScaled ((if i < n / 2 then z.1 else z.2) * d) sh dv
    else 0

/-- A coefficient of the coefficient mode: round(x·2^k × Δ). -/
def coefValue (escale : Nat) (x k : Int) : Int :=
  roundScaled (x * deltaFx (escale % 65536)) (k + (escale / 65536 : Nat) - 62) 1

/-! ## The front end modulo t (R268) -/

/-- The coefficients modulo t of the polynomial with the slot values of R268. -/
def slotsMod (t psi : Nat) (vs : List Nat) : List Nat :=
  let n := vs.length
  let a := vs.toArray
  let at_ := (List.range (n / 2)).foldl (fun (m : Array Nat) j =>
    let e := powMod 5 j (2 * n)
    let m := m.set! ((e - 1) / 2) (a.getD j 0)
    m.set! ((2 * n - e - 1) / 2) (a.getD (n / 2 + j) 0)) (List.replicate n 0).toArray
  inttLimb t psi at_.toList

/-- A coefficient in [0, t) lifted about zero. -/
def liftMod (t c : Nat) : Int := if c ≤ t / 2 then c else (c : Int) - t

/-! ## The descriptor and its checks (R264, R265, R270) -/

/-- An encoder descriptor (R264). -/
structure EncDesc where
  scheme : Nat
  logN : Nat
  logSlots : Nat
  cmode : Bool
  cplx : Bool
  bfvDelta : Bool
  lform : Bool
  chain : Nat
  level : Nat
  etype : Nat
  xexp : Int
  reLine : Nat
  imLine : Nat
  escale : Nat
  ptmod : Nat
  psi : Nat
  mask : Nat
  deriving DecidableEq, Repr

def encDescOf (v : Nat) : EncDesc :=
  { scheme := bits v 7 0, logN := bits v 12 8, logSlots := bits v 17 13, cmode := v.testBit 18, cplx := v.testBit 19,
    bfvDelta := v.testBit 20, lform := v.testBit 21, chain := bits v 25 22, level := bits v 31 26,
    etype := bits v 35 32, xexp := signed 8 (bits v 43 36), reLine := bits v 87 64, imLine := bits v 111 88,
    escale := bits v 159 128, ptmod := bits v 195 160, psi := bits v 231 196, mask := bits v 319 256 }

def encDescUsed : Nat :=
  ones 43 0 ||| ones 111 64 ||| ones 231 128 ||| ones 319 256

/-- CKKS slot mode, and the slot mode of BGV and BFV. -/
def EncDesc.ckksSlots (d : EncDesc) : Bool := d.scheme = ckks && !d.cmode
def EncDesc.modSlots (d : EncDesc) : Bool := d.scheme ≠ ckks && !d.cmode

/-- Check 1 of R270: the byte offset of the failing field. -/
def encDescBad (v : Nat) : Option Nat :=
  let d := encDescOf v
  match reservedAt v encDescUsed 576 [44, 112, 232, 320, 512] with
  | some b => some b
  | none =>
    if d.scheme = 0 || 3 < d.scheme then some 0
    else if d.logN < 12 || 17 < d.logN then some 1
    else if !d.ckksSlots && d.logSlots ≠ 0 then some 1
    else if !d.ckksSlots && d.cplx then some 2
    else if !d.cplx && d.imLine ≠ 0 then some 11
    else if d.scheme ≠ bfv && d.bfvDelta then some 2
    else if d.scheme ≠ ckks && d.escale ≠ 0 then some 16
    else if d.scheme = ckks && d.ptmod ≠ 0 then some 20
    else if !d.modSlots && d.psi ≠ 0 then some 24
    else if !d.lform && d.mask ≠ 0 then some 32
    else if d.ckksSlots && (d.logSlots = 0 || d.logN ≤ d.logSlots) then some severalFields
    else if d.etype ≠ 7 && d.etype ≠ 5 && d.etype ≠ 2 then some 4
    else if d.scheme = ckks && d.escale = 0 then some 16
    else if d.scheme ≠ ckks && d.ptmod < 2 then some 20
    else if d.modSlots && (!isPrime d.ptmod || d.ptmod % (2 * 2 ^ d.logN) ≠ 1 ||
        powMod d.psi (2 ^ d.logN) d.ptmod ≠ d.ptmod - 1) then some severalFields
    else none

/-- Elements of the source vector (R265). -/
def EncDesc.count (d : EncDesc) : Nat := if d.ckksSlots then 2 ^ d.logSlots else 2 ^ d.logN

/-- Lines of a source vector. -/
def vecLines (etype n : Nat) : Nat := if etype = 2 then ceilDiv n 36 else ceilDiv n (interleaved etype)

/-- A source vector as a tensor (R265). -/
def vecDesc (etype a n : Nat) : TDesc :=
  { directDesc 0 n with etype := etype, base := a, slot := 0, s0 := 1, smode := if etype = 2 then 0 else 2 }

/-- The values of a vector: x and the exponent of its block (R265). -/
def readVector (L etype a n : Nat) (xexp : Int) : Act (List (Int × Int)) := do
  let d := vecDesc etype a n
  let xs ← readTensor L 0 d [] 0
  let us ← if etype = 2 then pure (xs.map fun _ => 127) else readScales L 0 d [] 0
  return (xs.zip us).map fun z => (signed (elemWidth etype) z.1, (z.2 : Int) - 127 + xexp)

/-- The integer coefficients of the plaintext (R266–R268); Q is the product of q_0 to q_ℓ. -/
def encodeCoeffs (d : EncDesc) (Q : Nat) (re im : List (Int × Int)) : List Int :=
  if d.scheme = ckks then
    if d.cmode then re.map fun z => coefValue d.escale z.1 z.2
    else
      let ims := im.toArray
      slotCoeffs d.logN d.logSlots d.escale 1 (re.zipIdx.map fun z =>
        let y := ims.getD z.2 (0, 0)
        (fixPart z.1.1 z.1.2, fixPart y.1 y.2))
  else
    let t := d.ptmod
    let vs := re.map fun z => ((z.1 * (2 ^ (max 0 z.2).toNat : Nat)) % (t : Int)).toNat
    let cs := if d.cmode then vs else slotsMod t d.psi vs
    cs.map fun c => liftMod t c * (if d.bfvDelta then ((Q / t : Nat) : Int) else 1)

/-- The back end: coefficients modulo one modulus, in the NTT domain (R269). -/
def encodeLimb (m : Modulus) (maxLogN logN : Nat) (cs : List Int) : Limb :=
  nttLimb m.q (psiN m maxLogN logN) (cs.map fun c => (c % (m.q : Int)).toNat)

/-- The header that object form writes (R269). -/
def encHdr (d : EncDesc) : Hdr :=
  { scheme := d.scheme, logN := d.logN, level := d.level, limbs := d.level + 1, ext := false, chain := d.chain,
    comps := 1, domain := true, layout := 0, kind := 1, keyset := 0, scale := d.escale, ptmod := d.ptmod }

def encEncode : Enc := { op := 0x70, used := uAf 0 ||| uAf 3, fields := [0, 3], tensor := false }

/-- A zero mask in limb form makes the command a no-op (R265, R306). -/
def encQuiet (L tid c a : Nat) (s : State) : Bool :=
  let line : Act Nat := do
    inRange L tid c a 1
    return leNat (← spRead L (addrLine a) 1)
  match (line.go s).1 with
  | .ok v => (encDescOf v).lform && (encDescOf v).mask = 0
  | .error _ => false

/-- `ENCODE` (R264–R270), limb by limb (R274). -/
def natEncode (sh : Fin 64) (_ : Cmd) : Native :=
  native encEncode false (quiet := fun tid t w s => encQuiet sh tid t.ctx (afOf w 0) s) fun tid t w => do
    let L := sh.val
    let a := afOf w 0
    let dst := afOf w 3
    inRange L tid t.ctx a 1
    let v := leNat (← spRead L (addrLine a) 1)
    let d := encDescOf v
    match encDescBad v with
    | some b => throw { code := 0x01, detail := detail01 10 1 b }
    | none => pure ()
    need (hdrFits t.snap (encHdr d)) 0x22 (detail22 d.chain 2)
    let ch := chainOf t (encHdr d)
    need (!d.lform || d.mask / 2 ^ ch.K = 0) 0x22 (detail22 d.chain 2)
    let n := vecLines d.etype d.count
    let idx := if d.lform then setBits d.mask 64 else List.range (d.level + 1)
    let out := idx.length * limbLines d.logN + (if d.lform then 0 else 1)
    inRange L tid t.ctx d.reLine n
    if d.cplx then inRange L tid t.ctx d.imLine n
    inRange L tid t.ctx dst out
    mustBeDisjoint L (addrLine dst) out (addrLine d.reLine) n
    if d.cplx then mustBeDisjoint L (addrLine dst) out (addrLine d.imLine) n
    let re ← readVector L d.etype d.reLine d.count d.xexp
    let im ← if d.cplx then readVector L d.etype d.imLine d.count d.xexp else pure []
    let Q := prodQ (ch.mods.take (d.level + 1))
    let cs := encodeCoeffs d Q re im
    let at_ := addrLine dst + (if d.lform then 0 else 1)
    unitsThen L idx.length
      (fun i => writeLimb L (at_ + i * limbLines d.logN) (encodeLimb (ch.mod (idx.getD i 0)) ch.maxLogN d.logN cs))
      (if d.lform then pure () else spWrite L (72 * addrLine dst) (hdrBytes (encHdr d)))

/-- `ENCODE`. -/
def execEncode (sh : Fin 64) (w : Cmd) (s : State) : Out := .next (issue sh (natEncode sh w) w s)

end Sys2Proof.Machine
end

