-- ==== Sys2Proof/Machine/Sync.lean ====
section
/-! DEFINITION. Synchronisation (11_streaming_and_synchronisation R371–R395): sync counters, catch lines, vigils, releases
and acquires, the stall report and the debugger's hand-set actions. -/

namespace Sys2Proof.Machine

/-! ## Sync counters (R373–R377) -/

def Counter.reset : Counter := { v := 0, holder := none }

def counterOf (s : State) (c k : Nat) : Counter := tget Counter.reset (s.ctx c).cnt k

def setCounter (c k : Nat) (x : Counter) (s : State) : State := s.modCtx c fun y => { y with cnt := tset y.cnt k x }

/-- Whether a task has not reached `DONE`. -/
def alive (s : State) (tid : Nat) : Bool :=
  match tfind s.tasks tid with
  | none => false
  | some t => t.st ≠ .done

/-- A command of another task that names a counter held by a live task is 0x11 (R376). -/
def counterFree (s : State) (tid c k : Nat) : Bool :=
  match (counterOf s c k).holder with
  | none => true
  | some h => h = tid || !alive s h

/-- The task holds the counter from here on (R376). -/
def claimCounter (tid c k : Nat) : Act Unit := do
  let s ← get
  if !counterFree s tid c k then throw { code := 0x11, detail := k }
  set (setCounter c k { counterOf s c k with holder := some tid } s)

/-- `SWAIT`'s condition: (counter − threshold) mod 2^32 < 2^31 (R374). -/
def atLeast (v thr : BitVec 32) : Bool := (v - thr).toNat < 2 ^ 31

/-- An update of a counter (R374). -/
def applyUpdate (u : Update) (s : State) : State :=
  let x := counterOf s u.ctx u.cnt
  setCounter u.ctx u.cnt { x with v := if u.set then u.v else x.v + u.v } s

/-- The order of the updates that reach a unit together: Shells ascending, the debugger, copy signals, vigils ascending
(R375, R393). -/
def srcRank : UpdSrc → Nat
  | .shell n => n
  | .debug => 64
  | .copy _ => 65
  | .landing => 65
  | .vigil n => 66 + n

/-- An update inserted by rank, after those of equal rank. -/
def insertUpdate (u : Update) : List Update → List Update
  | [] => [u]
  | x :: r => if srcRank x.src ≤ srcRank u.src then x :: insertUpdate u r else u :: x :: r

/-! ## Acquires -/

/-- A blocked Shell resumes issue behind its acquire (R372); its task is no longer stalled (R392). -/
def resumeShell (L : Nat) (s : State) : State :=
  let x := s.shell L
  match x.holder with
  | none => s
  | some tid =>
    match tfind s.tasks tid with
    | none => s
    | some t =>
      let arg := match x.stroke.wait with
        | .counter k thr _ => k + 2 ^ 32 * thr.toNat
        | .line k _ => k + 256 + 2 ^ 32 * (tget CatchLine.reset t.lines k).g.toNat
        | _ => 0
      let op := match x.stroke.wait with
        | .line _ _ => 0x80
        | _ => 0x82
      finished L t op x.stroke.idx <| traceTask L t 0x08 op 0 x.stroke.idx arg
        ((goTo L (x.stroke.idx + 1) (modStroke L (fun x => { x with wait := .none }) s)).modTask tid
          fun t => { t with stalled := false })

/-- Whether the acquire a Shell is blocked in is satisfied (R374, R380). -/
def waitHolds (s : State) (L : Nat) (tid : Nat) (t : Task) : Bool :=
  match (s.shell L).stroke.wait with
  | .none => false
  | .stream _ => false
  | .group => false
  | .counter k thr _ => (s.shell L).holder = some tid && atLeast (counterOf s t.ctx k).v thr
  | .line k _ =>
    let l := tget CatchLine.reset t.lines k
    (s.shell L).holder = some tid && tget 0 l.last L ≤ l.g.toNat

/-- Every satisfied acquire of a task resumes. -/
def resumeTask (tid : Nat) (s : State) : State :=
  match tfind s.tasks tid with
  | none => s
  | some t =>
    if t.st = .running || t.st = .yielding then
      (setBits t.shells.toNat 64).foldl (fun s L => if waitHolds s L tid t then resumeShell L s else s) s
    else s

/-! ## Vigils (R382–R389) -/

/-- A vigil's condition on the present value of its watched object (R382). -/
def vigilHolds (s : State) (v : Vigil) : Bool :=
  match v.cond with
  | 0 => atLeast (counterOf s v.ctx v.wcnt).v v.thr
  | 1 => (counterOf s v.ctx v.wcnt).v = v.thr
  | _ => match tfind s.tasks v.task with
    | none => false
    | some t => v.thr.toNat ≤ (tget CatchLine.reset t.lines v.wline).g.toNat

/-- A vigil evaluated: its action falls due when its condition holds (R384); a disarmed or spent one records nothing
(R389). -/
def evalVigil (s : State) (v : Vigil) : Vigil :=
  if v.armed && !v.spent && !v.due && vigilHolds s v then { v with due := true } else v

/-- The vigils that a test picks, evaluated. -/
def evalVigils (p : Vigil → Bool) (s : State) : State :=
  { s with vigils := tmap (fun _ v => if p v then evalVigil s v else v) s.vigils }

/-- The vigils of a counter that has changed are evaluated (R384). -/
def counterSeen (c k : Nat) (s : State) : State := evalVigils (fun v => v.ctx = c && v.cond ≤ 1 && v.wcnt = k) s

/-- The waits on a context's counters that have changed (R375). -/
def counterWaits (c : Nat) (s : State) : State :=
  s.tasks.foldl (fun s e => if e.2.ctx = c then resumeTask e.1 s else s) s

/-- A counter has changed: its vigils and its waits are evaluated (R375, R384). -/
def counterChanged (c k : Nat) (s : State) : State := counterWaits c (counterSeen c k s)

/-! ## Catch lines (R378–R381) -/

/-- A member of a task's lines: in service, and its stream has not ended (R378). -/
def isMember (s : State) (t : Task) (L : Nat) : Bool :=
  t.shells.getLsbD L && !(s.shell L).vacant && !t.ended.getLsbD L

/-- A line's generation completes: g rises and every flag is cleared (R379). -/
def completeLine (tid k : Nat) (s : State) : State :=
  let s := s.modTask tid fun t =>
    let l := tget CatchLine.reset t.lines k
    { t with lines := tset t.lines k { l with g := l.g + 1, flags := 0 } }
  resumeTask tid (evalVigils (fun v => v.task = tid && v.cond = 2 && v.wline = k) s)

/-- The generation completes when every member's flag is set (R379). -/
def evalLine (tid k : Nat) (s : State) : State :=
  match tfind s.tasks tid with
  | none => s
  | some t =>
    let l := tget CatchLine.reset t.lines k
    let ms := (List.range 64).filter (isMember s t)
    if l.flags ≠ 0 && ms.all (fun L => l.flags.getLsbD L) then completeLine tid k s else s

/-- Every line of a task, after one of its members has gone. -/
def evalLines (tid : Nat) (s : State) : State := (List.range 16).foldl (fun s k => evalLine tid k s) s

/-- The arrival flag of a member sets (R379). -/
def arrive (tid L k : Nat) (s : State) : State :=
  evalLine tid k (s.modTask tid fun t =>
    let l := tget CatchLine.reset t.lines k
    { t with lines := tset t.lines k { l with flags := l.flags ||| (1#64 <<< L), last := tset l.last L (l.g.toNat + 1) } })

/-! ## Native commands -/

def encScnt : Enc := { op := 0x81, used := uCtl 24 16 ||| uImm 31 0, fields := [], tensor := false }
def encSwait : Enc := { op := 0x82, used := uCtl 23 16 ||| uImm 31 0, fields := [], tensor := false }
def encCatch : Enc := { op := 0x80, used := uCtl 21 16, fields := [], tensor := false }
def encVigil : Enc :=
  { op := 0x83, used := uCtl 27 16 ||| uOpa 63 0 ||| uOpb 63 0 ||| uOpc 63 0, fields := [], tensor := false }
def encVigilDrop : Enc := { op := 0x84, used := uCtl 25 16, fields := [], tensor := false }

/-- A release is issued and takes effect later (R371). -/
def pushRelease (L : Nat) (r : Release) (s : State) : State :=
  let (n, s) := s.fresh
  modStroke L (fun x => { x with rel := x.rel ++ [(n, r)] }) s

/-- `SCNT`: adds to a counter or sets it, as a release (R371, R374, R376). -/
def natScnt (sh : Fin 64) (_ : Cmd) : Native :=
  native encScnt false fun tid t w => plain do
    claimCounter tid t.ctx (cf w 23 16)
    upd (pushRelease sh (.count (cf w 23 16) (cf w 24 24 = 1) w.imm))

/-- `SCNT`. -/
def execScnt (sh : Fin 64) (w : Cmd) (s : State) : Out := .next (issue sh (natScnt sh w) w s)

/-- The Shell blocks in an acquire (R372). -/
def block (L : Nat) (x : Wait) (s : State) : State :=
  modStroke L (fun y => { y with wait := x }) s

/-- `SWAIT`: satisfied when the counter has reached the threshold; until then no later command issues (R372, R374). -/
def natSwait (sh : Fin 64) (_ : Cmd) : Native :=
  native encSwait false fun tid t w => do
    let k := cf w 23 16
    claimCounter tid t.ctx k
    let s ← get
    if atLeast (counterOf s t.ctx k).v w.imm then return .done
    set (traceTask sh t 0x07 0x82 0 (s.shell sh).stroke.idx (k + 2 ^ 32 * w.imm.toNat)
      (block sh (.counter k w.imm s.clk.now) s))
    return .wait

/-- `SWAIT`. -/
def execSwait (sh : Fin 64) (w : Cmd) (s : State) : Out := .next (issue sh (natSwait sh w) w s)

/-- A further arrive of a Shell on a line is not issued while an earlier one has not taken effect or its generation has
not completed (R379). -/
def arriveHeld (s : State) (L : Nat) (t : Task) (k : Nat) : Bool :=
  let l := tget CatchLine.reset t.lines k
  (s.shell L).stroke.rel.any (fun r => r.2 = .arrive k) || l.g.toNat < tget 0 l.last L

/-- `CATCH`: arrive, wait, or both (R379–R381). One that has arrived and is issued again after a yield only waits (R312): its
point is 1. -/
def natCatch (sh : Fin 64) (_ : Cmd) : Native :=
  native encCatch false fun tid t w => do
    let k := cf w 19 16
    let m := cf w 21 20
    if m = 0 then bad01 1 2
    if t.bootRun && (k = 14 || k = 15) then bad01 1 2
    let s ← get
    if m % 2 = 1 && (s.shell sh).stroke.point = 0 then
      if arriveHeld s sh t k then return .hold
      set ((pushRelease sh (.arrive k) s).modTask tid fun t =>
        let l := tget CatchLine.reset t.lines k
        { t with lines := tset t.lines k { l with last := tset l.last sh.val (l.g.toNat + 1) } })
    if m < 2 then return .done
    let s ← get
    let l := match tfind s.tasks tid with
      | some t => tget CatchLine.reset t.lines k
      | none => CatchLine.reset
    if tget 0 l.last sh.val ≤ l.g.toNat then return .done
    set (traceTask sh t 0x07 0x80 0 (s.shell sh).stroke.idx (k + 256 + 2 ^ 32 * l.g.toNat)
      (modStroke sh (fun x => { x with wait := .line k s.clk.now, point := 1 }) s))
    return .wait

/-- `CATCH`. -/
def execCatch (sh : Fin 64) (w : Cmd) (s : State) : Out := .next (issue sh (natCatch sh w) w s)

/-- A vigil's fields out of the command (R382). -/
def vigilOf (tid : Nat) (t : Task) (w : Cmd) : Vigil :=
  { task := tid, ctx := t.ctx, wcnt := opaF w 7 0, wline := opaF w 11 8, cond := opaF w 13 12, act := opaF w 15 14,
    tcnt := opaF w 23 16, step := opaF w 31 24, thr := BitVec.ofNat 32 (opaF w 63 32), maddr := w.opb.toNat,
    space := cf w 27 26, addv := BitVec.ofNat 32 (opcF w 31 0), mtag := BitVec.ofNat 32 (opcF w 63 32),
    armed := true, due := false, spent := false }

/-- The byte offset of a field of `VIGIL` that is reserved, or unused and not zero (R382, R290). -/
def vigilBad (v : Vigil) : Option Nat :=
  let writes := v.act = 2 || v.act = 3
  let adds := v.act = 1 || v.act = 3
  if v.cond = 3 then some 9
  else if v.act = 0 then some 9
  else if writes && v.space ≠ 1 && v.space ≠ 2 then some 3
  else if !writes && v.space ≠ 0 then some 3
  else if v.cond = 2 && v.wcnt ≠ 0 then some 8
  else if v.cond ≠ 2 && v.wline ≠ 0 then some 9
  else if !adds && v.tcnt ≠ 0 then some 10
  else if !writes && v.maddr ≠ 0 then some 16
  else if writes && v.maddr % 8 ≠ 0 then some 16
  else if !adds && v.addv ≠ 0 then some 24
  else if !writes && v.mtag ≠ 0 then some 28
  else none

/-- The key of a vigil of a die. -/
def vigilKey (die n : Nat) : Nat := 1024 * die + n

/-- `VIGIL`: registers a vigil of the Shell's die after the checks of R383, and evaluates it at once. -/
def natVigil (sh : Fin 64) (_ : Cmd) : Native :=
  native encVigil false fun tid t w => plain do
    let k := vigilKey (dieOf sh) (cf w 25 16)
    let v := vigilOf tid t w
    match vigilBad v with
    | some b => bad01 1 b
    | none => pure ()
    let s ← get
    if (tfind s.vigils k).isSome then bad01 1 2
    if v.cond ≠ 2 && !counterFree s tid t.ctx v.wcnt then throw { code := 0x11, detail := v.wcnt }
    if v.act ≠ 2 && !counterFree s tid t.ctx v.tcnt then throw { code := 0x11, detail := v.tcnt }
    if v.act ≠ 1 then writable (.shell sh) t.ctx v.space v.maddr 8
    if v.cond ≠ 2 then claimCounter tid t.ctx v.wcnt
    if v.act ≠ 2 then claimCounter tid t.ctx v.tcnt
    let s ← get
    set { s with vigils := tset s.vigils k (evalVigil s v) }

/-- `VIGIL`. -/
def execVigil (sh : Fin 64) (w : Cmd) (s : State) : Out := .next (issue sh (natVigil sh w) w s)

/-- `VIGIL_DROP`: unregisters a vigil of its own task; any other is a no-op (R385). -/
def natVigilDrop (sh : Fin 64) (_ : Cmd) : Native :=
  native encVigilDrop false fun tid _ w => plain do
    let k := vigilKey (dieOf sh) (cf w 25 16)
    let s ← get
    match tfind s.vigils k with
    | none => pure ()
    | some v => if v.task = tid then set { s with vigils := tdel s.vigils k }

/-- `VIGIL_DROP`. -/
def execVigilDrop (sh : Fin 64) (w : Cmd) (s : State) : Out := .next (issue sh (natVigilDrop sh w) w s)

/-! ## Events of the units -/

/-- A `KEY_PIN` of the Shell is in flight (R141), among those issued before a stamp where there is one. -/
def pinOpen (s : State) (L : Nat) (before : Option Nat := none) : Bool :=
  s.streams.any fun e => e.2.pin && e.2.started && e.2.members.any fun m =>
    m.sh = L && !m.closed && before.all fun n => m.order < n

/-- The copies of a Shell have been counted by their sync counters (R296). -/
def copiesCounted (s : State) (L : Nat) : Bool := s.inbox.all fun u => u.src ≠ .copy L

/-- The oldest release of a Shell takes effect, once every earlier command has completed (R371): a counter's update is on its
way to its unit, or a line's arrival flag sets. -/
def execReleaseTakesEffect (sh : Fin 64) (s : State) : Out :=
  let x := s.shell sh
  match x.stroke.rel, x.holder with
  | (n, r) :: rest, some tid =>
    if pinOpen s sh (some n) then .next s
    else
    let s := modStroke sh (fun x => { x with rel := rest }) s
    match tfind s.tasks tid with
    | none => .next s
    | some t =>
      match r with
      | .count k set_ v =>
        .next { s with inbox := s.inbox ++ [{ ctx := t.ctx, cnt := k, src := .shell sh.val, set := set_, v := v }] }
      | .arrive k => .next (arrive tid sh k s)
  | _, _ => .next s

/-- The updates that have reached a counter's unit are applied one at a time in the order of R375; vigils are evaluated after
each (R384), waits after the last (R375). -/
def execSyncCounterUpdate (ctx : Fin 256) (cnt : Fin 256) (s : State) : Out :=
  let mine := fun (u : Update) => u.ctx = ctx.val && u.cnt = cnt.val
  let us := (s.inbox.filter mine).foldl (fun a u => insertUpdate u a) []
  if us.isEmpty then .next s
  else
    let s := { s with inbox := s.inbox.filter fun u => !mine u }
    .next (counterWaits ctx (us.foldl (fun s u => counterSeen ctx cnt (applyUpdate u s)) s))

/-- The message of a firing: tag, vigil number and die (R384). -/
def vigilMessage (k : Nat) (v : Vigil) : List Byte := leBytes 8 (v.mtag.toNat + 2 ^ 32 * (k % 1024) + 2 ^ 42 * (k / 1024))

/-- A vigil's action (R384): an add before a message; a message whose write fails aborts the task (R386). -/
def fireVigil (k : Nat) (v : Vigil) (s : State) : State :=
  let s := if v.act ≠ 2 then
      counterChanged v.ctx v.tcnt
        (applyUpdate { ctx := v.ctx, cnt := v.tcnt, src := .vigil k, set := false, v := v.addv } s)
    else s
  if v.act = 1 then s
  else match (writeMem (.agent (k / 1024)) v.ctx v.space v.maddr (vigilMessage k v)).go s with
    | (.ok _, s) => s
    | (.error f, s) => abortTask v.task f 0 noCmd s

/-- The action of a vigil that is due (R384). A one-shot vigil becomes spent; another raises its threshold and is
evaluated again. -/
def execVigilFire (die : Fin 2) (v : Fin 1024) (s : State) : Out :=
  let k := vigilKey die v
  match tfind s.vigils k with
  | none => .next s
  | some x =>
    if x.due && x.armed then
      let x' := { x with due := false, spent := x.step = 0, thr := x.thr + BitVec.ofNat 32 x.step }
      let s := { s with vigils := tset s.vigils k x' }
      .next (evalVigils (fun y => y = x') (fireVigil k x s))
    else .next s

/-- When a Shell's acquire began, if it is blocked in one. -/
def waitSince (x : Wait) : Option Nat :=
  match x with
  | .none => none
  | .stream _ => none
  | .group => none
  | .counter _ _ t => some t
  | .line _ t => some t

/-- A stall is reported when every running Shell of a task has been blocked in an acquire for longer than the port's
`hang_us`, once for each such period; it changes nothing in the task (R392). -/
def execStallReport (t : TaskRef) (s : State) : Out :=
  match s.findTask t with
  | none => .next s
  | some (tid, k) =>
    let hang := (s.port t.port).hangUs.toNat
    let ms := (heldBy s tid).filter (fun L => !k.ended.getLsbD L)
    let ages := ms.map fun L => (waitSince (s.shell L).stroke.wait).map s.since
    if k.st = .running && hang ≠ 0 && !k.stalled && !ms.isEmpty && ages.all (fun a => 1000 * hang < a.getD 0) then
      let us := (ages.map (fun a => a.getD 0)).foldl min (ages.head?.bind id |>.getD 0) / 1000
      .next (setCause t.port t.fn 8 (logEvent 0x0102 0 k.ctx [refCode t, t.index.toNat, us]
        (s.modTask tid fun k => { k with stalled := true })))
    else .next s

/-! ## The debugger's hand-set actions (R393–R395, R644) -/

/-- The task that the debug registers name. -/
def debugTask (s : State) : Option (Nat × Task) :=
  let d := s.dbg
  s.findTask { port := if d.port then .B else .A, fn := ⟨d.fn.toNat, d.fn.isLt⟩, ring := ⟨d.ring.toNat, d.ring.isLt⟩,
               index := d.dindex }

/-- A hand-set action of the PF that holds semaphore 3; from anyone else it is ignored (R363, R393). -/
def debugGuard (p : Port) (f : Fin 32) (s : State) (act : Nat) (x : State) : Out :=
  .next (if isPF f && s.holds p 3 && s.dbg.act.toNat = act then x else s)

/-- A hand-set action is logged with the port, the object and the values, and it costs the task its exact timing
(R394); `noeff` says whether it found a live holder (R644). -/
def handSet (p : Port) (ctx obj old new : Nat) (task : Option Nat) (s : State) : State :=
  let s := logEvent 0x0103 0 ctx [portNum p, obj, old, new] { s with dbg := { s.dbg with noeff := task.isNone } }
  match task with
  | none => s
  | some tid => loseExact tid 3 0 s

/-- Set a counter of a context, held or not: an update that the unit applies behind the Shells' (R393). -/
def execDebugSetCounter (p : Port) (f : Fin 32) (s : State) : Out :=
  let c := s.dbg.ctx.toNat
  let k := s.dbg.obj.toNat
  let x := counterOf s c k
  let v := s.dbg.value.setWidth 32
  let s' := handSet p c k x.v.toNat v.toNat (x.holder.filter (alive s)) s
  debugGuard p f s 1 { s' with inbox := s'.inbox ++ [{ ctx := c, cnt := k, src := .debug, set := true, v := v }] }

/-- Force the arrival flag of one member of one line of a live task (R393). -/
def execDebugForceArrival (p : Port) (f : Fin 32) (s : State) : Out :=
  let k := (s.dbg.obj.extractLsb' 0 4).toNat
  let L := s.dbg.lshell.toNat
  debugGuard p f s 2 <|
    match debugTask s with
    | none => handSet p 0 k 0 1 none s
    | some (tid, t) =>
      let l := tget CatchLine.reset t.lines k
      let s := handSet p t.ctx k (if l.flags.getLsbD L then 1 else 0) 1 (some tid) s
      if isMember s t L then arrive tid L k s else s

/-- Force the completion of a line's current generation (R393). -/
def execDebugForceGeneration (p : Port) (f : Fin 32) (s : State) : Out :=
  let k := (s.dbg.obj.extractLsb' 0 4).toNat
  debugGuard p f s 3 <|
    match debugTask s with
    | none => handSet p 0 k 0 0 none s
    | some (tid, t) =>
      let g := (tget CatchLine.reset t.lines k).g
      completeLine tid k (handSet p t.ctx k g.toNat (g + 1).toNat (some tid) s)

/-- The vigil that the debug registers name. -/
def debugVigil (s : State) : Nat := vigilKey (if s.dbg.die then 1 else 0) s.dbg.vigil.toNat

/-- Fire a registered vigil once (R393). -/
def execDebugFireVigil (p : Port) (f : Fin 32) (s : State) : Out :=
  let k := debugVigil s
  debugGuard p f s 4 <|
    match tfind s.vigils k with
    | none => handSet p 0 k 0 1 none s
    | some v =>
      let s := handSet p v.ctx k 0 1 (some v.task) s
      let v' := { v with spent := v.step = 0, thr := v.thr + BitVec.ofNat 32 v.step, due := false }
      evalVigils (fun y => y = v') (fireVigil k v { s with vigils := tset s.vigils k v' })

/-- Drop a registered vigil (R393). -/
def execDebugDropVigil (p : Port) (f : Fin 32) (s : State) : Out :=
  let k := debugVigil s
  debugGuard p f s 5 <|
    match tfind s.vigils k with
    | none => handSet p 0 k 0 0 none s
    | some v =>
      let s := handSet p v.ctx k 1 0 (some v.task) s
      { s with vigils := tdel s.vigils k }

end Sys2Proof.Machine
end

