-- ==== Sys2Proof/Machine/Keys.lean ====
section
/-! DEFINITION. Keys (04_key_switching R118–R149): the key header, installation, the expansion of the uniform half, key
streams and their delivery, the key inner product `KIP`, and resident images. -/

namespace Sys2Proof.Machine

/-! ## The key header (R118–R122) -/

/-- A key header (R121). -/
structure KeyHdr where
  kind : Nat
  logN : Nat
  chain : Nat
  lo : Nat
  hi : Nat
  galois : Nat
  alpha : Nat
  keyset : Nat
  digest : Nat
  seed : List Byte
  deriving DecidableEq, Repr

def kindRelin : Nat := 1
def kindGalois : Nat := 2
def kindSwitch : Nat := 3

def keyHdrOf (v : Nat) : KeyHdr :=
  { kind := bits v 3 0, logN := bits v 8 4, chain := bits v 12 9, lo := bits v 18 13, hi := bits v 24 19,
    galois := bits v 42 25, alpha := bits v 48 43, keyset := bits v 127 64, digest := bits v 255 128,
    seed := leBytes 32 (bits v 511 256) }

/-- The byte offset of the field that makes a key header not well formed (R122). -/
def keyHdrBad (v : Nat) : Option Nat :=
  let h := keyHdrOf v
  match reservedAt v (ones 48 0 ||| ones 511 64) 512 [49] with
  | some b => some b
  | none =>
    if h.kind = 0 || 3 < h.kind then some 0
    else if h.logN < 12 || 17 < h.logN then some 0
    else if h.alpha = 0 then some 5
    else if h.hi < h.lo then some severalFields
    else if h.kind = kindRelin && h.galois ≠ 0 then some 3
    else if h.kind = kindGalois && !galoisOk h.logN h.galois then some 3
    else none

/-- A key header consistent with its chain (R122). -/
def keyHdrFits (snap : Tab Chain) (h : KeyHdr) : Bool :=
  match tfind snap h.chain with
  | none => false
  | some c => h.logN ≤ c.maxLogN && h.hi + 1 ≤ c.cipher && h.alpha ≤ c.cipher && 1 ≤ c.special

/-- D_ℓ (R119). -/
def KeyHdr.digits (h : KeyHdr) (l : Nat) : Nat := ceilDiv (l + 1) h.alpha

/-- E_ℓ, ascending (R119). -/
def extSet (c : Chain) (l : Nat) : List Nat :=
  List.range (l + 1) ++ (List.range c.special).map (fun i => c.cipher + i)

def extMask (c : Chain) (l : Nat) : Nat := (extSet c l).foldl (fun m j => m ||| 1 <<< j) 0

/-- Bytes of a key object (R120). -/
def keyBytes (h : KeyHdr) (c : Chain) : Nat := 64 + h.digits h.hi * (h.hi + 1 + c.special) * limbSize h.logN

/-- Where data limb (d, j) begins in its object (R120). -/
def dataPlace (h : KeyHdr) (c : Chain) (d j : Nat) : Nat :=
  let e := if j ≤ h.hi then j else h.hi + 1 + (j - c.cipher)
  64 + (d * (h.hi + 1 + c.special) + e) * limbSize h.logN

/-! ## Installation (R123–R127) -/

def encKeyInstall : Enc := { op := 0x32, used := uCtl 27 16 ||| uOpa 63 0, fields := [], tensor := false }
def encKeyDrop : Enc := { op := 0x33, used := uCtl 25 16, fields := [], tensor := false }

/-- An object lies within one stack or within host memory and translates (R124 rows 2 and 4; 0x01 for the stack, log 166). -/
def wholeObject (c space a n structure_ row : Nat) : Act Unit :=
  tryCatch (oneStack .iod c space a n) fun f =>
    if f.code = 0x02 then throw { code := 0x01, detail := detail01 structure_ row severalFields } else throw f

/-- `KEY_INSTALL`: the six steps of R124. -/
def natKeyInstall (_ : Fin 64) (_ : Cmd) : Native :=
  native encKeyInstall false fun _ t w => plain do
    let slot := cf w 25 16
    let space := cf w 27 26
    let a := w.opa.toNat
    if space = 0 || space = 3 then bad01 1 3
    if (tfind ((← get).ctx t.ctx).keys slot).isSome then bad01 1 2
    if a % 64 ≠ 0 then bad01 2 8
    wholeObject t.ctx space a 64 0 2
    let v := leNat (← readMem .iod t.ctx space a 64 2)
    match keyHdrBad v with
    | some b => throw { code := 0x01, detail := detail01 4 3 b }
    | none => pure ()
    let h := keyHdrOf v
    need (keyHdrFits t.snap h) 0x22 (detail22 h.chain 4)
    match tfind t.snap h.chain with
    | none => pure ()
    | some ch =>
      let n := keyBytes h ch
      wholeObject t.ctx space a n 4 4
      let data ← readMem .iod t.ctx space (a + 64) (n - 64) 2
      need (leNat ((sha256 data).take 16) = h.digest) 0x20 (detail20 slot 5 false false)
      upd fun s => s.modCtx t.ctx fun c =>
        { c with keys := tset c.keys slot { addr := a, space := space, hdr := BitVec.ofNat 512 v, reg := ch.reg } }

/-- `KEY_INSTALL`. -/
def execKeyInstall (sh : Fin 64) (w : Cmd) (s : State) : Out := .next (issue sh (natKeyInstall sh w) w s)

/-- `KEY_DROP`: empties a slot; streams already open on it go on (R126). -/
def natKeyDrop (_ : Fin 64) (_ : Cmd) : Native :=
  native encKeyDrop false fun _ t w => plain do
    let slot := cf w 25 16
    upd fun s => s.modCtx t.ctx fun c => { c with keys := tdel c.keys slot }

/-- `KEY_DROP`. -/
def execKeyDrop (sh : Fin 64) (w : Cmd) (s : State) : Out := .next (issue sh (natKeyDrop sh w) w s)

/-! ## The key identity check (R132) -/

/-- A key as the identity check has found it: its slot, its header and its chain. -/
structure FoundKey where
  slot : KeySlot
  hdr : KeyHdr
  chain : Chain
  deriving DecidableEq, Repr

/-- Rows 3 to 5 of R132. `obj` is the ciphertext's header where there is one (R141). -/
def keyIdentity (t : Task) (slot kind elem level : Nat) (obj : Option Hdr) : Act FoundKey := do
  let bad := fun (row : Nat) => detail20 slot row false false
  match tfind ((← get).ctx t.ctx).keys slot with
  | none => throw { code := 0x20, detail := bad 3 }
  | some k =>
    let h := keyHdrOf k.hdr.toNat
    match tfind t.snap h.chain with
    | none => throw { code := 0x20, detail := bad 3 }
    | some c =>
      need (c.reg = k.reg) 0x20 (bad 3)
      match obj with
      | none => pure ()
      | some o => need (h.keyset = o.keyset && h.chain = o.chain && h.logN = o.logN) 0x20 (bad 4)
      need (h.lo ≤ level && level ≤ h.hi) 0x20 (bad 4)
      need (h.kind = kind && (kind = kindRelin || h.galois = elem)) 0x20 (bad 5)
      return { slot := k, hdr := h, chain := c }

/-- Row 6 of R132: the header at the source equals the slot's copy; an image's line ends in zeros. -/
def keySource (L tid : Nat) (t : Task) (slot : Nat) (k : FoundKey) (image : Option Nat) : Act Unit := do
  let v ← match image with
    | none => do pure (leNat (← readMem (.agent (dieOf L)) t.ctx k.slot.space k.slot.addr 64 0))
    | some z => do
      inRange L tid t.ctx (spAddr L z) 2
      pure (leNat (← spRead L z 1))
  need (v = k.slot.hdr.toNat) 0x20 (detail20 slot 6 false false)

/-! ## The pairs of a stream (R128–R134, R141, R142) -/

/-- The data limb (d, j) read by a streamer from the key object. -/
def dataLimb (L c : Nat) (slot : KeySlot) (h : KeyHdr) (ch : Chain) (d j : Nat) : Act Limb := do
  return bytesLimb (← readMem (.agent (dieOf L)) c slot.space (slot.addr + dataPlace h ch d j) (limbSize h.logN) 1)

/-- The uniform limb (d, j) (R128, R129). -/
def uniformOf (h : KeyHdr) (ch : Chain) (d j : Nat) : Limb := uniformLimb h.seed h.logN d h.kind (ch.mod j)

/-- Limbs of a pair in an image. -/
def halves (full : Bool) : Nat := if full then 2 else 1

/-- The line of data limb (d, j) of an image (R141). -/
def imageLine (h : KeyHdr) (m : Member) (d j : Nat) : Nat :=
  m.z0 + 2 + (rankOf m.imask.toNat j * h.digits m.ilevel + d) * halves m.full * limbLines h.logN

/-- The pair (d, j) for a member: what its limb buffer holds, and from an image what that gives (R139, R142). A fault on the
way is the stream's, so it is laid to the command that opened it (R148, R569). -/
def pairFor (L tid : Nat) (t : Task) (x : KStream) (m : Member) (d j : Nat) : Act (Limb × Limb) := laidTo L m.cmd do
  let h := keyHdrOf x.hdr.toNat
  let held := ((m.buf.find? (fun e => e.1 = d && e.2.1 = j)).map (·.2.2)).getD ([], [])
  if x.image.isNone then return held
  let line := imageLine h m d j
  inRange L tid t.ctx (spAddr L line) (halves m.full * limbLines h.logN)
  let b ← readLimb L line h.logN
  if m.full then return (b, ← readLimb L (line + limbLines h.logN) h.logN)
  return (b, held.2)

/-! ## Opening a stream (R131–R137, R141) -/

def encKeyOpen : Enc :=
  { op := 0x34, used := uCtl 30 16 ||| uImm 17 0 ||| uOpa 41 0 ||| uOpa 55 48 ||| uOpb 63 0, fields := [0],
    tensor := false }

def encKeyPin : Enc :=
  { op := 0x35, used := uCtl 31 16 ||| uImm 23 0 ||| uOpa 41 24 ||| uOpa 55 48 ||| uOpb 63 0, fields := [],
    tensor := false }

/-- The key stream a Shell has open under a number. -/
def streamOf (s : State) (L num : Nat) : Option (Nat × KStream) :=
  (if num = 0 then (s.shell L).ks0 else (s.shell L).ks1).bind fun id => (tfind s.streams id).map fun x => (id, x)

/-- A Shell's stream register written. -/
def setStreamReg (L num : Nat) (v : Option Nat) (s : State) : State :=
  s.modShell L fun x => if num = 0 then { x with ks0 := v } else { x with ks1 := v }

/-- The key streamer of a stream (R137): that of the key's stack, or one of the die's four. -/
def streamerOf (c L : Nat) (k : KeySlot) : Act Nat := do
  if k.space = 1 then return stackOf (← xlateDev .iod c k.addr false).addr
  else return 4 * dieOf L + crewOf L % 4

/-- Streams that a streamer serves at most (R137). -/
def streamerMax : Nat := 16

/-- The stream of a task that a Shell joins: one that waits and whose set names the Shell, or, under the Shell's own number,
that has a Shell of its set already (R131, R132 row 8). A stream that waits for the Shell under the other number is joined
where no stream waits under its own, and then row 8 finds the numbers unequal. -/
def waitingStream (s : State) (tid L num set_ : Nat) : Option (Nat × KStream) :=
  let mine := fun (own : Bool) (e : Nat × KStream) =>
    e.2.task = tid && e.2.crew = crewOf L && (e.2.num = num) = own && !e.2.started &&
      ((e.2.set.getLsbD (L % 8) && e.2.members.all fun m => m.sh ≠ L) ||
        (own && e.2.members.any (fun m => set_.testBit (m.sh % 8))))
  match s.streams.find? (mine true) with
  | some e => some e
  | none => s.streams.find? (mine false)

/-- A stream as a Shell's command asks for it, without members. -/
def streamWanted (tid L num set_ slot kind elem level : Nat) (k : FoundKey) (image streamer : Option Nat) (pin : Bool) :
    KStream :=
  { task := tid, crew := crewOf L, num := num, set := BitVec.ofNat 8 set_, slot := slot, kind := kind, elem := elem,
    level := level, hdr := k.slot.hdr, addr := k.slot.addr, space := k.slot.space, image := image,
    streamer := streamer, chain := k.chain, members := [], started := false, segs := [], pin := pin }

/-- Row 8 of R132, then the Shell becomes a member, in the order in which it opens its streams, and waits for its set. Shells
of one set that saw different contents of the slot at row 3 do not agree either (log 147). -/
def joinStream (L num : Nat) (x : KStream) (m : Member) : Act Flow := do
  let (n, s) := (← get).fresh
  let m := { m with order := n }
  match waitingStream s x.task L num x.set.toNat with
  | some (id, y) =>
    if { y with members := [], streamer := none } ≠ { x with streamer := none } then bad01 8 severalFields
    set (setStreamReg L num (some id) { s with streams := tset s.streams id { y with members := y.members ++ [m] } })
  | none =>
    let (id, s) := s.fresh
    set (setStreamReg L num (some id) { s with streams := tset s.streams id { x with members := [m] } })
  upd (block L (.stream num))
  return .wait

/-- Row 1 of R132 on the fields both commands have. -/
def openRow1 (L num set_ kind kindAt : Nat) : Act Unit := do
  if (streamOf (← get) L num).isSome then bad01 1 3
  if !set_.testBit (L % 8) then bad01 1 14
  if kind = 0 || 3 < kind then bad01 1 kindAt

/-- A streamer with a free place (R137). -/
def streamerFree (s : State) (n : Nat) : Bool :=
  (s.streams.filter (fun e => e.2.streamer = some n)).length < streamerMax

/-- The units a new stream needs: its key streamer, and its Crew's expander unless an image holds both halves. Whether one
is under reset, so that the command waits; a unit that failed its test aborts it (R525). -/
def unitsHold (L : Nat) (streamer : Option Nat) (expands : Bool) : Act Bool := do
  let s ← get
  let us := streamer.toList ++ (if expands then [8 + crewOf L] else [])
  need (!us.any fun u => s.up.keyUnitOut.getLsbD u) 0xFF 0x0208
  return us.any fun u => (tfind s.cox.unitReset u).isSome

/-- `KEY_OPEN`: the eight checks of R132, in order; the stream waits for its set (R131). Row 2 asks no domain of the
ciphertext, and a non-zero element of kind RELIN is let through (log 148). -/
def natKeyOpen (sh : Fin 64) (_ : Cmd) : Native :=
  native encKeyOpen false fun tid t w => do
    let L := sh.val
    let slot := cf w 25 16
    let num := cf w 26 26
    let kind := cf w 30 27
    let elem := immF w 17 0
    let set_ := opaF w 55 48
    let mask := w.opb.toNat
    let image := if opaF w 41 24 = 0x3FFFF then none else some (opaF w 41 24)
    openRow1 L num set_ kind 3
    let h ← takeHdr L tid t.ctx (afOf w 0)
    needFits t h
    if h.kind ≠ 0 || h.comps ≠ (if kind = kindRelin then 3 else 2) then bad01 2 severalFields
    let k ← keyIdentity t slot kind elem h.level (some h)
    keySource L tid t slot k image
    let (full, imask, ilevel) ← match image with
      | none => pure (false, 0, 0)
      | some z => do
        let v := leNat (← spRead L (z + 1) 1)
        pure (v.testBit 72, bits v 63 0, bits v 69 64)
    if mask &&& extMask k.chain h.level ≠ mask then bad01 7 16
    if image.isSome && (ilevel < h.level || mask &&& imask ≠ mask) then bad01 7 16
    let streamer ← if image.isSome then pure none else do pure (some (← streamerOf t.ctx L k.slot))
    let resets ← unitsHold L streamer !full
    let s ← get
    if (waitingStream s tid L num set_).isNone && (resets || streamer.any fun n => !streamerFree s n) then return .hold
    joinStream L num (streamWanted tid L num set_ slot kind elem h.level k image streamer false)
      { sh := L, mask := BitVec.ofNat 64 mask, given := 0, used := 0, buf := [], order := 0, closed := false, waits := false,
        freed := 0, cmd := (s.shell L).stroke.idx, z0 := image.getD 0, full := full, imask := BitVec.ofNat 64 imask,
        ilevel := ilevel }

/-- `KEY_OPEN`. -/
def execKeyOpen (sh : Fin 64) (w : Cmd) (s : State) : Out := .next (issue sh (natKeyOpen sh w) w s)

/-- `KEY_PIN`: the checks of R132 with the level ℓ_p; the image's lines lie in range (R141, R190). A non-zero element of kind
RELIN is let through (log 148). -/
def natKeyPin (sh : Fin 64) (_ : Cmd) : Native :=
  native encKeyPin false fun tid t w => do
    let L := sh.val
    let slot := cf w 25 16
    let num := cf w 26 26
    let kind := cf w 31 28
    let level := immF w 5 0
    let elem := immF w 23 6
    let set_ := opaF w 55 48
    let mask := w.opb.toNat
    openRow1 L num set_ kind 3
    let k ← keyIdentity t slot kind elem level none
    keySource L tid t slot k none
    if mask &&& extMask k.chain level ≠ mask then bad01 7 16
    let streamer ← streamerOf t.ctx L k.slot
    let resets ← unitsHold L (some streamer) (cf w 27 27 = 1)
    let s ← get
    if (waitingStream s tid L num set_).isNone && (resets || !streamerFree s streamer) then return .hold
    let x := streamWanted tid L num set_ slot kind elem level k none (some streamer) true
    let m : Member :=
      { sh := L, mask := BitVec.ofNat 64 mask, given := 0, used := 0, buf := [], order := 0, closed := false, waits := false,
        freed := 0, cmd := (s.shell L).stroke.idx, z0 := opaF w 41 24, full := cf w 27 27 = 1, imask := BitVec.ofNat 64 mask,
        ilevel := level }
    inRange L tid t.ctx (spAddr L m.z0) (pinLines x m)
    joinStream L num x m

/-- `KEY_PIN`. -/
def execKeyPin (sh : Fin 64) (w : Cmd) (s : State) : Out := .next (issue sh (natKeyPin sh w) w s)

/-! ## Delivery (R129, R131, R134, R135, R141) -/

/-- The head of a pinned image (R141). -/
def imageHead (x : KStream) (m : Member) : List Byte :=
  leBytes 72 x.hdr.toNat ++ leBytes 72 (m.mask.toNat + 2 ^ 64 * m.ilevel + (if m.full then 2 ^ 72 else 0))

/-- A member's command goes on when delivery begins: a `KEY_OPEN` has completed, a `KEY_PIN` writes its image's head. -/
def startMember (t : Task) (x : KStream) (s : State) (m : Member) : State :=
  let s := goTo m.sh (m.cmd + 1) (modStroke m.sh (fun y => { y with wait := .none }) s)
  if x.pin then spPut m.sh (72 * m.z0) (imageHead x m) s else finished m.sh t 0x34 m.cmd s

/-- `KEY_STREAM_DELIVERY_START`: every Shell of the set has opened the stream (R131). -/
def execKeyStreamDeliveryStart (sh : Fin 64) (num : Fin 2) (s : State) : Out :=
  match streamOf s sh num with
  | none => .next s
  | some (id, x) =>
    match tfind s.tasks x.task with
    | none => .next s
    | some t =>
      if x.started || x.members.length ≠ popCount x.set.toNat 8 || t.frozen || t.st ≠ .running then .next s
      else .next (x.members.foldl (startMember t x) { s with streams := tset s.streams id { x with started := true } })

/-- The next pair of an open member: (j, d). -/
def memberNext (D : Nat) (m : Member) : Option (Nat × Nat) :=
  if m.closed then none else ((setBits m.mask.toNat 64)[m.given / D]?).map fun j => (j, m.given % D)

/-- The next pair of a stream: ascending j, then ascending d (R134). -/
def streamNext (D : Nat) (x : KStream) : Option (Nat × Nat) :=
  x.members.foldl (fun b m =>
    match b, memberNext D m with
    | none, p => p
    | some q, some p => if p.1 < q.1 || (p.1 = q.1 && p.2 < q.2) then some p else some q
    | b, none => b) none

/-- The order in which a Shell opened a stream. -/
def openOrder (s : State) (L num : Nat) : Option Nat :=
  (streamOf s L num).bind fun z => (z.2.members.find? (fun m => m.sh = L)).map (·.order)

/-- A stream is the earliest open one of a Shell (R135). -/
def earliest (s : State) (L num : Nat) : Bool :=
  match openOrder s L num, openOrder s L (1 - num) with
  | some a, some b => a < b
  | some _, none => true
  | none, _ => false

/-- Whether the pairs of a stream carry a data limb from a streamer, and a uniform limb from the expander. -/
def needsData (x : KStream) : Bool := x.image.isNone
def needsUniform (x : KStream) : Bool := x.members.any fun m => if x.pin then m.full else x.image.isNone || !m.full

/-- Pairs of a stream for a member: none where its image holds both halves. -/
def pairsDue (x : KStream) (m : Member) : Nat :=
  if needsData x || needsUniform x then
    popCount m.mask.toNat 64 * ceilDiv (x.level + 1) (keyHdrOf x.hdr.toNat).alpha
  else 0

/-- The last pair of a stream for a Shell has been delivered. -/
def allGiven (s : State) (L num : Nat) : Bool :=
  match streamOf s L num with
  | none => true
  | some (_, x) => x.started && x.members.all fun m => m.sh ≠ L || pairsDue x m ≤ m.given

/-- Residues that a Shell's limb buffer pair holds for its streams. -/
def buffered (s : State) (L : Nat) : Nat :=
  ((List.range 2).map fun num =>
    match streamOf s L num with
    | none => 0
    | some (_, x) => (x.members.map fun m =>
        if m.sh = L then m.buf.length * (2 * 2 ^ (keyHdrOf x.hdr.toNat).logN) else 0).sum).sum

/-- Residues that a limb buffer pair holds: 131,072 / N pairs (R135). -/
def bufResidues : Nat := 262144

/-- A Shell has a free slot for a pair of a stream, which is its earliest open one or follows a stream that has been
delivered whole (R135). -/
def slotFree (s : State) (x : KStream) (m : Member) : Bool :=
  (earliest s m.sh x.num || allGiven s m.sh (1 - x.num)) &&
    (x.pin || buffered s m.sh + 2 * 2 ^ (keyHdrOf x.hdr.toNat).logN ≤ bufResidues)

/-- The uniform limb that the segments of (d, j) make up, when all have been generated. -/
def segLimb (x : KStream) (logN d j : Nat) : Option Limb :=
  let ss := (List.range (2 ^ logN / 1024)).map fun t => (x.segs.find? (fun e => e.1 = (d, j, t))).map (·.2)
  if ss.all Option.isSome then some (ss.flatMap (·.getD [])) else none

/-- A pair given to a member: into its limb buffer, or into the image it pins. -/
def givePair (h : KeyHdr) (x : KStream) (d j : Nat) (b a : Limb) (s : State) (m : Member) : State :=
  let s := s.bump (shellCtr m.sh 91)
  if x.pin then
    spPut m.sh (72 * imageLine h m d j) (limbBytes b ++ (if m.full then limbBytes a else [])) s
  else s

/-- A member after a pair. -/
def gotPair (pin : Bool) (d j : Nat) (b a : Limb) (m : Member) : Member :=
  { m with given := m.given + 1, waits := false, buf := if pin then [] else m.buf ++ [(d, j, b, a)] }

/-- The next pair of an open stream goes to every Shell whose mask holds j, once each has a free slot and its uniform limb is
complete (R134, R135); `make` says that the expander completes it now. Whether a pair was delivered. A read that fails is
laid to the command of a Shell, and the pair is not delivered (R148, R569). -/
def deliverNext (L id : Nat) (make : Bool) : Act Bool := do
  let s ← get
  match tfind s.streams id with
  | none => return false
  | some x =>
    let h := keyHdrOf x.hdr.toNat
    match tfind s.tasks x.task, streamNext (h.digits x.level) x with
    | some t, some (j, d) =>
      let rs := x.members.filter fun m => memberNext (h.digits x.level) m = some (j, d)
      let uni := if needsUniform x then
          (if make then some ((segLimb x h.logN d j).getD (uniformOf h x.chain d j)) else segLimb x h.logN d j)
        else some []
      if !x.started || (!needsData x && !needsUniform x) || !rs.all (slotFree s x) || uni.isNone then return false
      let slot : KeySlot := { addr := x.addr, space := x.space, hdr := x.hdr, reg := 0 }
      let b ← laidTo L (((x.members.find? (fun m => m.sh = L)).map (·.cmd)).getD noCmd)
        (if needsData x then dataLimb L t.ctx slot h x.chain d j else pure [])
      let a := uni.getD []
      let ms := x.members.map fun m => if rs.contains m then gotPair x.pin d j b a m else m
      let x' := { x with members := ms, segs := x.segs.filter fun e => e.1.1 ≠ d || e.1.2.1 ≠ j }
      upd fun s => rs.foldl (givePair h x d j b a) { s with streams := tset s.streams id x' }
      return true
    | _, _ => return false

/-- `KEY_PAIR_DELIVERY`: the stream's next pair is delivered (R134, R135). A read that fails aborts the task (R148). -/
def execKeyPairDelivery (sh : Fin 64) (num : Fin 2) (s : State) : Out :=
  match streamOf s sh num with
  | none => .next s
  | some (id, x) =>
    match (deliverNext sh id false).go s with
    | (.ok _, s) => .next s
    | (.error f, s) => .next (abortLaid x.task f sh noCmd s)

/-- `EXPANDER_SEGMENT`: a core of the Crew's expander completes segment t of limb a_(d,j) of an open stream (R128, R129);
it works only for Shells with a free slot (R130). -/
def execExpanderSegment (sh : Fin 64) (num : Fin 2) (d : Nat) (j : Fin 64) (t : Nat) (s : State) : Out :=
  match streamOf s sh num with
  | none => .next s
  | some (id, x) =>
    let h := keyHdrOf x.hdr.toNat
    let D := h.digits x.level
    let rs := x.members.filter fun m => !m.closed && m.mask.getLsbD j
    let todo := rs.any fun m => m.given ≤ rankOf m.mask.toNat j * D + d
    if x.started && needsUniform x && d < D && t < 2 ^ h.logN / 1024 && todo && rs.all (slotFree s x) &&
        (x.segs.find? (fun e => e.1 = (d, j.val, t))).isNone then
      let seg := uniformSegment h.seed h.logN d h.kind (x.chain.mod j) t
      .next ({ s with streams := tset s.streams id { x with segs := x.segs ++ [((d, j.val, t), seg)] } }.bump
        (fabCtr (48 + x.crew)))
    else .next s

/-! ## Closing (R138, R141) -/

/-- A stream closes on a Shell; it goes when it has closed on every Shell of its set. -/
def closeStream (L num : Nat) (s : State) : State :=
  match streamOf s L num with
  | none => s
  | some (id, x) =>
    let ms := x.members.map fun m => if m.sh = L then { m with closed := true, buf := [] } else m
    let s := setStreamReg L num none s
    if ms.all (·.closed) && x.started then { s with streams := tdel s.streams id }
    else { s with streams := tset s.streams id { x with members := ms } }

def encKeyClose : Enc := { op := 0x37, used := uCtl 16 16, fields := [], tensor := false }

/-- `KEY_CLOSE`; a number that is not open is a no-op (R138). -/
def natKeyClose (sh : Fin 64) (_ : Cmd) : Native :=
  native encKeyClose false fun _ _ w => plain (upd (closeStream sh (cf w 16 16)))

/-- `KEY_CLOSE`. -/
def execKeyClose (sh : Fin 64) (w : Cmd) (s : State) : Out := .next (issue sh (natKeyClose sh w) w s)

/-- `KEY_IMAGE_WHOLE`: every pair of a Shell's pinned image has been written; its stream closes there and its `KEY_PIN`
has completed (R141). -/
def execKeyImageWhole (sh : Fin 64) (num : Fin 2) (s : State) : Out :=
  match streamOf s sh num with
  | none => .next s
  | some (_, x) =>
    match tfind s.tasks x.task, x.members.find? (fun m => m.sh = sh.val) with
    | some t, some m =>
      if x.pin && x.started && m.given = popCount m.mask.toNat 64 * (keyHdrOf x.hdr.toNat).digits x.level then
        .next (finished sh t 0x35 m.cmd (closeStream sh num s))
      else .next s
    | _, _ => .next s

/-! ## The key inner product (R139) -/

def encKip : Enc :=
  { op := 0x36, used := uCtl 22 16 ||| uAf 0 ||| uAf 1 ||| uOpb 47 0, fields := [0, 1], tensor := false }

/-- A range of lines of the executing Shell by line number; the detail of 0x02 is its first address out of range. -/
def linesIn (L tid ctx line n : Nat) : Act Unit := do
  scoreboard L line n
  let s ← get
  match firstOut (s.shell L) tid ctx 33 line (line + n) with
  | none => pure ()
  | some l => throw { code := 0x02, detail := spAddr L l }

/-- One limb of the accumulators of an item over the digits of one modulus: `MUL` or `MULADD` by digit (R139). -/
def kipAcc (m : Modulus) (start : Option Limb) (xs : List (Limb × Limb)) : Limb :=
  match start, xs with
  | some y, xs => xs.foldl (fun y z => ((z.1.zip z.2).zip y).map fun u => laneMulAdd m u.1.1 u.1.2 u.2) y
  | none, [] => []
  | none, z :: r =>
    r.foldl (fun y z => ((z.1.zip z.2).zip y).map fun u => laneMulAdd m u.1.1 u.1.2 u.2)
      (zipLimb (laneMul m) z.1 z.2)

/-- Where a `KIP` finds its limbs (R139): `n` items, x_0, σ_x, y_0, σ_y, m and λ. -/
structure KipPlace where
  n : Nat
  x0 : Nat
  sx : Nat
  y0 : Nat
  sy : Nat
  m : Nat
  lam : Nat

/-- The work of one pair (d, j), item by item and half by half (R139). -/
def kipPair (L logN : Nat) (p : KipPlace) (md : Modulus) (d r : Nat) (mul : Bool) (key : Limb × Limb) : Act Unit :=
  (List.range p.n).forM fun c => (List.range 2).forM fun h => do
    let x ← readLimb L (p.x0 + c * p.sx + (d * p.m + r) * p.lam) logN
    let line := p.y0 + c * p.sy + (h * p.m + r) * p.lam
    let z := (x, if h = 0 then key.1 else key.2)
    if mul then writeLimb L line (kipAcc md none [z])
    else
      let y ← readLimb L line logN
      writeLimb L line (kipAcc md (some y) [z])

/-- A Shell's membership of an open stream changed. -/
def modMember (id L : Nat) (f : Member → Member) (s : State) : State :=
  match tfind s.streams id with
  | none => s
  | some x =>
    let x' := { x with members := x.members.map fun m => if m.sh = L then f m else m }
    { s with streams := tset s.streams id x' }

/-- Whether the pair (d, j) that a `KIP` waits for is in the limb buffer; the stream delivers up to it, at most n pairs, while
its pacing lets it (R135, R139). -/
def awaitPair (L id d j : Nat) : Nat → Act Bool
  | 0 => return false
  | n + 1 => do
    let s ← get
    let x? := tfind s.streams id
    let held := x?.any fun x => x.started && x.members.any fun m =>
      m.sh = L && (pairsDue x m = 0 || m.buf.any fun e => e.1 = d && e.2.1 = j)
    if held then return true
    if ← deliverNext L id true then awaitPair L id d j n
    else
      upd (modMember id L fun m => { m with waits := true })
      return false

/-- One pair of a `KIP`: waited for, used and released. Whether it was there. -/
def kipStep (L tid : Nat) (t : Task) (id : Nat) (p : KipPlace) (keep : Bool) (D u : Nat) : Act Bool := do
  match tfind (← get).streams id with
  | none => return false
  | some x =>
    let h := keyHdrOf x.hdr.toNat
    match x.members.find? (fun m => m.sh = L) with
    | none => return false
    | some mem =>
      let d := u % D
      let j := (setBits mem.mask.toNat 64).getD (u / D) 0
      if !(← awaitPair L id d j (1 + 64 * D)) then return false
      match (tfind (← get).streams id).bind fun x => (x.members.find? (fun m => m.sh = L)).map fun m => (x, m) with
      | none => return false
      | some (x, mem) =>
        let key ← pairFor L tid t x mem d j
        kipPair L h.logN p (x.chain.mod j) d (u / D) (d = 0 && !keep) key
        upd fun s => modMember id L (fun m =>
          { m with used := m.used + 1, buf := m.buf.filter (fun e => e.1 ≠ d || e.2.1 ≠ j), freed := s.clk.alm }) s
        return true

/-- Pairs u, u + 1, … of a `KIP`, at most n, until one is not there: the first not done. -/
def kipRun (step : Nat → Act Bool) : Nat → Nat → Act Nat
  | 0, u => return u
  | n + 1, u => do if ← step u then kipRun step n (u + 1) else return u

/-- `KIP`: for each pair waits for it, multiplies the raised digits of every item, and closes the stream behind the last
(R139). It yields between values of j (R144). -/
def natKip (sh : Fin 64) (w : Cmd) : Native :=
  native encKip (cf w 21 17 = 0) fun tid t w => do
    let L := sh.val
    let num := cf w 16 16
    let nb := cf w 21 17
    if 16 < nb then bad01 1 2
    let s ← get
    match streamOf s L num with
    | none => bad01 1 2
    | some (id, x) =>
      if x.pin || !earliest s L num then bad01 1 2
      match x.members.find? (fun m => m.sh = L) with
      | none => bad01 1 2
      | some mem =>
        let h := keyHdrOf x.hdr.toNat
        let D := h.digits x.level
        let p : KipPlace :=
          { n := nb, x0 := addrLine (afOf w 0), sx := opbF w 23 0, y0 := addrLine (afOf w 1), sy := opbF w 47 24,
            m := popCount mem.mask.toNat 64, lam := limbLines h.logN }
        if p.m ≠ 0 then
          inRange L tid t.ctx (afOf w 0) (D * p.m * p.lam)
          (List.range nb).forM fun c => linesIn L tid t.ctx (p.x0 + c * p.sx) (D * p.m * p.lam)
          inRange L tid t.ctx (afOf w 1) (2 * p.m * p.lam)
          (List.range nb).forM fun c => linesIn L tid t.ctx (p.y0 + c * p.sy) (2 * p.m * p.lam)
          (List.range nb).forM fun c => (List.range nb).forM fun e =>
            mustBeDisjoint L (p.x0 + c * p.sx) (D * p.m * p.lam) (p.y0 + e * p.sy) (2 * p.m * p.lam)
        let u0 := mem.used
        let last := if preempting s L then min (p.m * D) ((u0 / D + 1) * D) else p.m * D
        let u ← kipRun (kipStep L tid t id p (cf w 22 22 = 1) D) (last - u0) u0
        if u = p.m * D then
          upd (closeStream L num)
          return .done
        return if preempting s L && u % D = 0 then .part else .stay

/-- `KIP`. -/
def execKip (sh : Fin 64) (w : Cmd) (s : State) : Out := .next (issue sh (natKip sh w) w s)

end Sys2Proof.Machine
end

