-- ==== Sys2Proof/Machine/Scheme.lean ====
section
/-! DEFINITION. Scheme and share commands (05_scheme_operations R150–R166, R180–R181): ciphertext arithmetic, key switching in
one Shell, rescaling and level drop, and the arithmetic of shares. -/

namespace Sys2Proof.Machine

/-! ## The checks of R151 -/

/-- The domain that a command requires of its operands (R78 row 2). -/
inductive Dom where
  | any
  | same
  | ntt
  deriving DecidableEq, Repr

/-- The kind that a command names in an operand position (R150, R180). -/
inductive Role where
  | ct
  | ctOrPt
  | pt
  | share
  | obj
  deriving DecidableEq, Repr

def roleFits (r : Role) (kind : Nat) : Bool :=
  match r with
  | .ct => kind = 0
  | .ctOrPt => kind ≤ 1
  | .pt => kind = 1
  | .share => kind = 2
  | .obj => true

/-- Steps 1 and 2 up to R78 row 1: header lines in range, headers well formed. -/
def heads (L tid c : Nat) (as : List Nat) : Act (List Hdr) := do
  as.forM fun a => inRange L tid c a 1
  let vs ← as.mapM fun a => do pure (leNat (← spRead L (addrLine a) 1))
  match vs.findSome? hdrBad with
  | some b => throw { code := 0x01, detail := detail01 3 2 b }
  | none => return vs.map hdrOf

/-- The first ciphertext or share among the operands (R77). -/
def leader (hs : List Hdr) : Hdr :=
  (hs.find? (fun h => h.kind ≠ 1)).getD (hs.headD (hdrOf 0))

/-- The level that R78 row 4 compares with: that of the first ciphertext, or of the first share where a share command has
none (log 144). Plaintexts alone have none. -/
def levelOf (hs : List Hdr) : Option Nat := (hs.find? (fun h => h.kind ≠ 1)).map (·.level)

/-- R78 rows 2 to 5, row by row and operand by operand (step 2 of R151). -/
def rows2to5 (t : Task) (hs : List Hdr) (dom : Dom) : Act Unit := do
  let h0 := hs.headD (hdrOf 0)
  match dom with
  | .any => pure ()
  | .same => hs.forM fun h => needDomain h h0.domain 2
  | .ntt => hs.forM fun h => needDomain h true 2
  hs.forM (needFits t)
  hs.forM fun h => need (h.chain = h0.chain && h.logN = h0.logN &&
    (levelOf hs).all fun l => if h.kind = 1 then l ≤ h.level else h.level = l) 0x22 (detail22 h.chain 4)
  (List.range 2).forM fun i =>
    let k := 2 * i
    let same := hs.filter (fun h => h.kind = k)
    need (same.all (fun h => h.keyset = (same.headD h0).keyset)) 0x20 (detail20 0 5 false true)

/-- Step 3 of R151: kinds, `ext` = 0, and one scheme for all ciphertexts and plaintexts where `oneScheme` says so. -/
def step3 (hs : List Hdr) (rs : List Role) (oneScheme : Bool) : Act Unit :=
  (hs.zip rs).forM fun z => do
    need (roleFits z.2 z.1.kind) 0x01 (detail01 3 3 5)
    need (!z.1.ext) 0x01 (detail01 3 3 3)
    need (!oneScheme || z.1.kind = 2 || z.1.scheme = (leader hs).scheme) 0x01 (detail01 3 3 0)

/-- Step 3: a ciphertext's `comps`. -/
def needComps (h : Hdr) (n : Nat) : Act Unit := need (h.comps = n) 0x01 (detail01 3 3 4)

/-- R78 row 7 for one plaintext modulus (R81). -/
def samePtmod (hs : List Hdr) : Act Unit :=
  match hs.filter (fun h => h.kind ≠ 2) with
  | [] => pure ()
  | h :: r => r.forM fun x => need (x.ptmod = h.ptmod) 0x23 (detail23 h.ptmod x.ptmod)

/-- R80, addition: the output scale. -/
def addScale (ch : Chain) (hs : List Hdr) (s1 s2 : Nat) : Act Nat := do
  if (leader hs).scheme = ckks then
    need ((s1 - s2) + (s2 - s1) ≤ ch.tol) 0x23 (detail23 s1 s2)
    return s1
  else
    samePtmod hs
    return 0

/-- R80, multiplication: the output scale. -/
def mulScale (ch : Chain) (hs : List Hdr) (level s1 s2 : Nat) : Act Nat := do
  if (leader hs).scheme = ckks then
    need (s1 + s2 ≤ scaleCeil ch level) 0x23 (detail23 s1 s2)
    return s1 + s2
  else
    samePtmod hs
    return 0

/-- R80, rescale from level ℓ + 1. -/
def rescaleScale (ch : Chain) (h : Hdr) : Act Nat := do
  if h.scheme = ckks then
    let l := (ch.mod h.level).step
    need (l ≤ h.scale) 0x23 (detail23 h.scale 0)
    return h.scale - l
  else return 0

/-- A work area: its address, its size in lines, and the lines the command needs (R158). -/
structure Work where
  a : Nat
  n : Nat
  needs : Nat

/-- Steps 7 and 8 of R151: full extents and the work area in range, then the destination against every source and the
work area. -/
def place (L tid c : Nat) (srcs : List (Nat × Hdr)) (dst : Nat) (out : Hdr) (work : Option Work := none) : Act Unit := do
  srcs.forM fun z => inRange L tid c z.1 (objLines z.2)
  inRange L tid c dst (objLines out)
  match work with
  | none => pure ()
  | some w =>
    if w.n < w.needs then throw { code := 0x02, detail := w.a + w.n }
    inRange L tid c w.a w.n
  srcs.forM fun z =>
    if z.1 ≠ dst then mustBeDisjoint L (addrLine dst) (objLines out) (addrLine z.1) (objLines z.2) else pure ()
  match work with
  | none => pure ()
  | some w =>
    mustBeDisjoint L (addrLine dst) (objLines out) (addrLine w.a) w.n
    srcs.forM fun z => mustBeDisjoint L (addrLine z.1) (objLines z.2) (addrLine w.a) w.n

/-- An output header from the first ciphertext or share operand (R77). -/
def outHdr (hs : List Hdr) (comps level scale : Nat) : Hdr :=
  let h := leader hs
  { h with comps := comps, level := level, limbs := level + 1, ext := false, scale := scale }

/-! ## Element-wise commands (R152–R155, R180, R181) -/

/-- Limb j of component i of source n, zero where the component is missing. -/
def sourceLimb (L : Nat) (srcs : List (Nat × Hdr)) (n i j : Nat) : Act Limb :=
  match srcs[n]? with
  | none => pure []
  | some z =>
    if i < z.2.comps && j < z.2.limbs then readLimb L (addrLine z.1 + limbLine z.2 i j) z.2.logN
    else pure (List.replicate (2 ^ z.2.logN) 0)

/-- An output that takes the place of a source and lays its limbs out as that does (R75). -/
def sameShape (a b : Hdr) : Bool := a.comps = b.comps && a.limbs = b.limbs && (a.layout = b.layout || a.comps = 1)

/-- The limbs of an output in the order in which they are made, by the stretches between two yield points: one limb, or all
of them together (R238, R312). -/
def outUnits (together : Bool) (out : Hdr) : List (List (Nat × Nat)) :=
  let all := (List.range out.comps).flatMap fun i => (List.range out.limbs).map fun j => (i, j)
  if together then [all] else all.map fun z => [z]

/-- The limbs of an output object by its units; the header is written last (R76). -/
def makeObj (L dst : Nat) (us : List (List (Nat × Nat))) (out : Hdr) (f : Nat → Nat → Act Limb) : Act Flow :=
  unitsThen L us.length
    (fun k => do
      let ls ← (us.getD k []).mapM fun z => do pure (z, ← f z.1 z.2)
      ls.forM fun z => writeLimb L (addrLine dst + limbLine out z.1.1 z.1.2) z.2)
    (spWrite L (72 * addrLine dst) (hdrBytes out))

/-- An output of which each limb is made of the sources' limbs in its place: limb by limb, but all limbs are read first where
it takes the place of a source of another shape. -/
def computeObj (L dst : Nat) (srcs : List (Nat × Hdr)) (out : Hdr) (f : Nat → Nat → Act Limb) : Act Flow :=
  makeObj L dst (outUnits (srcs.any fun z => z.1 = dst && !sameShape z.2 out) out) out f

/-- An output made of whole sources, stored limb by limb, or together where it takes the place of one of them. -/
def storeObj (L dst : Nat) (srcs : List (Nat × Hdr)) (out : Hdr) (cs : List Poly) : Act Flow :=
  makeObj L dst (outUnits (srcs.any fun z => z.1 = dst) out) out fun i j => pure ((cs.getD i []).getD j [])

/-- Two-source addition or subtraction of ciphertexts or of shares. -/
def addBody (L : Nat) (sub share : Bool) (tid : Nat) (t : Task) (w : Cmd) : Act Flow := do
  let as := [afOf w 0, afOf w 1]
  let hs ← heads L tid t.ctx as
  rows2to5 t hs .same
  step3 hs (if share then [.share, .share] else [.ct, .ctOrPt]) (!share)
  let a := hs.headD (hdrOf 0)
  let b := hs.getD 1 a
  let ch := chainOf t a
  let scale ← addScale ch hs a.scale b.scale
  let out := outHdr hs (if b.kind = 1 then a.comps else max a.comps b.comps) a.level scale
  place L tid t.ctx (as.zip hs) (afOf w 3) out
  computeObj L (afOf w 3) (as.zip hs) out fun i j => do
    let x ← sourceLimb L (as.zip hs) 0 i j
    if b.kind = 1 && i ≠ 0 then return x
    return zipLimb (if sub then laneSub (ch.mod j) else laneAdd (ch.mod j)) x (← sourceLimb L (as.zip hs) 1 i j)

/-- Negation of a ciphertext or share. -/
def negBody (L : Nat) (share : Bool) (tid : Nat) (t : Task) (w : Cmd) : Act Flow := do
  let hs ← heads L tid t.ctx [afOf w 0]
  rows2to5 t hs .any
  step3 hs [if share then .share else .ct] (!share)
  let a := hs.headD (hdrOf 0)
  let ch := chainOf t a
  let out := outHdr hs a.comps a.level a.scale
  place L tid t.ctx [(afOf w 0, a)] (afOf w 3) out
  computeObj L (afOf w 3) [(afOf w 0, a)] out fun i j => do
    return (← sourceLimb L [(afOf w 0, a)] 0 i j).map (laneNeg (ch.mod j))

/-- Multiplication by a signed constant (R153). -/
def mulcBody (L : Nat) (share : Bool) (tid : Nat) (t : Task) (w : Cmd) : Act Flow := do
  let hs ← heads L tid t.ctx [afOf w 0]
  rows2to5 t hs .any
  step3 hs [if share then .share else .ct] (!share)
  let a := hs.headD (hdrOf 0)
  let ch := chainOf t a
  let cscale := opcF w 31 0
  if !share && a.scheme ≠ ckks && cscale ≠ 0 then bad01 3 24
  let scale ← mulScale ch hs a.level a.scale cscale
  let out := outHdr hs a.comps a.level scale
  place L tid t.ctx [(afOf w 0, a)] (afOf w 3) out
  let k := signed 32 w.imm.toNat
  computeObj L (afOf w 3) [(afOf w 0, a)] out fun i j => do
    let m := ch.mod j
    return (← sourceLimb L [(afOf w 0, a)] 0 i j).map fun x => laneMul m x (k % (m.q : Int)).toNat

/-- Multiplication by a plaintext, or of shares limb by limb (R154, R180). -/
def mulpBody (L : Nat) (rs : List Role) (dom : Dom) (share : Bool) (tid : Nat) (t : Task) (w : Cmd) : Act Flow := do
  let as := [afOf w 0, afOf w 1]
  let hs ← heads L tid t.ctx as
  rows2to5 t hs dom
  step3 hs rs (!share)
  let a := hs.headD (hdrOf 0)
  let b := hs.getD 1 a
  let ch := chainOf t a
  let scale ← if share then pure 0 else mulScale ch hs a.level a.scale b.scale
  let out := outHdr hs a.comps a.level scale
  place L tid t.ctx (as.zip hs) (afOf w 3) out
  computeObj L (afOf w 3) (as.zip hs) out fun i j => do
    return zipLimb (laneMul (ch.mod j)) (← sourceLimb L (as.zip hs) 0 i j) (← sourceLimb L (as.zip hs) 1 0 j)

/-- The encoding of a scheme command with its address fields (R309). -/
def encScheme (op : Nat) (fields : List Nat) (extra : Nat := 0) : Enc :=
  { op := op, used := fields.foldl (fun m f => m ||| uAf f) extra, fields := fields, tensor := false }

/-- `HADD` (R152). -/
def natHadd (sh : Fin 64) (_ : Cmd) : Native :=
  native (encScheme 0x40 [0, 1, 3]) false (fun tid t w => addBody sh false false tid t w)

/-- `HADD`. -/
def execHadd (sh : Fin 64) (w : Cmd) (s : State) : Out := .next (issue sh (natHadd sh w) w s)

/-- `HSUB` (R152). -/
def natHsub (sh : Fin 64) (_ : Cmd) : Native :=
  native (encScheme 0x41 [0, 1, 3]) false (fun tid t w => addBody sh true false tid t w)

/-- `HSUB`. -/
def execHsub (sh : Fin 64) (w : Cmd) (s : State) : Out := .next (issue sh (natHsub sh w) w s)

/-- `HNEG` (R152). -/
def natHneg (sh : Fin 64) (_ : Cmd) : Native :=
  native (encScheme 0x42 [0, 3]) false (fun tid t w => negBody sh false tid t w)

/-- `HNEG`. -/
def execHneg (sh : Fin 64) (w : Cmd) (s : State) : Out := .next (issue sh (natHneg sh w) w s)

/-- `HMULC` (R153). -/
def natHmulc (sh : Fin 64) (_ : Cmd) : Native :=
  native (encScheme 0x43 [0, 3] (uImm 31 0 ||| uOpc 31 0)) false
    (fun tid t w => mulcBody sh false tid t w)

/-- `HMULC`. -/
def execHmulc (sh : Fin 64) (w : Cmd) (s : State) : Out := .next (issue sh (natHmulc sh w) w s)

/-- `HMULP` (R154). -/
def natHmulp (sh : Fin 64) (_ : Cmd) : Native :=
  native (encScheme 0x44 [0, 1, 3]) false
    (fun tid t w => mulpBody sh [.ct, .pt] .ntt false tid t w)

/-- `HMULP`. -/
def execHmulp (sh : Fin 64) (w : Cmd) (s : State) : Out := .next (issue sh (natHmulp sh w) w s)

/-- `SADD` (R180). -/
def natSadd (sh : Fin 64) (_ : Cmd) : Native :=
  native (encScheme 0x50 [0, 1, 3]) false (fun tid t w => addBody sh false true tid t w)

/-- `SADD`. -/
def execSadd (sh : Fin 64) (w : Cmd) (s : State) : Out := .next (issue sh (natSadd sh w) w s)

/-- `SSUB` (R180). -/
def natSsub (sh : Fin 64) (_ : Cmd) : Native :=
  native (encScheme 0x51 [0, 1, 3]) false (fun tid t w => addBody sh true true tid t w)

/-- `SSUB`. -/
def execSsub (sh : Fin 64) (w : Cmd) (s : State) : Out := .next (issue sh (natSsub sh w) w s)

/-- The encoding of `SNEG`: its address fields are 0, 1 and 3, and field 1 must be zero (R309). -/
def encSneg : Enc := { op := 0x52, used := uAf 0 ||| uAf 3, fields := [0, 1, 3], tensor := false, parts := [112] }

/-- `SNEG` (R180). -/
def natSneg (sh : Fin 64) (_ : Cmd) : Native :=
  native encSneg false (fun tid t w => negBody sh true tid t w)

/-- `SNEG`. -/
def execSneg (sh : Fin 64) (w : Cmd) (s : State) : Out := .next (issue sh (natSneg sh w) w s)

/-- `SMULC` (R180). -/
def natSmulc (sh : Fin 64) (_ : Cmd) : Native :=
  native (encScheme 0x53 [0, 3] (uImm 31 0)) false (fun tid t w => mulcBody sh true tid t w)

/-- `SMULC`. -/
def execSmulc (sh : Fin 64) (w : Cmd) (s : State) : Out := .next (issue sh (natSmulc sh w) w s)

/-- `SMULP`: a plaintext of any scheme (R180). -/
def natSmulp (sh : Fin 64) (_ : Cmd) : Native :=
  native (encScheme 0x54 [0, 1, 3]) false
    (fun tid t w => mulpBody sh [.share, .pt] .same true tid t w)

/-- `SMULP`. -/
def execSmulp (sh : Fin 64) (w : Cmd) (s : State) : Out := .next (issue sh (natSmulp sh w) w s)

/-- `SMUL` (R180). -/
def natSmul (sh : Fin 64) (_ : Cmd) : Native :=
  native (encScheme 0x55 [0, 1, 3]) false
    (fun tid t w => mulpBody sh [.share, .share] .same true tid t w)

/-- `SMUL`. -/
def execSmul (sh : Fin 64) (w : Cmd) (s : State) : Out := .next (issue sh (natSmul sh w) w s)

/-- `SBEAVER`: z := c + d × b + e × a, and d × e for the leading party (R181). The plaintexts' schemes and plaintext moduli
are not compared (log 145). -/
def natSbeaver (sh : Fin 64) (_ : Cmd) : Native :=
  native (encScheme 0x56 [0, 1, 2, 3] (uCtl 16 16 ||| uOpc 47 0)) false fun tid t w => do
    let L := sh.val
    let as := [afOf w 0, afOf w 1, afOf w 2, opcF w 23 0, opcF w 47 24]
    let hs ← heads L tid t.ctx as
    rows2to5 t hs .same
    step3 hs [.share, .share, .share, .pt, .pt] false
    let a := hs.headD (hdrOf 0)
    let ch := chainOf t a
    let out := outHdr hs 1 a.level 0
    place L tid t.ctx (as.zip hs) (afOf w 3) out
    computeObj L (afOf w 3) (as.zip hs) out fun _ j => do
      let xs ← (List.range 5).mapM fun n => sourceLimb L (as.zip hs) n 0 j
      let x := fun (n : Nat) => xs.getD n []
      let mad := fun (u v z : Limb) => ((u.zip v).zip z).map fun e => laneMulAdd (ch.mod j) e.1.1 e.1.2 e.2
      let z := mad (x 4) (x 0) (mad (x 3) (x 1) (x 2))
      return if cf w 16 16 = 1 then mad (x 3) (x 4) z else z

/-- `SBEAVER`. -/
def execSbeaver (sh : Fin 64) (w : Cmd) (s : State) : Out := .next (issue sh (natSbeaver sh w) w s)

/-! ## Transforms inside a scheme command -/

/-- `NTT` and `INTT` of a limb under a modulus of a chain, each word reduced as it is loaded (R84–R86). -/
def toNtt (ch : Chain) (logN : Nat) (m : Modulus) (l : Limb) : Limb := xformLimb .ntt true m ch.maxLogN logN 0 l
def toCoef (ch : Chain) (logN : Nat) (m : Modulus) (l : Limb) : Limb := xformLimb .intt true m ch.maxLogN logN 0 l

/-! ## `HMUL` (R155–R157) -/

/-- d_0, d_1 and d_2 under one modulus (R155). -/
def tensorLimbs (m : Modulus) (a0 a1 b0 b1 : Limb) : List Limb :=
  let cross := ((a1.zip b0).zip (zipLimb (laneMul m) a0 b1)).map fun e => laneMulAdd m e.1.1 e.1.2 e.2
  [zipLimb (laneMul m) a0 b0, cross, zipLimb (laneMul m) a1 b1]

/-- The columns of a list of limbs: the residues of one coefficient. -/
def columns (n : Nat) (ls : List Limb) : List (List Nat) :=
  let as := ls.map List.toArray
  (List.range n).map fun i => as.map fun a => a.getD i 0

/-- One coefficient lifted from a basis S onto one modulus u (R157). -/
def liftTo (S : List Modulus) (prod : Nat) (u : Modulus) (ys : List Nat) (e : Nat) : Nat :=
  let acc := (S.zip ys).foldl (fun acc z => laneMulAdd u (reduceWord u z.2) (prod / z.1.q % u.q) acc) 0
  laneSub u acc (laneMul u (e % u.q) (prod % u.q))

/-- The lift from a basis S onto a basis T, on coefficient-domain limbs (R157). -/
def liftBasis (S T : List Modulus) (n : Nat) (xs : List Limb) : List Limb :=
  let prod := prodQ S
  let ys := (S.zip xs).map fun z => z.2.map fun x => laneMul z.1 x (invMod (prod / z.1.q) z.1.q)
  let cols := (columns n ys).map fun col =>
    (col, ((S.zip col).foldl (fun f z => f + z.2 * (2 ^ 96 / z.1.q)) 0 + 2 ^ 95) / 2 ^ 96)
  T.map fun u => cols.map fun c => liftTo S prod u c.1 c.2

/-- The scaling of R157, step 3: residues over Q and then B of one d_i give round(t × x / Q) on B. -/
def scaleBfv (Q B : List Modulus) (t n : Nat) (xs : List Limb) : List Limb :=
  let prod := prodQ (Q ++ B)
  let tp := t * prodQ B
  let zs := ((Q ++ B).zip xs).map fun z => z.2.map fun x => laneMul z.1 x (invMod (prod / z.1.q) z.1.q)
  let omega := Q.map fun q => tp / q.q
  let theta := Q.map fun q => 2 ^ 96 * (tp % q.q) / q.q
  let cols := (columns n zs).map fun col =>
    (col, ((theta.zip col).foldl (fun f z => f + z.2 * z.1) 0 + 2 ^ 95) / 2 ^ 96)
  B.zipIdx.map fun p => cols.map fun c =>
    let acc := ((omega.zip c.1).foldl (fun acc z => laneMulAdd p.1 (reduceWord p.1 z.2) (z.1 % p.1.q) acc)
      (c.2 % p.1.q))
    laneMulAdd p.1 (c.1.getD (Q.length + p.2) 0) (tp / p.1.q % p.1.q) acc

/-- `HMUL` for CKKS and BGV, limb by limb. -/
def hmulLimbs (ch : Chain) (n : Nat) (a b : List Poly) : List Poly :=
  let per := (List.range n).map fun j =>
    let g := fun (x : List Poly) (i : Nat) => (x.getD i []).getD j []
    tensorLimbs (ch.mod j) (g a 0) (g a 1) (g b 0) (g b 1)
  (List.range 3).map fun i => per.map fun d => d.getD i []

/-- `HMUL` for BFV (R156, R157). -/
def hmulBfv (ch : Chain) (logN level t : Nat) (a b : List Poly) : List Poly :=
  let n := 2 ^ logN
  let Q := ch.mods.take (level + 1)
  let B := ch.mods.drop ch.cipher
  let up := fun (p : Poly) =>
    let co := (Q.zip p).map fun z => toCoef ch logN z.1 z.2
    p ++ (B.zip (liftBasis Q B n co)).map fun z => toNtt ch logN z.1 z.2
  let a := a.map up
  let b := b.map up
  let per := (Q ++ B).zipIdx.map fun m =>
    let g := fun (x : List Poly) (i : Nat) => (x.getD i []).getD m.2 []
    tensorLimbs m.1 (g a 0) (g a 1) (g b 0) (g b 1)
  (List.range 3).map fun i =>
    let co := ((Q ++ B).zip (per.map fun d => d.getD i [])).map fun z => toCoef ch logN z.1 z.2
    (Q.zip (liftBasis B Q n (scaleBfv Q B t n co))).map fun z => toNtt ch logN z.1 z.2

/-- The constants of a BFV multiplication: those of its two lifts, and ω and θ of its scaling (R157). -/
def bfvValues (ch : Chain) (level t : Nat) : List Nat :=
  let Q := ch.mods.take (level + 1)
  let B := ch.mods.drop ch.cipher
  basisConsts Q B ++ basisConsts B Q ++ Q.map (fun q => t * prodQ B / q.q) ++
    Q.map fun q => 2 ^ 96 * (t * prodQ B % q.q) / q.q

/-- The key of a BFV combination in the constant cache (R157). -/
def bfvConsts (chain level t : Nat) : Nat × Nat × Nat := (chain, 2 ^ 64 + level, t)

/-- `HMUL` (R155, R156), limb by limb (R166). -/
def natHmul (sh : Fin 64) (_ : Cmd) : Native :=
  native (encScheme 0x45 [0, 1, 3]) false fun tid t w => do
    let L := sh.val
    let as := [afOf w 0, afOf w 1]
    let hs ← heads L tid t.ctx as
    rows2to5 t hs .ntt
    step3 hs [.ct, .ct] true
    hs.forM fun h => needComps h 2
    let a := hs.headD (hdrOf 0)
    let b := hs.getD 1 a
    let ch := chainOf t a
    if a.scheme = bfv then need (a.level + 2 ≤ ch.special) 0x22 (detail22 a.chain 4)
    let scale ← mulScale ch hs a.level a.scale b.scale
    let out := outHdr hs 3 a.level scale
    place L tid t.ctx (as.zip hs) (afOf w 3) out
    let x ← readComps L (addrLine (afOf w 0)) a
    let y ← readComps L (addrLine (afOf w 1)) b
    if a.scheme = bfv then
      upd (noteConsts L (bfvConsts a.chain a.level a.ptmod) (bfvValues ch a.level a.ptmod))
      storeObj L (afOf w 3) (as.zip hs) out (hmulBfv ch a.logN a.level a.ptmod x y)
    else storeObj L (afOf w 3) (as.zip hs) out (hmulLimbs ch out.limbs x y)

/-- `HMUL`. -/
def execHmul (sh : Fin 64) (w : Cmd) (s : State) : Out := .next (issue sh (natHmul sh w) w s)

/-! ## `RESCALE` and `LVLDROP` (R159–R161) -/

/-- The polynomial that `RESCALE` subtracts, in the coefficient domain: the top limb, or for BGV the multiple δ of t
(R159). -/
def rescaleSub (scheme t : Nat) (mt : Modulus) (u : Limb) : Limb :=
  if scheme = bgv then u.map fun x => t * (x * invMod t mt.q % mt.q) else u

/-- One component rescaled from level `level` (R159). -/
def rescalePoly (ch : Chain) (scheme logN level t : Nat) (c : Poly) : Poly :=
  let mt := ch.mod level
  let u := rescaleSub scheme t mt (toCoef ch logN mt (c.getD level []))
  (List.range level).map fun j =>
    let m := ch.mod j
    let v := toNtt ch logN m (u.map (· % m.q))
    (zipLimb (laneSub m) (c.getD j []) v).map fun x => laneMul m x (invMod mt.q m.q)

/-- `RESCALE` (R159, R160). -/
def natRescale (sh : Fin 64) (_ : Cmd) : Native :=
  native (encScheme 0x49 [0, 3]) false fun tid t w => do
    let L := sh.val
    let hs ← heads L tid t.ctx [afOf w 0]
    rows2to5 t hs .ntt
    step3 hs [.ct] true
    let a := hs.headD (hdrOf 0)
    let ch := chainOf t a
    need (a.level ≠ 0) 0x21 (detail21 0 1)
    let scale ← rescaleScale ch a
    let out := outHdr hs a.comps (a.level - 1) scale
    place L tid t.ctx [(afOf w 0, a)] (afOf w 3) out
    let x ← readComps L (addrLine (afOf w 0)) a
    storeObj L (afOf w 3) [(afOf w 0, a)] out (x.map (rescalePoly ch a.scheme a.logN a.level a.ptmod))

/-- `RESCALE`. -/
def execRescale (sh : Fin 64) (w : Cmd) (s : State) : Out := .next (issue sh (natRescale sh w) w s)

/-- `LVLDROP` of a ciphertext, plaintext or share (R161). -/
def natLvldrop (sh : Fin 64) (w : Cmd) : Native :=
  native (encScheme 0x4A [0, 3] (uImm 5 0)) (immF w 5 0 = 0) fun tid t w => do
    let L := sh.val
    let n := immF w 5 0
    let hs ← heads L tid t.ctx [afOf w 0]
    rows2to5 t hs .any
    step3 hs [.obj] true
    let a := hs.headD (hdrOf 0)
    need (a.scheme ≠ bfv) 0x01 (detail01 3 3 0)
    need (n ≤ a.level) 0x21 (detail21 a.level n)
    let out := outHdr hs a.comps (a.level - n) a.scale
    place L tid t.ctx [(afOf w 0, a)] (afOf w 3) out
    computeObj L (afOf w 3) [(afOf w 0, a)] out (sourceLimb L [(afOf w 0, a)] 0)

/-- `LVLDROP`. -/
def execLvldrop (sh : Fin 64) (w : Cmd) (s : State) : Out := .next (issue sh (natLvldrop sh w) w s)

/-! ## Key switching in one Shell (R158) -/

/-- The chain indices of digit d at level ℓ (R119). -/
def digitOf (h : KeyHdr) (l d : Nat) : List Nat :=
  (List.range (l + 1)).filter fun j => d * h.alpha ≤ j && j < (d + 1) * h.alpha

/-- Raised digit d of a component: its own limbs as they stand, the others converted, by position in E_ℓ. -/
def raiseDigit (ch : Chain) (h : KeyHdr) (l d : Nat) (u : Poly) : List Limb :=
  let own := digitOf h l d
  let rest := (extSet ch l).filter fun j => !own.contains j
  let co := own.map fun j => toCoef ch h.logN (ch.mod j) (u.getD j [])
  let new := rest.zip (bconv (own.map ch.mod) (rest.map ch.mod) co)
  (extSet ch l).map fun j =>
    match tfind new j with
    | some x => toNtt ch h.logN (ch.mod j) x
    | none => u.getD j []

/-- An accumulator over E_ℓ brought down to level ℓ (the sequence behind R140). -/
def lowerAcc (ch : Chain) (logN l : Nat) (y : List Limb) : Poly :=
  let spec := (List.range ch.special).map fun i => ch.mod (ch.cipher + i)
  let low := (List.range (l + 1)).map ch.mod
  let co := (spec.zip (y.drop (l + 1))).map fun z => toCoef ch logN z.1 z.2
  ((low.zip y).zip (bconv spec low co)).map fun z =>
    let m := z.1.1
    (zipLimb (laneSub m) z.1.2 (toNtt ch logN m z.2)).map fun x => laneMul m x (invMod (prodQ spec % m.q) m.q)

/-- The combinations of basis constants that a key switch uses (R106). -/
def noteSwitch (L : Nat) (ch : Chain) (h : KeyHdr) (l : Nat) (s : State) : State :=
  let maskOf := fun (js : List Nat) => js.foldl (fun m j => m ||| 1 <<< j) 0
  let s := (List.range (h.digits l)).foldl (fun s d =>
    let own := digitOf h l d
    let rest := (extSet ch l).filter fun j => !own.contains j
    noteConsts L (h.chain, maskOf own, maskOf rest) (basisConsts (own.map ch.mod) (rest.map ch.mod)) s) s
  let low := List.range (l + 1)
  let spec := (extSet ch l).drop (l + 1)
  noteConsts L (h.chain, maskOf spec, maskOf low) (basisConsts (spec.map ch.mod) (low.map ch.mod)) s

/-- Both halves of one modulus of the inner product (R139 with one item). -/
def switchModulus (m : Modulus) (xs : List Limb) (ps : List (Limb × Limb)) : Limb × Limb :=
  (kipAcc m none (xs.zip (ps.map (·.1))), kipAcc m none (xs.zip (ps.map (·.2))))

/-- The hybrid key switch of one component: (y_0, y_1) at level ℓ. `pair` gives the key's pairs. -/
def keySwitch (ch : Chain) (h : KeyHdr) (l : Nat) (u : Poly) (pair : Nat → Nat → Act (Limb × Limb)) :
    Act (Poly × Poly) := do
  let D := h.digits l
  let raised := (List.range D).map fun d => raiseDigit ch h l d u
  let ys ← (extSet ch l).zipIdx.mapM fun z => do
    let ps ← (List.range D).mapM fun d => pair d z.1
    return switchModulus (ch.mod z.1) (raised.map fun r => r.getD z.2 []) ps
  return (lowerAcc ch h.logN l (ys.map (·.1)), lowerAcc ch h.logN l (ys.map (·.2)))

/-- The pairs of a key read from its memory object. -/
def memoryPair (L c : Nat) (k : FoundKey) (d j : Nat) : Act (Limb × Limb) := do
  return (← dataLimb L c k.slot k.hdr k.chain d j, uniformOf k.hdr k.chain d j)

/-- Sum of two components. -/
def addPoly (ch : Chain) (x y : Poly) : Poly :=
  (x.zip y).zipIdx.map fun z => zipLimb (laneAdd (ch.mod z.2)) z.1.1 z.1.2

def encSwitch (op : Nat) (elem : Bool) : Enc :=
  { encScheme op [0, 2, 3] (uCtl 25 16 ||| (if elem then uImm 17 0 else 0) ||| uOpc 18 0) with parts := [50] }

/-- `RELIN`, `ROTATE` and `KSWITCH` (R158): the checks of R151 with the key identity check, then the key switch through a
stream of the command's own. -/
def switchBody (L kind : Nat) (tid : Nat) (t : Task) (w : Cmd) : Act Flow := do
  let src := afOf w 0
  let g := immF w 17 0
  let slot := cf w 25 16
  let hs ← heads L tid t.ctx [src]
  rows2to5 t hs .ntt
  step3 hs [.ct] true
  let a := hs.headD (hdrOf 0)
  needComps a (if kind = kindRelin then 3 else 2)
  if kind = kindGalois && !galoisOk a.logN g then bad01 3 4
  let s ← get
  if (s.shell L).ks0.isSome && (s.shell L).ks1.isSome then bad01 3 severalFields
  let k ← keyIdentity t slot kind g a.level (some a)
  keySource L tid t slot k none
  let ch := k.chain
  let e := a.level + 1 + ch.special
  let work : Work := { a := afOf w 2, n := opcF w 18 0, needs := (k.hdr.digits a.level + 2) * e * limbLines a.logN }
  let out := outHdr hs 2 a.level a.scale
  place L tid t.ctx [(src, a)] (afOf w 3) out (some work)
  let streamer ← streamerOf t.ctx L k.slot
  if !streamerFree (← get) streamer then return .hold
  let x ← readComps L (addrLine src) a
  let x := if kind = kindGalois then
      x.map fun p => p.zipIdx.map fun z => xformLimb .auto true (ch.mod z.2) ch.maxLogN a.logN g z.1
    else x
  scramble L (addrLine work.a) work.needs
  upd (noteSwitch L ch k.hdr a.level)
  let y ← keySwitch ch k.hdr a.level (x.getLastD []) (memoryPair L t.ctx k)
  upd fun s => if (s.shell L).stroke.begun then s else s.bump (shellCtr L 91) (e * k.hdr.digits a.level)
  let c1 := if kind = kindRelin then addPoly ch (x.getD 1 []) y.2 else y.2
  storeObj L (afOf w 3) [(src, a)] out [addPoly ch (x.headD []) y.1, c1]

/-- `RELIN` (R158). -/
def natRelin (sh : Fin 64) (_ : Cmd) : Native :=
  native (encSwitch 0x46 false) false (fun tid t w => switchBody sh kindRelin tid t w)

/-- `RELIN`. -/
def execRelin (sh : Fin 64) (w : Cmd) (s : State) : Out := .next (issue sh (natRelin sh w) w s)

/-- `ROTATE` (R158, R162). -/
def natRotate (sh : Fin 64) (_ : Cmd) : Native :=
  native (encSwitch 0x47 true) false (fun tid t w => switchBody sh kindGalois tid t w)

/-- `ROTATE`. -/
def execRotate (sh : Fin 64) (w : Cmd) (s : State) : Out := .next (issue sh (natRotate sh w) w s)

/-- `KSWITCH` (R158). -/
def natKswitch (sh : Fin 64) (_ : Cmd) : Native :=
  native (encSwitch 0x48 true) false (fun tid t w => switchBody sh kindSwitch tid t w)

/-- `KSWITCH`. -/
def execKswitch (sh : Fin 64) (w : Cmd) (s : State) : Out := .next (issue sh (natKswitch sh w) w s)

end Sys2Proof.Machine
end

