-- ==== Sys2Proof/Machine/Boot.lean ====
section
/-! DEFINITION. Bootstrapping (05_scheme_operations R167–R178, 08_vector_engine_and_clear_training R272–R273): `BOOT`, the start of its group, and
the pipeline that runs when the block idles. -/

namespace Sys2Proof.Machine

/-! ## The boot plan and its tables (R168–R170, R272) -/

/-- A boot plan's head (R168). -/
structure BootPlan where
  chain : Nat
  logN : Nat
  logSlots : Nat
  top : Nat
  c2s : Nat
  s2c : Nat
  deg : Nat
  dbl : Nat
  encap : Bool
  keys : Nat
  bound : Nat
  scaleIn : Nat
  scaleOut : Nat
  diag : Nat
  coef : Nat
  deriving DecidableEq, Repr

def bootPlanOf (v : Nat) : BootPlan :=
  { chain := bits v 3 0, logN := bits v 8 4, logSlots := bits v 13 9, top := bits v 19 14, c2s := bits v 22 20,
    s2c := bits v 25 23, deg := bits v 33 26, dbl := bits v 36 34, encap := v.testBit 37, keys := bits v 44 38,
    bound := bits v 52 45, scaleIn := bits v 95 64, scaleOut := bits v 127 96, diag := bits v 191 128,
    coef := bits v 255 192 }

/-- The byte offset of a field of the plan that is reserved or out of range (R168). -/
def bootPlanBad (v : Nat) : Option Nat :=
  let p := bootPlanOf v
  match reservedAt v (ones 52 0 ||| ones 255 64) 512 [53, 256] with
  | some b => some b
  | none =>
    if p.logN < 12 || 17 < p.logN then some 0
    else if p.logSlots = 0 || p.logN ≤ p.logSlots then some 1
    else if p.c2s = 0 then some 2
    else if p.s2c = 0 then some 2
    else if p.deg = 0 then some 3
    else if p.keys = 0 || 96 < p.keys then some 4
    else if p.bound = 0 then some 5
    else if p.diag % 64 ≠ 0 then some 16
    else none

/-- A key-table entry (R169). -/
structure BootKey where
  elem : Nat
  kind : Nat
  slot : Nat
  image : Option Nat
  deriving DecidableEq, Repr

def bootKeyOf (v : Nat) : BootKey :=
  { elem := bits v 17 0, kind := bits v 21 18, slot := bits v 31 22,
    image := if bits v 49 32 = 0x3FFFF then none else some (bits v 49 32) }

/-- The byte of a key-table entry that is not valid (R169, R118). -/
def bootKeyBad (v : Nat) : Option Nat :=
  let k := bootKeyOf v
  if bits v 63 50 ≠ 0 then some 6
  else if k.kind = 0 || 3 < k.kind then some 2
  else if k.kind = kindRelin && k.elem ≠ 0 then some 0
  else none

/-- A stage record of the diagonal table (R272). -/
structure BootStage where
  ndiag : Nat
  bs : Nat
  etype : Nat
  stride : Nat
  xexp : Int
  cplx : Bool
  offset : Nat
  deriving DecidableEq, Repr

def bootStageOf (v : Nat) : BootStage :=
  { ndiag := bits v 4 0, bs := bits v 9 5, etype := bits v 13 10, stride := bits v 31 14, xexp := signed 8 (bits v 39 32),
    cplx := v.testBit 40, offset := bits v 127 64 }

/-- A stage record that breaks R272. -/
def bootStageBad (v : Nat) : Bool :=
  let g := bootStageOf v
  bits v 63 41 ≠ 0 || g.ndiag = 0 || g.bs = 0 || 16 < g.bs || (g.etype ≠ 7 && g.etype ≠ 5 && g.etype ≠ 2) ||
    g.stride = 0 || 2 ^ 17 ≤ g.stride || g.offset % 64 ≠ 0

/-- Numbers of k bytes out of a byte string. -/
def bootWords (k : Nat) : Nat → List Byte → List Nat
  | 0, _ => []
  | n + 1, bs => leNat (bs.take k) :: bootWords k n (bs.drop k)

/-- EvalMod's depth without its double-angle steps: m (R175). -/
def BootPlan.m (p : BootPlan) : Nat := ceilLog2 (p.deg + 1)

/-- Levels that the pipeline uses below `lvl_top` (R171). -/
def BootPlan.uses (p : BootPlan) : Nat := p.c2s + p.m + p.dbl + p.s2c

/-- All N/2 slots are in use. -/
def BootPlan.fullSlots (p : BootPlan) : Bool := p.logSlots + 1 = p.logN

/-- The part of stage diagonal k: (g, b) with k − ⌊ndiag/2⌋ = bs × g + b (R273). -/
def stageSplit (g : BootStage) (k : Nat) : Int × Nat :=
  let o : Int := (k : Int) - (g.ndiag / 2 : Nat)
  (o / (g.bs : Int), (o % (g.bs : Int)).toNat)

/-- The giant steps of a stage, ascending (R273). -/
def giantSteps (g : BootStage) : List Int :=
  ((List.range g.ndiag).map fun k => (stageSplit g k).1).eraseDups

/-- The Galois element of a left rotation by o slots (R162, R273). -/
def rotElem (logN : Nat) (o : Int) : Nat :=
  powMod 5 (o % ((2 ^ logN / 2 : Nat) : Int)).toNat (2 * 2 ^ logN)

/-- The elements a stage requires (R273). -/
def stageElems (logN : Nat) (g : BootStage) : List Nat :=
  (List.range g.bs).drop 1 |>.map (fun b => rotElem logN (b * g.stride : Nat)) |>.append
    ((giantSteps g).filter (· ≠ 0) |>.map fun j => rotElem logN (j * (g.bs * g.stride : Nat)))

/-! ## What the pipeline works with -/

/-- A ciphertext on its way: level, tracked scale, two components. The bookkeeping of R173 runs it without residues. -/
structure Ct where
  level : Nat
  scale : Nat
  c0 : Poly
  c1 : Poly
  deriving DecidableEq, Repr

/-- The surroundings of the pipeline; `dry` is the bookkeeping pass, `lane` the place of a ciphertext in the pipeline's
`KIP`s (R177). -/
structure BootEnv where
  dry : Bool
  L : Nat
  tid : Nat
  t : Task
  plan : BootPlan
  ch : Chain
  keyset : Nat
  group : List Nat
  keys : List BootKey
  stages : List BootStage
  coefs : List (Int × Int)
  space : Nat
  lane : Nat

def scaleFault {α : Type} (a b : Nat) : Act α := throw { code := 0x23, detail := detail23 a b }

/-- The key of an entry found and checked under R132 at its opening. -/
def bootKey (e : BootEnv) (k : BootKey) (level : Nat) : Act FoundKey := do
  let obj : Hdr :=
    { scheme := ckks, logN := e.plan.logN, level := level, limbs := level + 1, ext := false, chain := e.plan.chain,
      comps := 2, domain := true, layout := 0, kind := 0, keyset := e.keyset, scale := 0, ptmod := 0 }
  let f ← keyIdentity e.t k.slot k.kind k.elem level (some obj)
  match k.image with
  | none => keySource e.L e.tid e.t k.slot f none
  | some z => e.group.forM fun L => keySource L e.tid e.t k.slot f (some z)
  return f

/-- The image in the group that holds modulus j: the lowest Shell whose mask has it (R142). -/
def imageHolder (e : BootEnv) (z level j : Nat) : Act (Nat × Member) := do
  let ms ← e.group.mapM fun L => do
    let v := leNat (← spRead L (z + 1) 1)
    pure (L, v)
  match ms.find? (fun x => x.2.testBit j && level ≤ bits x.2 69 64) with
  | none => bad01 7 severalFields
  | some x =>
    return (x.1, { sh := x.1, mask := 0, given := 0, used := 0, buf := [], order := 0, closed := false, waits := false,
                   freed := 0, cmd := 0, z0 := z, full := x.2.testBit 72, imask := BitVec.ofNat 64 x.2, ilevel := bits x.2 69 64 })

/-- Items that one `KIP` carries (R177). -/
def kipBatch : Nat := 16

/-- An action whose effects on the state are dropped. -/
def peeked {α : Type} (a : Act α) : Act α := fun s => ((a.go s).1, s)

/-- A pair of an entry's key as its memory object or an image of the group gives it. -/
def bootRead1 (e : BootEnv) (k : BootKey) (f : FoundKey) (level d j : Nat) : Act (Limb × Limb) := do
  match k.image with
  | none => memoryPair e.L e.t.ctx f d j
  | some z =>
    let (L, m) ← imageHolder e z level j
    let line := imageLine f.hdr m d j
    inRange L e.tid e.t.ctx (spAddr L line) (halves m.full * limbLines f.hdr.logN)
    let b ← readLimb L line f.hdr.logN
    let a ← if m.full then readLimb L (line + limbLines f.hdr.logN) f.hdr.logN else pure (uniformOf f.hdr f.chain d j)
    return (b, a)

/-- The Shell of the group that works on modulus j (R177; log 150). -/
def bootShellOf (e : BootEnv) (j : Nat) : Nat := e.group.getD (j % e.group.length) e.L

/-- A pair of an entry's key. The ciphertexts of one `KIP` share its streams, so the first of each batch reads the pair
(R177). -/
def bootPair (e : BootEnv) (k : BootKey) (f : FoundKey) (level d j : Nat) : Act (Limb × Limb) :=
  if e.lane % kipBatch = 0 then do
    let p ← bootRead1 e k f level d j
    upd fun s => s.bump (shellCtr (bootShellOf e j) 91)
    return p
  else peeked (bootRead1 e k f level d j)

/-- The key switch of a component under an entry of the table. -/
def bootSwitch (e : BootEnv) (kind elem level : Nat) (u : Poly) : Act (Poly × Poly) := do
  if e.dry then return ([], [])
  match e.keys.find? (fun k => k.kind = kind && k.elem = elem) with
  | none => throw { code := 0x01, detail := detail01 6 4 severalFields }
  | some k =>
    let f ← if e.lane % kipBatch = 0 then bootKey e k level else peeked (bootKey e k level)
    keySwitch e.ch f.hdr level u (bootPair e k f level)

/-! ## Steps of the pipeline (R80, R172–R175) -/

def Ct.map2 (ch : Chain) (f : Modulus → Nat → Nat → Nat) (x y : Poly) : Poly :=
  (x.zip y).zipIdx.map fun z => zipLimb (f (ch.mod z.2)) z.1.1 z.1.2

/-- `LVLDROP` to a level not above the present one. -/
def Ct.dropTo (l : Nat) (x : Ct) : Ct := { x with level := l, c0 := x.c0.take (l + 1), c1 := x.c1.take (l + 1) }

/-- Two ciphertexts at the lower of their levels (R175 step 5). -/
def align (x y : Ct) : Ct × Ct := (x.dropTo (min x.level y.level), y.dropTo (min x.level y.level))

/-- `HADD` or `HSUB` with the tolerance of R80. -/
def ctAdd (e : BootEnv) (sub : Bool) (x y : Ct) : Act Ct := do
  let (x, y) := align x y
  if e.ch.tol < (x.scale - y.scale) + (y.scale - x.scale) then scaleFault x.scale y.scale
  let f := if sub then laneSub else laneAdd
  return { x with c0 := Ct.map2 e.ch f x.c0 y.c0, c1 := Ct.map2 e.ch f x.c1 y.c1 }

/-- `RESCALE` (R159, R80). -/
def ctRescale (e : BootEnv) (x : Ct) : Act Ct := do
  let l := (e.ch.mod x.level).step
  if x.scale < l then scaleFault x.scale 0
  let f := fun (p : Poly) => if e.dry then [] else rescalePoly e.ch ckks e.plan.logN x.level 0 p
  return { level := x.level - 1, scale := x.scale - l, c0 := f x.c0, c1 := f x.c1 }

/-- The scale of a product under the ceiling of R80. -/
def prodScale (e : BootEnv) (level a b : Nat) : Act Nat := do
  if scaleCeil e.ch level < a + b then scaleFault a b
  return a + b

/-- `HMUL` and `RELIN`. -/
def ctMul (e : BootEnv) (x y : Ct) : Act Ct := do
  let (x, y) := align x y
  let s ← prodScale e x.level x.scale y.scale
  if e.dry then return { x with scale := s }
  let d := hmulLimbs e.ch (x.level + 1) [x.c0, x.c1] [y.c0, y.c1]
  let z ← bootSwitch e kindRelin 0 x.level (d.getD 2 [])
  return { x with scale := s, c0 := addPoly e.ch (d.getD 0 []) z.1, c1 := addPoly e.ch (d.getD 1 []) z.2 }

/-- `ROTATE` with a Galois element. -/
def ctRotate (e : BootEnv) (g : Nat) (x : Ct) : Act Ct := do
  let f := fun (p : Poly) => p.zipIdx.map fun z => autoNtt g (loadLimb (e.ch.mod z.2) z.1)
  let y ← bootSwitch e kindGalois g x.level (f x.c1)
  return { x with c0 := addPoly e.ch (f x.c0) y.1, c1 := y.2 }

/-- `KSWITCH` with an auxiliary index. -/
def ctKswitch (e : BootEnv) (i : Nat) (x : Ct) : Act Ct := do
  let y ← bootSwitch e kindSwitch i x.level x.c1
  return { x with c0 := addPoly e.ch x.c0 y.1, c1 := y.2 }

/-- The integer of a constant μ·2^x at a scale (R175 step 8). -/
def constInt (c : Int × Int) (scale : Nat) : Int :=
  roundScaled (c.1 * deltaFx (scale % 65536)) (c.2 + (scale / 65536 : Nat) - 62) 1

/-- A constant's residue under a modulus. -/
def constRes (m : Modulus) (k : Int) : Nat := (k % (m.q : Int)).toNat

/-- A product with a constant at an encoding scale. -/
def ctMulConst (e : BootEnv) (c : Int × Int) (scale : Nat) (x : Ct) : Act Ct := do
  let s ← prodScale e x.level x.scale scale
  let k := if e.dry then 0 else constInt c scale
  let f := fun (p : Poly) => p.zipIdx.map fun z => z.1.map fun v => laneMul (e.ch.mod z.2) v (constRes (e.ch.mod z.2) k)
  return { x with scale := s, c0 := f x.c0, c1 := f x.c1 }

/-- A constant added or subtracted at a ciphertext's own scale: component 0, every position. -/
def ctAddConst (e : BootEnv) (sub : Bool) (c : Int × Int) (x : Ct) : Ct :=
  let k := if e.dry then 0 else constInt c x.scale
  let f := fun (z : Limb × Nat) =>
    let m := e.ch.mod z.2
    z.1.map fun v => if sub then laneSub m v (constRes m k) else laneAdd m v (constRes m k)
  { x with c0 := x.c0.zipIdx.map f }

/-- A product with i, or with −i (R174). -/
def ctMulI (e : BootEnv) (minus : Bool) (x : Ct) : Ct :=
  let n := 2 ^ e.plan.logN
  let f := fun (z : Limb × Nat) =>
    let m := e.ch.mod z.2
    let psi := psiN m e.ch.maxLogN e.plan.logN
    z.1.zipIdx.map fun v =>
      let w := powMod psi (n / 2 * (2 * v.2 + 1)) m.q
      laneMul m v.1 (if minus then laneNeg m w else w)
  { x with c0 := x.c0.zipIdx.map f, c1 := x.c1.zipIdx.map f }

/-- Sum of several ciphertexts. -/
def ctSum (e : BootEnv) : List Ct → Act (Option Ct)
  | [] => return none
  | x :: r => do return some (← r.foldlM (fun a y => ctAdd e false a y) x)

/-! ## Linear stages (R173, R174, R272, R273) -/

/-- The elements of a vector held as the image of scratchpad lines. -/
def imageElems (etype n : Nat) (xexp : Int) (bs : List Byte) : List (Int × Int) :=
  let v := leNat bs
  (List.range n).map fun i =>
    if etype = 2 then (signed 16 (v >>> (576 * (i / 36) + 16 * (i % 36))), xexp)
    else
      let il := interleaved etype
      let r := i % il
      let w := elemWidth etype
      let line := v >>> (576 * (i / il))
      let at_ := if etype = 5 then 16 + 8 * r else 32 + 4 * r
      (signed w (line >>> at_), ((line >>> (8 * (r / 32))) % 256 : Nat) - 127 + xexp)

/-- Bytes that a vector of a stage takes in the table: whole groups of 8 lines (R272). -/
def vectorBytes (etype n : Nat) : Nat := 576 * ceilDiv (vecLines etype n) 8

/-- log2 of the elements of a stage's vectors: the last CoeffToSlot and the first SlotToCoeff stage of sparse slots span
2S slots (R174). -/
def stageSlots (e : BootEnv) (i : Nat) : Nat :=
  if !e.plan.fullSlots && (i + 1 = e.plan.c2s || i = e.plan.c2s) then e.plan.logSlots + 1 else e.plan.logSlots

/-- Diagonal k of stage i encoded at a scale for the moduli up to a level, by limb. -/
def diagonal (e : BootEnv) (i : Nat) (g : BootStage) (k scale level dv : Nat) : Act Poly := do
  if e.dry then return []
  let logS := stageSlots e i
  let n := 2 ^ logS
  let vb := vectorBytes g.etype n
  let a := e.plan.diag + g.offset + k * vb * (if g.cplx then 2 else 1)
  let re := imageElems g.etype n g.xexp (← readCached e.L e.t.ctx e.space a vb 0)
  let im ← if g.cplx then do pure (imageElems g.etype n g.xexp (← readCached e.L e.t.ctx e.space (a + vb) vb 0)) else pure []
  let ims := im.toArray
  let vs := re.zipIdx.map fun z =>
    let y := ims.getD z.2 (0, 0)
    (fixPart z.1.1 z.1.2, fixPart y.1 y.2)
  let cs := slotCoeffs e.plan.logN logS scale dv vs
  return (List.range (level + 1)).map fun j => encodeLimb (e.ch.mod j) e.ch.maxLogN e.plan.logN cs

/-- A product with a plaintext (R154). -/
def ctMulPlain (e : BootEnv) (p : Poly) (scale : Nat) (x : Ct) : Act Ct := do
  let s ← prodScale e x.level x.scale scale
  return { x with scale := s, c0 := Ct.map2 e.ch laneMul x.c0 p, c1 := Ct.map2 e.ch laneMul x.c1 p }

/-- Stage i: the BSGS transform at an encoding scale, then one rescale (R273). -/
def runStage (e : BootEnv) (i : Nat) (g : BootStage) (scale dv : Nat) (x : Ct) : Act Ct := do
  let babies ← (List.range g.bs).mapM fun b =>
    if b = 0 then pure x else ctRotate e (rotElem e.plan.logN (b * g.stride : Nat)) x
  let parts ← (giantSteps g).mapM fun j => do
    let ks := (List.range g.ndiag).filter fun k => (stageSplit g k).1 = j
    let terms ← ks.mapM fun k => do
      let d ← diagonal e i g k scale x.level dv
      ctMulPlain e d scale (babies.getD (stageSplit g k).2 x)
    let sum := (← ctSum e terms).getD x
    if j = 0 then pure sum else ctRotate e (rotElem e.plan.logN (j * (g.bs * g.stride : Nat))) sum
  ctRescale e ((← ctSum e parts).getD x)

/-- The scale step that the rescale at a level removes. -/
def stepAt (e : BootEnv) (level : Nat) : Nat := (e.ch.mod level).step

/-- The CoeffToSlot stages (R173, R174). -/
def coeffToSlot (e : BootEnv) (x : Ct) : Act Ct :=
  ((e.stages.take e.plan.c2s).zipIdx).foldlM (fun x z =>
    let last := z.2 + 1 = e.plan.c2s
    let dv := if last then (if e.plan.fullSlots then 2 * e.plan.bound else e.plan.bound) else 1
    runStage e z.2 z.1 (stepAt e x.level) dv x) x

/-- The SlotToCoeff stages; the last one's scale brings the output to `scale_out` (R173). -/
def slotToCoeff (e : BootEnv) (x : Ct) : Act Ct :=
  ((e.stages.drop e.plan.c2s).zipIdx).foldlM (fun x z => do
    let last := z.2 + 1 = e.plan.s2c
    let scale ← if last then do
        if e.plan.scaleOut + stepAt e x.level < x.scale then scaleFault x.scale e.plan.scaleOut
        pure (e.plan.scaleOut + stepAt e x.level - x.scale)
      else pure (stepAt e x.level)
    runStage e (e.plan.c2s + z.2) z.1 scale 1 x) x

/-! ## EvalMod (R175) -/

/-- Powers of two T_1, T_2, T_4, … up to 2^(m−1), by exponent. -/
def chebPowers (e : BootEnv) (y : Ct) : Act (List Ct) :=
  (List.range (e.plan.m - 1)).foldlM (fun (ts : List Ct) _ => do
    let t := ts.getLastD y
    let u ← ctMul e t t
    let v ← ctAdd e false u u
    let w ← ctRescale e (ctAddConst e true (1, 0) v)
    return ts ++ [w]) [y]

/-- A polynomial's value on its way: a bare constant, or a ciphertext. -/
inductive Cheb where
  | const (c : Int × Int)
  | ct (x : Ct)
  deriving DecidableEq, Repr

/-- Levels below ℓ_0 at which `scaled(c, k)` lies, or none for a constant; by recursion of n steps (R175 step 3). -/
def scaledDepth : Nat → Nat → Option Nat
  | 0, _ => none
  | n + 1, k =>
    if k = 0 then none
    else if k = 1 then some 1
    else
      let a := 2 ^ (ceilLog2 k - 1)
      let u := max ((scaledDepth n (k - a)).getD 0) (Nat.log2 a) + 1
      some (max u ((scaledDepth n (2 * a - k)).getD 0))

/-- Levels below ℓ_0 at which a polynomial of degree d lies (R175). -/
def polyDepth (b : Nat) : Nat → Nat → Option Nat
  | 0, _ => none
  | n + 1, d =>
    if b ≤ d then
      let p := 2 ^ Nat.log2 d
      let u := max ((polyDepth b n (d - p)).getD 0) (Nat.log2 p) + 1
      some (max u ((polyDepth b n (p - 1)).getD 0))
    else (List.range (d + 1)).foldl (fun m k =>
      match m, scaledDepth 10 k with
      | none, x => x
      | some a, some c => some (max a c)
      | some a, none => some a) none

/-- Twice a constant. -/
def twice (c : Int × Int) : Int × Int := (2 * c.1, c.2)

/-- The difference of two exact binary fractions. -/
def subConst (a b : Int × Int) : Int × Int :=
  let g := min a.2 b.2
  (a.1 * (2 ^ (a.2 - g).toNat : Nat) - b.1 * (2 ^ (b.2 - g).toNat : Nat), g)

/-- The encoding scale that brings a product to a target: target + L − s; a negative one fails row 8 of R171. -/
def targetScale (target l s : Nat) : Act Nat := do
  if target + l < s then scaleFault target s
  return target + l - s

/-- A sum or difference in which either side may be a bare constant. -/
def chebAdd (e : BootEnv) (sub : Bool) (x y : Cheb) : Act Cheb :=
  match x, y with
  | .ct x, .ct y => do return .ct (← ctAdd e sub x y)
  | .ct x, .const c => return .ct (ctAddConst e sub c x)
  | .const c, .ct y => return .ct (ctAddConst e false c (if sub then
      { y with c0 := y.c0.zipIdx.map fun z => z.1.map (laneNeg (e.ch.mod z.2)),
               c1 := y.c1.zipIdx.map fun z => z.1.map (laneNeg (e.ch.mod z.2)) } else y))
  | .const c, .const d => return .const (if sub then subConst c d else subConst c (-d.1, d.2))

/-- The product of a multiplicand with a power T, relinearised and rescaled; a constant multiplicand is encoded at its
target. -/
def chebMul (e : BootEnv) (x : Cheb) (T : Ct) (target : Nat) : Act Ct :=
  match x with
  | .ct x => do ctRescale e (← ctMul e x T)
  | .const c => do
    let s ← targetScale target (stepAt e T.level) T.scale
    ctRescale e (← ctMulConst e c s T)

/-- scaled(c, k) at a target (R175 steps 3 and 6). -/
def scaledCheb (e : BootEnv) (ts : List Ct) (y : Ct) : Nat → (Int × Int) → Nat → Nat → Act Cheb
  | 0, c, _, _ => return .const c
  | n + 1, c, k, target => do
    if k = 0 then return .const c
    if k = 1 then
      let s ← targetScale target (stepAt e y.level) y.scale
      return .ct (← ctRescale e (← ctMulConst e c s y))
    let a := 2 ^ (ceilLog2 k - 1)
    let r := k - a
    let T := ts.getD (Nat.log2 a) y
    let lv := y.level - max ((scaledDepth n r).getD 0) (Nat.log2 a)
    let s ← targetScale target (stepAt e lv) T.scale
    let x ← scaledCheb e ts y n (twice c) r s
    let u ← chebMul e x T target
    chebAdd e true (.ct u) (← scaledCheb e ts y n c (a - r) target)

/-- A polynomial with coefficients g at a target (R175). -/
def chebPoly (e : BootEnv) (ts : List Ct) (y : Ct) (b : Nat) : Nat → List (Int × Int) → Nat → Act Cheb
  | 0, g, _ => return .const (g.headD (0, 0))
  | n + 1, g, target => do
    let d := g.length - 1
    let at_ := fun (k : Nat) => g.getD k (0, 0)
    if b ≤ d then
      let p := 2 ^ Nat.log2 d
      let q := (List.range (d - p + 1)).map fun j => if j = 0 then at_ p else twice (at_ (p + j))
      let r := (List.range p).map fun k => if 2 * p ≤ d + k then subConst (at_ k) (at_ (2 * p - k)) else at_ k
      let T := ts.getD (Nat.log2 p) y
      let lv := y.level - max ((polyDepth b n (d - p)).getD 0) (Nat.log2 p)
      let s ← targetScale target (stepAt e lv) T.scale
      let x ← chebPoly e ts y b n q s
      let u ← chebMul e x T target
      chebAdd e false (.ct u) (← chebPoly e ts y b n r target)
    else
      ((List.range d).map (· + 1)).foldlM (fun acc k => do
        chebAdd e false acc (← scaledCheb e ts y 10 (at_ k) k target)) (.const (at_ 0))

/-- One double-angle step (R175 step 7). -/
def doubleAngle (e : BootEnv) (y : Ct) : Act Ct := do
  let u ← ctMul e y y
  let v ← ctAdd e false u u
  ctRescale e (ctAddConst e true (1, 0) v)

/-- EvalMod on one ciphertext (R172 step 5, R175). -/
def evalMod (e : BootEnv) (y : Ct) : Act Ct := do
  let m := e.plan.m
  let ts ← chebPowers e y
  let z ← chebPoly e ts y (2 ^ ((m + 1) / 2)) 10 e.coefs y.scale
  let w := match z with
    | .ct x => x
    | .const _ => y
  (List.range e.plan.dbl).foldlM (fun x _ => doubleAngle e x) (w.dropTo (min w.level (y.level - m)))

/-! ## The whole pipeline (R172) -/

/-- ModRaise of a level-0 component (R172 step 3). -/
def modRaise (e : BootEnv) (p : Poly) : Poly :=
  if e.dry then []
  else
    let co := toCoef e.ch e.plan.logN (e.ch.mod 0) (p.headD [])
    (List.range (e.plan.top + 1)).map fun j =>
      toNtt e.ch e.plan.logN (e.ch.mod j) (if j = 0 then co else co.map (· % (e.ch.mod j).q))

/-- One item through the six steps of R172; `lane` counts the items, and in EvalMod their halves (R177). -/
def bootItem (e : BootEnv) (x : Ct) : Act Ct := do
  let x := x.dropTo 0
  let x ← if e.plan.encap then ctKswitch e 1 x else pure x
  let x : Ct := { level := e.plan.top, scale := x.scale, c0 := modRaise e x.c0, c1 := modRaise e x.c1 }
  let x ← if e.plan.encap then ctKswitch e 2 x else pure x
  let z ← coeffToSlot e x
  if e.plan.fullSlots then
    let zc ← ctRotate e (2 * 2 ^ e.plan.logN - 1) z
    let re ← evalMod { e with lane := 2 * e.lane } (← ctAdd e false z zc)
    let im ← evalMod { e with lane := 2 * e.lane + 1 } (ctMulI e true (← ctAdd e true z zc))
    slotToCoeff e (← ctAdd e false re (ctMulI e false im))
  else slotToCoeff e (← evalMod e z)

/-! ## The checks of R171 -/

/-- A check of the boot plan that fails with 0x01. -/
def bootBad {α : Type} (row off : Nat) : Act α := throw { code := 0x01, detail := detail01 6 row off }

/-- The Shells of a boot group, by Crew mask. -/
def groupShells (s : State) (crews : BitVec 8) : List Nat :=
  (List.range 64).filter fun L => crews.getLsbD (crewOf L) && !(s.shell L).vacant

/-- Row 1 of R171: the plan, the key table, the diagonal table, the coefficients and the items. The tables lie in the plan's
space, and a misaligned address of an item's object is reported as several fields of the plan (log 151). -/
def bootRead (L tid : Nat) (t : Task) (b : BootOp) (group : List Nat) : Act (BootEnv × List (Nat × Nat)) := do
  if b.plan % 64 ≠ 0 then bootBad 1 severalFields
  if b.list % 64 ≠ 0 then bootBad 1 severalFields
  let v := leNat (← readCached L t.ctx b.planSpace b.plan 64 0)
  match bootPlanBad v with
  | some o => bootBad 1 o
  | none => pure ()
  let p := bootPlanOf v
  let ks := bootWords 8 p.keys (← readCached L t.ctx b.planSpace (b.plan + 64) (8 * p.keys) 0)
  match ks.zipIdx.findSome? (fun z => (bootKeyBad z.1).map (· + 64 + 8 * z.2)) with
  | some o => bootBad 1 o
  | none => pure ()
  let n := p.c2s + p.s2c
  let head := leNat (← readCached L t.ctx b.planSpace p.diag 8 0)
  if head ≠ n then bootBad 1 severalFields
  let gs := bootWords 16 n (← readCached L t.ctx b.planSpace (p.diag + 8) (16 * n) 0)
  if gs.any bootStageBad then bootBad 1 severalFields
  let cs := bootWords 8 (p.deg + 1) (← readCached L t.ctx b.planSpace p.coef (8 * (p.deg + 1)) 0)
  let items := bootWords 16 b.items (← readCached L t.ctx b.listSpace b.list (16 * b.items) 0)
  let items := items.map fun i => (bits i 63 0, bits i 127 64)
  if items.any (fun i => i.1 % 64 ≠ 0 || i.2 % 64 ≠ 0) then bootBad 1 severalFields
  let s ← get
  if group.any (fun L => (tfind (s.shell L).windows 14).isSome || (tfind (s.shell L).windows 15).isSome ||
      (s.shell L).bootWin.isSome) then bootBad 1 severalFields
  return ({ dry := true, L := L, tid := tid, t := t, plan := p, ch := (tfind t.snap p.chain).getD
              { maxLogN := 0, special := 0, tol := 0, mods := [], reg := 0 },
            keyset := 0, group := group, keys := ks.map bootKeyOf, stages := gs.map bootStageOf,
            coefs := cs.map fun c => (signed 48 (bits c 47 0), signed 16 (bits c 63 48)), space := b.planSpace, lane := 0 },
          items)

/-- A resident image of the group lies in range: its head, then the lines that its head says it has (R141, R171 row 5). -/
def bootImage (e : BootEnv) (L z : Nat) : Act Unit := do
  linesIn L e.tid e.t.ctx z 2
  let h := keyHdrOf (leNat ((← spRead L z 1).take 64))
  let v := leNat (← spRead L (z + 1) 1)
  linesIn L e.tid e.t.ctx z
    (2 + popCount (bits v 63 0) 64 * h.digits (bits v 69 64) * halves (v.testBit 72) * limbLines h.logN)

/-- Rows 2 to 5 of R171. -/
def bootRows2to5 (e : BootEnv) (b : BootOp) : Act Unit := do
  let p := e.plan
  need ((tfind e.t.snap p.chain).isSome && p.logN ≤ e.ch.maxLogN && p.top + 1 ≤ e.ch.cipher && 1 ≤ e.ch.special)
    0x22 (detail22 p.chain 2)
  need (p.uses ≤ p.top) 0x21 (detail21 p.top p.uses)
  let has := fun (kind elem : Nat) => e.keys.any fun k => k.kind = kind && k.elem = elem
  let elems := e.stages.flatMap (stageElems p.logN)
  if !has kindRelin 0 then bootBad 4 severalFields
  if !elems.all (has kindGalois) then bootBad 4 severalFields
  if p.fullSlots && !has kindGalois (2 * 2 ^ p.logN - 1) then bootBad 4 severalFields
  if p.encap && !(has kindSwitch 1 && has kindSwitch 2) then bootBad 4 severalFields
  e.group.forM fun L => do
    linesIn L e.tid e.t.ctx b.work b.workLen
    e.keys.forM fun k =>
      match k.image with
      | none => pure ()
      | some z => bootImage e L z

/-- The input of an item, which lies in the list's space, and its header (row 6 of R171; log 151). -/
def bootInput (e : BootEnv) (space a : Nat) : Act Hdr := do
  let v := leNat (← readCached e.L e.t.ctx space a 64 0)
  match hdrBad v with
  | some b => throw { code := 0x01, detail := detail01 3 6 b }
  | none => pure ()
  let h := hdrOf v
  needDomain h true 6
  needFits e.t h
  if h.scheme ≠ ckks || h.kind ≠ 0 || h.comps ≠ 2 || h.ext || h.chain ≠ e.plan.chain || h.logN ≠ e.plan.logN then
    throw { code := 0x01, detail := detail01 3 6 severalFields }
  return h

/-- Bytes of an object in memory (R75). -/
def objBytes (h : Hdr) : Nat := 64 + h.comps * h.limbs * limbSize h.logN

/-- The header of an output (R176). -/
def bootOut (e : BootEnv) : Hdr :=
  { scheme := ckks, logN := e.plan.logN, level := e.plan.top - e.plan.uses, limbs := e.plan.top - e.plan.uses + 1,
    ext := false, chain := e.plan.chain, comps := 2, domain := true, layout := 0, kind := 0, keyset := e.keyset,
    scale := e.plan.scaleOut, ptmod := 0 }

/-- Row 7 of R171. -/
def bootOverlap (out : Nat) (items : List ((Nat × Nat) × Hdr)) : Act Unit :=
  items.zipIdx.forM fun z => items.zipIdx.forM fun y => do
    let o := z.1.1.2
    let i := y.1.1.1
    if !(z.2 = y.2 && o = i) then
      match linesMeet o out i (objBytes y.1.2) with
      | some a => throw { code := 0x03, detail := a }
      | none => pure ()
    if z.2 < y.2 then
      match linesMeet o out y.1.1.2 out with
      | some a => throw { code := 0x03, detail := a }
      | none => pure ()

/-- Row 8 of R171: the input scales, then the bookkeeping of R173. -/
def bootScales (e : BootEnv) (hs : List Hdr) : Act Unit := do
  hs.forM fun h => do
    if e.ch.tol < (h.scale - e.plan.scaleIn) + (e.plan.scaleIn - h.scale) then scaleFault h.scale e.plan.scaleIn
    discard <| bootItem { e with dry := true } { level := h.level, scale := h.scale, c0 := [], c1 := [] }

/-- Every check of R171; the surroundings, the items and their headers. The items are checked one by one, and unequal keysets
give 0x01 (log 151). -/
def bootChecks (L tid : Nat) (t : Task) (b : BootOp) (group : List Nat) :
    Act (BootEnv × List ((Nat × Nat) × Hdr)) := do
  let (e, items) ← bootRead L tid t b group
  bootRows2to5 e b
  let hs ← items.mapM fun i => bootInput e b.listSpace i.1
  let e := { e with keyset := (hs.head?.map (·.keyset)).getD 0 }
  if hs.any (fun h => h.keyset ≠ e.keyset) then throw { code := 0x01, detail := detail01 3 6 8 }
  let its := items.zip hs
  bootOverlap (objBytes (bootOut e)) its
  bootScales e hs
  return (e, its)

/-! ## The command and its execution (R167, R178, R212, R381) -/

def encBoot : Enc :=
  { op := 0x4B, used := uCtl 24 16 ||| uImm 7 0 ||| uOpa 63 0 ||| uOpb 63 0 ||| uOpc 36 0, fields := [], tensor := false }

/-- `BOOT`: the Shell waits for its group (R167). A Crew mask that does not name the Shell's own Crew is rejected
(log 151). -/
def natBoot (sh : Fin 64) (w : Cmd) : Native :=
  native encBoot (cf w 20 16 = 0) fun _ _ w => do
    let space := fun (n : Nat) => n = 1 || n = 2
    if 16 < cf w 20 16 || !space (cf w 22 21) then bad01 1 2
    if !space (cf w 24 23) then bad01 1 2
    if !(w.imm.getLsbD (crewOf sh)) then bad01 1 4
    let b : BootOp :=
      { items := cf w 20 16, planSpace := cf w 22 21, listSpace := cf w 24 23, crews := w.imm.setWidth 8,
        plan := w.opa.toNat, list := w.opb.toNat, work := opcF w 17 0, workLen := opcF w 36 18 }
    upd fun s => s.modShell sh fun x => { x with boot := some b, stroke := { x.stroke with wait := .group } }
    return .wait

/-- `BOOT`. -/
def execBoot (sh : Fin 64) (w : Cmd) (s : State) : Out := .next (issue sh (natBoot sh w) w s)

/-- `BOOT_GROUP_START`: every Shell of the group has issued the command; it makes its checks, reserves window entries 14
and 15 and the catch lines, and runs from here on (R167, R171, R212, R381). -/
def execBootGroupStart (sh : Fin 64) (s : State) : Out :=
  match (s.shell sh).boot, (s.shell sh).holder with
  | some b, some tid =>
    match tfind s.tasks tid with
    | none => .next s
    | some t =>
      let group := groupShells s b.crews
      if t.st ≠ .running || t.frozen || t.bootRun ||
          !group.all (fun L => (s.shell L).boot = some b && (s.shell L).holder = some tid) then .next s
      else match (bootChecks sh tid t b group).go s with
        | (.error f, s') => .next (abortTask tid f sh (s.shell sh).stroke.idx s')
        | (.ok _, s') =>
          let s' := group.foldl (fun s L => s.modShell L fun x => { x with bootWin := some tid }) s'
          .next (s'.modTask tid fun t => { t with bootRun := true })
  | _, _ => .next s

/-- The outputs of a `BOOT`: every limb of every item, then the headers, none before each can be written (R76, R178). -/
def bootStore (L c space : Nat) (out : Hdr) (outs : List (Nat × Ct)) : Act Unit := do
  outs.forM fun z => writeShell L c space (z.1 + 64) ((z.2.c0 ++ z.2.c1).flatMap limbBytes)
  outs.forM fun z => writable (.shell L) c space z.1 64
  outs.forM fun z => writeShell L c space z.1 ((hdrBytes out).take 64)

/-- The work of a `BOOT`: every item through the pipeline, then every output (R172, R178). -/
def bootWork (L tid : Nat) (t : Task) (b : BootOp) (group : List Nat) : Act Unit := do
  let s ← get
  set (group.foldl (fun s L => s.modShell L fun x => { x with bootWin := none }) s)
  let (e, its) ← bootChecks L tid t b group
  group.forM fun L => scramble L b.work b.workLen
  let e := { e with dry := false }
  let outs ← its.zipIdx.mapM fun z => do
    let i := z.1
    let h := i.2
    let limb := fun (c j : Nat) => do
      let a := i.1.1 + 64 + (if h.layout = 0 then c * h.limbs + j else j * h.comps + c) * limbSize h.logN
      pure (bytesLimb (← readCached L t.ctx b.listSpace a (limbSize h.logN) 0))
    let c0 ← limb 0 0
    let c1 ← limb 1 0
    return (i.1.2, ← bootItem { e with lane := z.2 } { level := h.level, scale := h.scale, c0 := [c0], c1 := [c1] })
  bootStore L t.ctx b.listSpace (bootOut e) outs

/-- A Shell of a group whose `BOOT` has completed. -/
def bootShellDone (t : Task) (s : State) (L : Nat) : State :=
  let k := (s.shell L).stroke.idx
  finished L t 0x4B k (goTo L (k + 1) (s.modShell L fun x =>
    { x with boot := none, bootWin := none, stroke := { x.stroke with wait := .none } }))

/-- A `BOOT` has used lines 14 and 15 of its task, with its group as members, for as many generations as its steps took, which
the manual does not state (R381; log 150). -/
def bootLines (tid : Nat) (s : State) : State :=
  let (n, s) := s.drawFree
  evalVigils (fun v => v.task = tid && v.cond = 2 && 14 ≤ v.wline) <| s.modTask tid fun t =>
    { t with lines := [14, 15].foldl (fun ls k =>
        let l := tget CatchLine.reset ls k
        tset ls k { l with g := l.g + BitVec.ofNat 32 (Config.bootRounds n k), flags := 0 }) t.lines }

/-- A running `BOOT` of a task completes, or fails. -/
def finishBoot (s : State) (tid : Nat) (t : Task) : State :=
  if t.st ≠ .running || t.frozen then s
  else match (heldBy s tid).find? (fun L => (s.shell L).bootWin = some tid) with
    | none => s
    | some L =>
      match (s.shell L).boot with
      | none => s
      | some b =>
        let group := groupShells s b.crews
        match (bootWork L tid t b group).go s with
        | (.error f, s') => abortTask tid f L (s.shell L).stroke.idx s'
        | (.ok _, s') => group.foldl (bootShellDone t) (bootLines tid (s'.modTask tid fun t => { t with bootRun := false }))

/-- The commands that run on while nothing is commanded: every started `BOOT` completes (log 1). -/
def finishBoots (s : State) : State :=
  s.tasks.foldl (fun s e => if e.2.bootRun then finishBoot s e.1 e.2 else s) s

end Sys2Proof.Machine
end

