-- ==== Sys2Proof/Machine/Chains.lean ====
section
/-! DEFINITION. Modulus chains: `CHAIN_SET` and `CHAIN_DROP` (02_residue_arithmetic R60–R66). -/

namespace Sys2Proof.Machine

def encChainSet : Enc := { op := 0x30, used := uCtl 17 16 ||| uOpa 63 0, fields := [], tensor := false }
def encChainDrop : Enc := { op := 0x31, used := uCtl 19 16, fields := [], tensor := false }

/-- Used bits of the head and of an entry of a chain descriptor (R61). -/
def chainHeadUsed : Nat := ones 3 0 ||| ones 12 8 ||| ones 22 16 ||| ones 29 24 ||| ones 47 32
def chainEntryUsed : Nat := ones 35 0 ||| ones 99 64

/-- A failing check of a chain descriptor: structure 5, row, byte offset (R62, R568). -/
def chainBad {α : Type} (row off : Nat) : Act α := throw { code := 0x01, detail := detail01 5 row off }

/-- The lowest-numbered entry that fails a check. -/
def firstBad (es : List Nat) (bad : Nat → Nat → Bool) : Option Nat :=
  (es.zipIdx.find? fun z => bad z.1 z.2).map (·.2)

/-- The rows of R62 behind row 1, on the head and the entries of a descriptor whose `count` is not 0. Of two entries with one
modulus the later is the one that row 7 reports (log 146). -/
def chainRows (head : Nat) (es : List Nat) (taken : Bool) : Option (Nat × Nat) :=
  let maxLogN := bits head 12 8
  let count := bits head 22 16
  let special := bits head 29 24
  let q := fun (e : Nat) => bits e 35 0
  let psi := fun (e : Nat) => bits e 99 64
  match reservedAt head chainHeadUsed 512 [4, 13, 23, 30, 48] with
  | some b => some (2, b)
  | none =>
    match es.zipIdx.findSome? (fun z => (reservedAt z.1 chainEntryUsed 128 [36, 100]).map (fun b => 64 + 16 * z.2 + b)) with
    | some b => some (2, b)
    | none =>
      if taken then some (3, 0)
      else if maxLogN < 12 || 17 < maxLogN then some (4, 1)
      else if 64 < count then some (5, 2)
      else if 32 < special then some (5, 3)
      else if count ≤ special then some (5, severalFields)
      else match firstBad es (fun e _ => !admissible maxLogN (q e)) with
        | some i => some (6, 64 + 16 * i)
        | none =>
          match firstBad es (fun e i => (es.take i).any (fun x => q x = q e)) with
          | some i => some (7, 64 + 16 * i)
          | none =>
            match firstBad es (fun e _ => powMod (psi e) (2 ^ maxLogN) (q e) ≠ q e - 1) with
            | some i => some (8, 64 + 16 * i + 8)
            | none => none

/-- The chain that a descriptor registers (R61, R64). -/
def chainFrom (head : Nat) (es : List Nat) (reg : Nat) : Chain :=
  { maxLogN := bits head 12 8, special := bits head 29 24, tol := bits head 47 32,
    mods := es.map (fun e => mkModulus (bits e 35 0) (bits e 99 64)), reg := reg }

/-- n numbers of 16 bytes. -/
def words16 : Nat → List Byte → List Nat
  | 0, _ => []
  | n + 1, bs => leNat (bs.take 16) :: words16 n (bs.drop 16)

/-- A descriptor whose `count` is zero makes the command a no-op (R63, R306). -/
def chainQuiet (L c space a : Nat) (s : State) : Bool :=
  (space = 1 || space = 2) && a % 64 = 0 &&
    match ((readCached L c space a 64 0).go s).1 with
    | .ok bs => bits (leNat bs) 22 16 = 0
    | .error _ => false

/-- `CHAIN_SET`: registers a chain in a slot of the context, and in the task's own snapshot (R61–R65). A misaligned
descriptor address, which is no field of the descriptor, is reported with the offset of several fields (log 146). -/
def natChainSet (sh : Fin 64) (_ : Cmd) : Native :=
  native encChainSet false (quiet := fun _ t w s => chainQuiet sh t.ctx (cf w 17 16) w.opa.toNat s) fun tid t w => plain do
    let L := sh.val
    let space := cf w 17 16
    let a := w.opa.toNat
    if space = 0 || space = 3 then bad01 1 2
    if a % 64 ≠ 0 then chainBad 1 severalFields
    let head := leNat (← readCached L t.ctx space a 64 0)
    let count := bits head 22 16
    let es := words16 count (← readCached L t.ctx space (a + 64) (16 * count) 0)
    let s ← get
    match chainRows head es (tfind (s.ctx t.ctx).chains (bits head 3 0)).isSome with
    | some (row, off) => chainBad row off
    | none =>
      let (reg, s) := s.fresh
      let ch := chainFrom head es reg
      set ((s.modCtx t.ctx fun c => { c with chains := tset c.chains (bits head 3 0) ch }).modTask tid
        fun t => { t with snap := tset t.snap (bits head 3 0) ch })

/-- `CHAIN_SET`. -/
def execChainSet (sh : Fin 64) (w : Cmd) (s : State) : Out := .next (issue sh (natChainSet sh w) w s)

/-- `CHAIN_DROP`: releases a slot, in the task's own snapshot too; tasks admitted earlier keep theirs, and an empty slot is a
no-op (R65, R66). -/
def natChainDrop (_ : Fin 64) (_ : Cmd) : Native :=
  native encChainDrop false fun tid t w => plain do
    let k := cf w 19 16
    upd fun s =>
      if (tfind (s.ctx t.ctx).chains k).isNone then s
      else (s.modCtx t.ctx fun c => { c with chains := tdel c.chains k }).modTask tid
        fun t => { t with snap := tdel t.snap k }

/-- `CHAIN_DROP`. -/
def execChainDrop (sh : Fin 64) (w : Cmd) (s : State) : Out := .next (issue sh (natChainDrop sh w) w s)

end Sys2Proof.Machine
end

