-- ==== Sys2Proof/Machine/Mailbox.lean ====
section
/-! DEFINITION. The mailboxes (15_management_and_live_service R505–R515): submitting and taking a block, its answer, the
word pairs and their announcements, and the frame every mailbox operation runs in. -/

namespace Sys2Proof.Machine

/-! ## Status codes (R514, R562) -/

def stOk : Nat := 0x00
def stBadOpcode : Nat := 0x01
def stBadArg : Nat := 0x02
def stNotSecure : Nat := 0x03
def stNotOwner : Nat := 0x04
def stRefused : Nat := 0x05
def stAuthFail : Nat := 0x06
def stRollback : Nat := 0x07
def stDomainOff : Nat := 0x08
def stAborted : Nat := 0x09
def stRestarted : Nat := 0x0A
def stAccepted : Nat := 0x0B
def stReverted : Nat := 0x0C
def stLost : Nat := 0xFF

/-! ## Opcodes (R515, R561) -/

def mbStatus : Nat := 0x01
def mbSensorRead : Nat := 0x02
def mbLogRead : Nat := 0x03
def mbCfgRead : Nat := 0x04
def mbCfgWrite : Nat := 0x10
def mbFwStage : Nat := 0x20
def mbFwVerify : Nat := 0x21
def mbFwActivate : Nat := 0x22
def mbFwCommit : Nat := 0x23
def mbShellDrain : Nat := 0x30
def mbShellRejoin : Nat := 0x31
def mbUnitReset : Nat := 0x32
def mbPortReset : Nat := 0x34
def mbCalibRun : Nat := 0x40
def mbStageWrite : Nat := 0x80
def mbStageRead : Nat := 0x81
def mbKsInfo : Nat := 0x82
def mbKsImport : Nat := 0x83
def mbKsErase : Nat := 0x84
def mbKsRoll : Nat := 0x85
def mbPkRun : Nat := 0x86
def mbAttest : Nat := 0x87
def mbIdRead : Nat := 0x88

/-- Every opcode that is not reserved (R515, R561). -/
def opcodes : List Nat :=
  [mbStatus, mbSensorRead, mbLogRead, mbCfgRead, mbCfgWrite, mbFwStage, mbFwVerify, mbFwActivate, mbFwCommit,
   mbShellDrain, mbShellRejoin, mbUnitReset, mbPortReset, mbCalibRun, mbStageWrite, mbStageRead, mbKsInfo, mbKsImport,
   mbKsErase, mbKsRoll, mbPkRun, mbAttest, mbIdRead]

/-- What recovery state serves (R542). -/
def recoveryOps : List Nat := [mbStatus, mbLogRead, mbFwStage, mbFwVerify, mbFwActivate]

/-! ## Channels (R505) -/

/-- A channel of the secure set (R505). -/
def chanSecure : Chan → Bool
  | .fn _ _ sec => sec
  | .bmc sec => sec
  | .uart => true

/-- A VF has no secure channel (R505). -/
def chanExists : Chan → Bool
  | .fn _ f sec => isPF f || !sec
  | .bmc _ => true
  | .uart => true

/-- The channel of a number (`chanKey`). -/
def senderOf (k : Nat) : Chan :=
  if k < 128 then .fn (portOf (k / 64)) (Fin.ofNat 32 (k / 2 % 32)) (k % 2 = 1)
  else if k < 130 then .bmc (k % 2 = 1)
  else .uart

/-- The sender's port holds a semaphore; SMBus and UART channels pass (R515). -/
def chanHolds (s : State) (c : Chan) (k : Nat) : Bool :=
  match c with
  | .fn p _ _ => s.holds p k
  | .bmc _ => true
  | .uart => true

/-- A mailbox cause of the channel's function sets; SMBus and UART channels raise no interrupt (R511, R633). -/
def chanCause (c : Chan) (secure nonSecure : Nat) (s : State) : State :=
  match c with
  | .fn p f sec => setCause p f (if sec then secure else nonSecure) s
  | .bmc _ => s
  | .uart => s

/-- Cox serves a channel: it runs and hands nothing over; in recovery state the secure SMBus and UART channels alone
(R528, R542). -/
def serves (s : State) (c : Chan) : Bool :=
  chanExists c && !s.cox.handover &&
    (if s.up.fwRecovery then (match c with
      | .fn _ _ _ => false
      | .bmc sec => sec
      | .uart => true) else s.up.coxUp)

/-! ## Blocks (R506–R509) -/

def blkOpcode (x : Channel) : Nat := mnum x.buf 0 2
def blkLength (x : Channel) : Nat := mnum x.buf 2 2
def blkSeq (x : Channel) : Nat := mnum x.buf 4 2

/-- Payload bytes of a block at most (R506). -/
def payloadMax : Nat := 1008

/-- The payload of a block. -/
def blkPayload (x : Channel) : List Byte := mslice x.buf 16 (min (blkLength x) payloadMax)

/-- The response is placed over the request; then `go` clears and `done` sets (R506–R508). -/
def respond (c : Chan) (st : Nat) (pl : List Byte) (s : State) : State :=
  let s := s.modChan c fun x =>
    { x with buf := mputNum (mputNum (mput x.buf 16 pl) 2 2 pl.length) 6 1 st, go := false, busy := false,
             done := true }
  if (s.chan c).ieDone then chanCause c 1 2 s else s

/-- Cox meets a submitted block: a reserved opcode is answered, its payload ignored (R515), and any other block is
taken when Cox comes to it. -/
def meetBlock (c : Chan) (take : Bool) (s : State) : State :=
  let x := s.chan c
  if !x.go || x.busy || !serves s c then s
  else if !opcodes.contains (blkOpcode x) then respond c stBadOpcode [] s
  else if take then s.modChan c fun x => { x with busy := true }
  else s

/-- The channels, by number, whose blocks wait for Cox. -/
def waitingBlocks (s : State) : List Nat :=
  (s.chans.filter fun e => e.2.go && serves s (senderOf e.1)).map (·.1)

/-- The first channel behind the one served last, and the first of all where none stands behind it. -/
def roundRobin (last : Option Nat) (ks : List Nat) : Option Nat :=
  match last with
  | none => ks.head?
  | some l => match ks.find? fun k => l < k with
    | some k => some k
    | none => ks.head?

/-- The channel whose block Cox works on: the one it has taken, and otherwise the next in round robin over channels, the two
sets in turn where both have blocks waiting (R513). -/
def nextBlock (s : State) : Option Nat :=
  match s.chans.find? fun e => e.2.busy && e.2.go with
  | some e => some e.1
  | none =>
    let ks := waitingBlocks s
    let sec := ks.filter fun k => chanSecure (senderOf k)
    let non := ks.filter fun k => !chanSecure (senderOf k)
    if !sec.isEmpty && (non.isEmpty || !s.cox.lastSecure) then roundRobin s.cox.lastSec sec
    else roundRobin s.cox.lastNon non

/-- It is a channel's turn (R513). -/
def myTurn (s : State) (c : Chan) : Bool := nextBlock s = some (chanKey c)

/-- Cox takes the next block (R508, R513). -/
def takeBlocks (s : State) : State :=
  match nextBlock s with
  | none => s
  | some k => meetBlock (senderOf k) true s

/-- A block is submitted; a further `go` while one is outstanding is lost (R508). -/
def submit (c : Chan) (s : State) : State :=
  if !chanExists c then s
  else if (s.chan c).go then (s.modChan c fun x => { x with wlost := true }).bump (errCtr 23)
  else meetBlock c false (s.modChan c fun x => { x with go := true })

/-- A block that Cox has not taken is answered with `ABORTED` (R509). -/
def abortBlock (c : Chan) (s : State) : State :=
  let x := s.chan c
  if x.go && !x.busy then respond c stAborted [] s else s

/-- `MAILBOX_GO` (R508). -/
def execMailboxGo (c : Chan) (s : State) : Out := .next (submit c s)

/-- `MAILBOX_ABORT` (R509). -/
def execMailboxAbort (c : Chan) (s : State) : Out := .next (abortBlock c s)

/-- The channels of functions (by `fnKey`) that are reset or whose link is down: the response is discarded, and `go` and
`done` read 0 afterwards (R509). -/
def dropBlocks (which : Nat → Bool) (s : State) : State :=
  { s with chans := tmap (fun k x =>
      if k < 128 && which (k / 2) then { x with go := false, done := false, busy := false } else x) s.chans }

/-! ## Word pairs (R510) -/

/-- Announcements that may wait for the word (R510). -/
def wordQueue : Nat := 16

/-- The outbound word is written; it names `LOST` when an announcement was dropped before it (R510). -/
def placeWord (c : Chan) (w : BitVec 32) (s : State) : State :=
  let lost := (s.chan c).lostAnn
  let v := if lost then (w &&& ~~~ 0x00FF0000#32) ||| 0x00FF0000#32 else w
  let s := s.modChan c fun x => { x with outWord := v, outFull := true, lostAnn := false }
  if (s.chan c).ieWord then chanCause c 3 4 s else s

/-- The word that announces the end of a long operation (R510). -/
def annWord (opcode st seq : Nat) : BitVec 32 :=
  BitVec.ofNat 32 (opcode % 2 ^ 16 + 2 ^ 16 * (st % 256) + 2 ^ 24 * (seq % 256))

/-- The end of a long operation is announced on a channel that has a word pair (R505, R510). -/
def announce (c : Chan) (opcode st seq : Nat) (s : State) : State :=
  let w := annWord opcode st seq
  let x := s.chan c
  match c with
  | .fn _ _ _ =>
    if !x.outFull then placeWord c w s
    else if x.queue.length < wordQueue then s.modChan c fun x => { x with queue := x.queue ++ [w] }
    else s.modChan c fun x => { x with lostAnn := true }
  | .bmc _ => s
  | .uart => s

/-- `OUTBOUND_WORD_RELEASE`: writing 1 to `out_full` releases the word, and the next announcement follows (R510). -/
def execOutboundWordRelease (c : Chan) (s : State) : Out :=
  let x := s.chan c
  if !x.outFull then .next s
  else match x.queue with
    | [] => .next (s.modChan c fun x => { x with outFull := false })
    | w :: r => .next (placeWord c w (s.modChan c fun x => { x with outFull := false, queue := r }))

/-- Channels with a word pair: those of the functions (R505). -/
def hasWords (c : Chan) : Bool :=
  match c with
  | .fn _ _ _ => chanExists c
  | .bmc _ => false
  | .uart => false

/-- `INBOUND_WORD_WRITE`: the heartbeat word; one that arrives while `in_full` is 1 is discarded (R510). -/
def execInboundWordWrite (c : Chan) (v : BitVec 32) (s : State) : Out :=
  if !hasWords c then .next s
  else if (s.chan c).inFull then .next ((s.modChan c fun x => { x with inOvf := true }).bump (errCtr 23))
  else .next (s.modChan c fun x => { x with inWord := v, inFull := true })

/-- `INBOUND_WORD_TAKEN`: Cox records the word with its Almanac count and clears `in_full` (R510). -/
def execInboundWordTaken (c : Chan) (s : State) : Out :=
  if !((s.chan c).inFull && serves s c) then .next s
  else
    let s := s.modChan c fun x => { x with heart := some (x.inWord, s.clk.alm), inFull := false }
    .next (if (s.chan c).ieEmpty then chanCause c 5 6 s else s)

/-! ## Operations (R512–R515) -/

/-- What a mailbox operation answers: status, payload and the state after it. -/
structure Answer where
  st : Nat
  pl : List Byte
  s : State

/-- An answer without a payload. -/
def answer (st : Nat) (s : State) : Answer := { st := st, pl := [], s := s }

/-- The set, the semaphore and recovery state, in this order; `stOk` where none of them stands against the operation
(R512, R515, R542). -/
def admits (s : State) (c : Chan) (op : Nat) (sec : Bool) (sem : Option Nat) : Nat :=
  if sec && !chanSecure c then stNotSecure
  else if sem.any fun k => !chanHolds s c k then stNotOwner
  else if s.up.fwRecovery && !recoveryOps.contains op then stRefused
  else if payloadMax < blkLength (s.chan c) then stBadArg
  else stOk

/-- Cox's service of a secure channel appears in the trace as one record with its duration (R579, R580; the time is free,
log 10). -/
def secureTrace (s : State) : State :=
  if traced s.trace 64 0x12 0 then
    let (n, s) := s.drawFree
    offer 64 { alm := s.clk.alm, shell := 0, cox := true, event := 0x12, op := 0, status := 0, idx := 0, ctx := 0, ring := 0,
               dindex := 0, arg := BitVec.ofNat 64 (Config.cycles n) } s
  else s

/-- Cox serves a channel: the turn is noted, and a secure channel's service traced (R513, R580). -/
def serveTurn (c : Chan) (s : State) : State :=
  if chanSecure c then secureTrace { s with cox := { s.cox with lastSecure := true, lastSec := some (chanKey c) } }
  else { s with cox := { s.cox with lastSecure := false, lastNon := some (chanKey c) } }

/-- A mailbox operation of a submitted block of its opcode on a channel that Cox serves and whose turn it is; otherwise
nothing happens. -/
def mailOp (c : Chan) (op : Nat) (sec : Bool) (sem : Option Nat) (body : State → Answer) (s : State) : State :=
  let x := s.chan c
  if !(x.go && blkOpcode x = op && serves s c && myTurn s c) then s
  else
    let s := serveTurn c s
    match admits s c op sec sem with
    | 0 => let a := body s; respond c a.st a.pl a.s
    | n => respond c n [] s

/-- A long operation begins and is answered `ACCEPTED` (R510, R514). -/
def accept (c : Chan) (op : Nat) (act : LongAct) (s : State) : Answer :=
  answer stAccepted { s with cox := { s.cox with
    longOps := s.cox.longOps ++ [{ ch := c, opcode := op, seq := blkSeq (s.chan c), act := act }] } }

/-- A long operation ends and is announced with its status (R510). -/
def endOp (o : LongOp) (st : Nat) (s : State) : State :=
  announce o.ch o.opcode st o.seq { s with cox := { s.cox with longOps := s.cox.longOps.erase o } }

/-- The long operation of an action ends, where one runs. -/
def endLong (act : LongAct) (st : Nat) (s : State) : State :=
  match s.cox.longOps.find? fun o => o.act = act with
  | none => s
  | some o => endOp o st s

end Sys2Proof.Machine
end

