-- ==== Sys2Proof/Machine/Reset.lean ====
section
/-! DEFINITION. What the main domains lose when they power down or a module reset takes them, and what stays
(14_power_supply_thermal R461, R484, 18_startup_and_reset R601, R602). -/

namespace Sys2Proof.Machine

/-- A port without its link: host memory and its translations are the host's, the pin PERST# is outside (R601, R602);
where it is deasserted already, that is before step 2 of the next start (R612). -/
def keepPort (x : PortSt) : PortSt :=
  { PortSt.reset with
      host := x.host, ats := x.ats, perst := x.perst, perstUs := x.perstUs, perstHold := !x.perst }

/-- A stack without its contents: the memory-repair record keeps the channel mapping, the repaired rows and the frames
retired (R396, R425, R427), a stack out of service is wholly out at the next start (R423), and the temperature sensor
reads on. -/
def keepStack (x : Stack) : Stack :=
  let lost := (List.range 64).map fun l => (l, 66)
  { Stack.reset with
      chmap := if x.out then lost else x.chmap, spareUsed := x.spareUsed, rowMap := x.rowMap, retired := x.retired,
      acked := x.retired, out := x.out, temp := x.temp, throttle := x.throttle, req := x.req, refBase := x.refBase }

/-- Supplies, sensors and a dip not yet recorded; every register of the power controller is at reset (R486, R602). -/
def keepPower (x : Power) : Power :=
  { Power.reset with
      feedA := x.feedA, feedB := x.feedB, auxMv := x.auxMv, vin := x.vin, dip := x.dip, sensors := x.sensors,
      hot := x.hot, invalid := x.invalid, reqDie := x.reqDie, lvlDie := x.lvlDie, coolDeci := x.coolDeci,
      coolCeil := x.coolCeil, coolAlert := x.coolAlert, alert := x.alert, tripped := x.tripped }

/-- Module-section counters (R575), which a reset keeps (R601). -/
def keepCounters (t : Tab Nat) : Tab Nat := t.filter fun e => e.1 < 64

/-- Key-store slots bound to no context (R602). -/
def keepSlots (t : Tab KsSlot) : Tab KsSlot := t.filter fun e => (e.2.attr.extractLsb' 24 8).toNat = 0

/-- What Cox was doing for the main domains ends with them. -/
def keepCox (x : Cox) : Cox :=
  { x with longOps := [], unitReset := [], marked := [], corr := [] }

/-- Why a semaphore was released other than by its owner, as the log gives it: its link, a function-level reset, a reset of the
module (R363). -/
def relLink : Nat := 1
def relFlr : Nat := 2
def relReset : Nat := 3

/-- The semaphores that a reset of the module releases are logged (R363, R601). -/
def logReleases (s : State) : State :=
  (List.range 6).foldl (fun s k =>
    match (s.sem k).owner with
    | none => s
    | some p => logEvent 0x0303 0 0 [k, portNum p, relReset] s) s

/-- The main domains lose their state: contexts, tasks, memories, Shells, counters but the module's, semaphores and
register fields (R484, R601, R602). -/
def mainDown (s : State) : State :=
  let s := logReleases s
  { State.reset with
      pending := s.pending, free := s.free, nextId := s.nextId, up := s.up, pwr := keepPower s.pwr,
      clk := { State.reset.clk with now := s.clk.now, refA := s.clk.refA, refB := s.clk.refB },
      portA := keepPort s.portA, portB := keepPort s.portB, stackTab := tmap (fun _ x => keepStack x) s.stackTab,
      ctr := keepCounters s.ctr, cox := keepCox s.cox, svc := s.svc,
      sec := { s.sec with ks := keepSlots s.sec.ks, staging := [] } }

/-- The reset level (R484): every main domain is down, PWR_GOOD is deasserted, and no completion entry is written. -/
def enterResetLevel (s : State) : State :=
  let s := mainDown s
  { s with pwr := { s.pwr with stage := 4 },
           up := { s.up with mainUp := false, ready := .start, memDone := false, shellDone := false, pwrGood := false,
                             resetLevel := true } }

/-- P3V3_AUX is lost (R461, R503, R601): Cox, the log's RAM buffer, the key store and every counter go too. -/
def auxDown (s : State) : State :=
  let s := enterResetLevel s
  { s with up := { StartUp.reset with resetLevel := true }, ctr := [],
           sec := { s.sec with secret := false, ks := [] }, svc := Service.reset,
           cox := { s.cox with running := s.cox.committed, trial := none, verified := false, handover := false,
                               logBuf := [], dropped := 0, snapshot := none, recent := [], inForce := [] } }

end Sys2Proof.Machine
end

