-- ==== Sys2Proof/Machine/Stroke.lean ====
section
/-! DEFINITION. The Stroke core (09_command_streams R285–R304): its stream and buffer, the control commands, hardware
loops, predicated skipping, the start and the end of a stream. -/

namespace Sys2Proof.Machine

/-! ## The stream and the native-stream buffer (R285–R288) -/

/-- `STREAM_FETCH_BLOCK`: the core fetches ahead of execution what its buffer has to hold (R287). -/
def execStreamFetchBlock (sh : Fin 64) (blk : Nat) (s : State) : Out :=
  let x := (s.shell sh).stroke
  match (s.shell sh).holder.bind (tfind s.tasks) with
  | none => .next s
  | some t =>
    let lacks := (List.range' (32 * blk) (min 32 (x.count - 32 * blk))).any fun i =>
      bufWants x i && (tfind x.buf i).isNone
    if x.run && lacks && (tfind x.bufFault blk).isNone then .next (fetchBlock sh t.ctx blk s).2 else .next s

/-- The opcode of the command at an index of the stream; none where its block cannot be read, which a search passes over:
a fault is held against its block until execution comes to it (R287; log 143). -/
def opcodeAt (L c i : Nat) : Act (Option Nat) := do
  let (r, s) := commandAt L c i (← get)
  set s
  return r.map fun r => r.op.toNat

/-! ## Loops (R298–R301) -/

/-- The index of the matching `LEND` at or after i, within n commands and below `count` (R299). -/
def findLend (L c count : Nat) : Nat → Nat → Nat → Act (Option Nat)
  | 0, _, _ => return none
  | n + 1, i, depth => do
    if count ≤ i then return none
    let op ← opcodeAt L c i
    if op = some 0x02 then findLend L c count n (i + 1) (depth + 1)
    else if op = some 0x03 then
      if depth = 0 then return some i else findLend L c count n (i + 1) (depth - 1)
    else findLend L c count n (i + 1) depth

/-- A `LOOP` that finds no `LEND`: a block within its reach that could not be read gives its fault, and otherwise the loop
limit is passed (R299, R301; log 143). -/
def noLend (x : Stroke) : Act Unit :=
  match x.bufFault.find? fun e => (x.idx + 1) / 32 ≤ e.1 && 32 * e.1 < x.idx + bodyMax with
  | some e => throw { code := e.2.1, detail := e.2.2 }
  | none => throw { code := 0x50, detail := 3 }

def encNop : Enc := { op := 0x00, used := 0, fields := [], tensor := false }
def encEnd : Enc := { op := 0x01, used := 0, fields := [], tensor := false }
def encLoop : Enc := { op := 0x02, used := uCtl 18 16 ||| uOpa 47 0 ||| uOpb 47 0, fields := [], tensor := false }
def encLend : Enc := { op := 0x03, used := 0, fields := [], tensor := false }
def encLset : Enc := { op := 0x04, used := uCtl 19 16 ||| uImm 23 0, fields := [], tensor := false }

/-- `NOP` (R294). -/
def natNop (_ : Fin 64) (_ : Cmd) : Native :=
  native encNop false fun _ _ _ => return .done

/-- `NOP`. -/
def execNop (sh : Fin 64) (w : Cmd) (s : State) : Out := .next (issue sh (natNop sh w) w s)

/-- `END`: the core issues nothing more; an open loop is 0x50 (R297, R301). -/
def natEndStream (sh : Fin 64) (_ : Cmd) : Native :=
  native encEnd false fun _ _ _ => do
    let s ← get
    if !(s.shell sh).stroke.loops.isEmpty then throw { code := 0x50, detail := 2 }
    set (modStroke sh (fun x => { x with ended := true }) s)
    return .done

/-- `END`. -/
def execEndStream (sh : Fin 64) (w : Cmd) (s : State) : Out := .next (issue sh (natEndStream sh w) w s)

/-- `LOOP`: opens a loop of the register's value, or passes over its body when that is zero (R299, R301). -/
def natLoop (sh : Fin 64) (_ : Cmd) : Native :=
  native encLoop false fun _ t w => do
    let s ← get
    let x := (s.shell sh).stroke
    match ← findLend sh t.ctx x.count (bodyMax - 1) (x.idx + 1) 0 with
    | none =>
      noLend ((← get).shell sh).stroke
      return .done
    | some e =>
      let n := (tget 0 x.loopReg (cf w 18 16)).toNat
      if n = 0 then return .jump (e + 1)
      if 4 ≤ x.loops.length then throw { code := 0x50, detail := 0 }
      let l : Loop :=
        { start := x.idx + 1, count := n, i := 0, d0 := signed 24 (opaF w 23 0), d1 := signed 24 (opaF w 47 24),
          d2 := signed 24 (opbF w 23 0), d3 := signed 24 (opbF w 47 24) }
      upd (modStroke sh fun x => { x with loops := l :: x.loops })
      return .done

/-- `LOOP`. -/
def execLoop (sh : Fin 64) (w : Cmd) (s : State) : Out := .next (issue sh (natLoop sh w) w s)

/-- `LEND`: the innermost loop repeats or closes (R299, R301). -/
def natLend (sh : Fin 64) (_ : Cmd) : Native :=
  native encLend false fun _ _ _ => do
    let s ← get
    match (s.shell sh).stroke.loops with
    | [] => throw { code := 0x50, detail := 1 }
    | l :: r =>
      if l.i + 1 < l.count then
        set (modStroke sh (fun x => { x with loops := { l with i := l.i + 1 } :: r }) s)
        return .jump l.start
      else
        set (modStroke sh (fun x => { x with loops := r }) s)
        return .done

/-- `LEND`. -/
def execLend (sh : Fin 64) (w : Cmd) (s : State) : Out := .next (issue sh (natLend sh w) w s)

/-- `LSET`: sets a loop register or adds to it modulo 2^24 (R298). -/
def natLset (sh : Fin 64) (_ : Cmd) : Native :=
  native encLset false fun _ _ w => plain do
    let v := BitVec.ofNat 24 (immF w 23 0)
    let j := cf w 18 16
    upd (modStroke sh fun x =>
      { x with loopReg := tset x.loopReg j (if cf w 19 19 = 1 then tget 0 x.loopReg j + v else v) })

/-- `LSET`. -/
def execLset (sh : Fin 64) (w : Cmd) (s : State) : Out := .next (issue sh (natLset sh w) w s)

/-! ## Predicated skipping (R302–R304) -/

def encPtest (cache : Bool) : Enc :=
  { op := 0x06, used := uCtl 21 16 ||| uImm 31 0 ||| (if cache then uOpa 15 0 else uOpa 2 0), fields := [],
    tensor := false }

def encSkip : Enc := { op := 0x07, used := uCtl 19 16 ||| uImm 7 0, fields := [], tensor := false }

/-- The 32-bit element of an operand-cache row (R247). -/
def cacheElem (v : Vec) (row pos : Nat) : Nat := mnum v.rows (1024 * row + 4 * pos) 4

/-- The head of `PTEST` and `SKIP`: outside a stream with `legacy` = 1 the command is rejected (R304). -/
def legacyHead (legacy : Bool) (enc : Enc) (w : Cmd) : Act Unit :=
  if legacy then reservedHead enc w else bad01 1 0

/-- `PTEST`: a flag takes the result of a comparison; only in a stream with `legacy` = 1 (R302, R304). -/
def natPtest (legacy : Bool) (sh : Fin 64) (w : Cmd) : Native :=
  let cache := cf w 21 21 = 1
  native (encPtest cache) false (head := legacyHead legacy (encPtest cache)) fun _ _ w => plain do
    let s ← get
    upd (modStroke sh fun x =>
      let x' := (s.shell sh).vec
      let src := if cache then cacheElem x' (opaF w 7 0) (opaF w 15 8)
        else (tget 0 x.loopReg (opaF w 2 0)).toNat
      { x with pf := setFlag x.pf (cf w 18 16) (testHolds (cf w 20 19) cache src w.imm.toNat) })

/-- `PTEST`. -/
def execPtest (sh : Fin 64) (w : Cmd) (s : State) : Out := .next (issue sh (natPtest (s.shell sh).stroke.legacy sh w) w s)

/-- Whether the commands from i on, n of them, hold a `LOOP`, `LEND` or `END`, or pass the end of the stream (R304). -/
def skipBad (L c count : Nat) : Nat → Nat → Act Bool
  | 0, _ => return false
  | n + 1, i => do
    if count ≤ i then return true
    let op ← opcodeAt L c i
    if op = some 0x01 || op = some 0x02 || op = some 0x03 then return true
    skipBad L c count n (i + 1)

/-- `SKIP`: skips the next commands when the flag equals the polarity bit (R303, R304). -/
def natSkip (legacy : Bool) (sh : Fin 64) (w : Cmd) : Native :=
  native encSkip (legacy && immF w 7 0 = 0) (head := legacyHead legacy encSkip) fun _ t w => plain do
    let s ← get
    let x := (s.shell sh).stroke
    if ← skipBad sh t.ctx x.count (immF w 7 0) (x.idx + 1) then bad01 1 4
    let b := x.pf.getLsbD (cf w 18 16)
    if b = (cf w 19 19 = 1) then upd (modStroke sh fun x => { x with skip := immF w 7 0 })

/-- `SKIP`. -/
def execSkip (sh : Fin 64) (w : Cmd) (s : State) : Out := .next (issue sh (natSkip (s.shell sh).stroke.legacy sh w) w s)

/-! ## Start of a stream (R276, R287, R298, R302, R345, R353, R387) -/

/-- The magic number of a native stream (R285). -/
def strmMagic : Nat := 0x4D525453

/-- Reserved bits of a stream header: [63:56] and [511:128]. -/
def strmUsed : Nat := ones 55 0 ||| ones 127 64

/-- The byte offset of the field of a stream header that fails (R287). -/
def strmBad (v L : Nat) : Option Nat :=
  if bits v 31 0 ≠ strmMagic then some 0
  else match reservedAt v strmUsed 512 [56, 128] with
    | some b => some b
    | none =>
      if bits v 55 50 ≠ L then some 6
      else if !v.testBit 49 && bits v 127 96 ≠ 0 then some 12
      else none

/-- The state of a Shell at the start of a task: operand cache and counters zero, native mode, the task's seed, loop
registers from `args`, flags clear, no stream and no release. -/
def startShell (t : Task) (base v : Nat) (x : Shell) : Shell :=
  { x with
    vec := { Vec.reset with seed := t.seed },
    stroke := { Stroke.reset with run := true, base := base, count := bits v 95 64, legacy := v.testBit 48,
                                  fixedS := v.testBit 49, loopReg := t.args } }

/-- The Stroke core reads and checks its stream's header and begins to issue (R287); the task is `RUNNING` when its
Stroke cores start (R346). -/
def execStrokeCoreStart (sh : Fin 64) (s : State) : Out :=
  match (s.shell sh).holder with
  | none => .next s
  | some tid =>
    match tfind s.tasks tid with
    | none => .next s
    | some t =>
      if t.kind ≠ 1 || t.gate.isSome || t.started.getLsbD sh || (t.st ≠ .admitted && t.st ≠ .running) then .next s
      else
        let act : Act Unit := do
          let off ← readCached sh t.ctx 1 (t.prog + 64 + 8 * sh.val) 8 0
          let base := t.prog + leNat off
          let h ← readCached sh t.ctx 1 base 64 0
          match strmBad (leNat h) sh with
          | some b => throw { code := 0x01, detail := detail01 0 0 b }
          | none => pure ()
          upd fun s => (s.modShell sh (startShell t base (leNat h))).modTask tid fun t =>
            { t with started := t.started ||| (1#64 <<< sh.val) }
          if t.st = .admitted then
            upd fun s => (setTaskState tid .running s).modTask tid fun t => { t with ranSince := s.clk.now }
          if t.preReq then upd (requestPreempt tid)
          upd fun s => traceTask sh t 0x09 0 0 0 t.tAdmit.toNat s
        match act.go s with
        | (.ok _, s) => .next s
        | (.error f, s) => .next (abortTask tid f sh noCmd s)

/-! ## End of a stream (R297, R378) -/

/-- A Shell's stream ends when its `END` has completed, its releases have taken effect and its asynchronous copies have
signalled (R297); from then on the Shell counts as arrived on every line (R378). The task ends when the streams of all
its Shells have ended. -/
def execStreamEnd (sh : Fin 64) (s : State) : Out :=
  let x := s.shell sh
  match x.holder with
  | none => .next s
  | some tid =>
    match tfind s.tasks tid with
    | none => .next s
    | some t =>
      if x.stroke.ended && x.stroke.rel.isEmpty && !pinOpen s sh && copiesCounted s sh && x.asyncIn.isEmpty && x.asyncOut.isEmpty &&
          !t.ended.getLsbD sh && (t.st = .running || t.st = .yielding) then
        let ended := t.ended ||| (1#64 <<< sh.val)
        let s := (modStroke sh (fun x => { x with run := false }) s).modTask tid fun t => { t with ended := ended }
        if ended &&& t.shells = t.shells then
          .next ((setTaskState tid .ending (endFreeze tid s)).modTask tid fun t => { t with preReq := false })
        else .next (evalLines tid s)
      else .next s

end Sys2Proof.Machine
end

