-- ==== Sys2Proof/Machine/Task.lean ====
section
/-! DEFINITION. The life of a task (10_host_interface_and_queues R342–R360, 06_shell_and_scratchpad R213–R216, 09_command_streams R278–R283,
R312–R314): admission, pre-emption, yield and resume, the load service, the end of a task on a Shell, and the completion
entry with its interrupt. -/

namespace Sys2Proof.Machine

/-! ## Rings -/

/-- The ring a task came from. -/
def ringOf (r : TaskRef) : Nat := ringKey r.port r.fn r.ring

/-- Causes of a stop (R637). -/
def stopOverrun : Nat := 1
def stopChead : Nat := 2
def stopFetch : Nat := 3
def stopWrite : Nat := 4
def stopLink : Nat := 5

/-- A ring stops: its error vector is raised and the stop is logged (R359). -/
def stopRing (p : Port) (f r cause index : Nat) (s : State) : State :=
  let k := ringKey p f r
  let s := s.modRing k fun x => { x with stopped := true, cause := cause, sindex := BitVec.ofNat 32 index }
  logEvent 0x0301 5 (s.ring k).ctx.toNat [portNum p, f, r, cause, index] (setCause p f 0 s)

/-- The tasks of a ring, with their numbers. -/
def tasksOf (s : State) (k : Nat) : List (Nat × Task) := s.tasks.filter fun e => ringOf e.2.ref = k

/-- The tasks of a ring that hold a reserved completion entry (R345). -/
def reservedOf (s : State) (k : Nat) : Nat := ((tasksOf s k).filter fun e => e.2.resv && e.2.st ≠ .done).length

/-- The completion queue has a free entry (R344 condition 4). -/
def queueFree (s : State) (k : Nat) : Bool :=
  ((s.ring k).ctail - (s.ring k).chead).toNat + reservedOf s k < 2 ^ (s.ring k).clog.toNat

/-! ## Conditions of admission (R344) -/

/-- The entries of a region list for one Shell. -/
def reqsOn (t : Task) (L : Nat) : List RegReq := t.regs.filter fun r => r.shell = L

/-- Condition 1: every earlier descriptor of the ring has been admitted, and on an ordered ring has completed. -/
def inTurn (s : State) (tid : Nat) (t : Task) : Bool :=
  (tasksOf s (ringOf t.ref)).all fun e =>
    tid ≤ e.1 || (e.2.st ≠ .waiting && (!(s.ring (ringOf t.ref)).ordered || e.2.st = .done))

/-- Whether a Shell can take a task at all: in service and not draining; in maintenance state, and so after a drain, only for
class S (R292, R522, R523). -/
def shellOpen (s : State) (cls : Bool) (L : Nat) : Bool :=
  let x := s.shell L
  !x.vacant && (x.drain = .none || x.drain = .drained) && (!x.maint || cls)

/-- Conditions 3 and 6: the regions of the list meet no region and no cache range, and fit in the free entries. -/
def regionsFit (s : State) (t : Task) : Bool :=
  (setBits t.shells.toNat 64).all fun L =>
    let x := s.shell L
    (reqsOn t L).length ≤ (freeEntries x).length &&
      (reqsOn t L).all fun r => !regionClash x 32 r.base.toNat r.len.toNat

/-- Condition 5 and the mode procedure of R453: admission is open; in recovery for class S only (R599, R600). -/
def admitting (s : State) (cls : Bool) : Bool :=
  s.pwr.stage < 2 && !s.mode.busy && (isReady s || (s.up.ready = .recovery && cls))

/-- The conditions of R344 but for occupied Shells. -/
def canAdmit (s : State) (tid : Nat) (t : Task) : Bool :=
  t.st = .waiting && t.kind ≠ 3 && admitting s t.cls && !(s.ring (ringOf t.ref)).stopped && inTurn s tid t &&
    queueFree s (ringOf t.ref) && (setBits t.shells.toNat 64).all (shellOpen s t.cls) && regionsFit s t

/-- No other task holds a Shell of the task. -/
def shellsFree (s : State) (t : Task) : Bool :=
  (setBits t.shells.toNat 64).all fun L => (s.shell L).holder.isNone

/-- A pre-empted task whose Shells are free, in a mode that lets it run (R283, R351). -/
def resumable (s : State) (t : Task) : Bool :=
  t.st = .preempted && admitting s t.cls && shellsFree s t && (!s.mode.fixed || t.fixedProg || t.kind ≠ 1) &&
    (setBits t.shells.toNat 64).all fun L => !(s.shell L).vacant && ((s.shell L).drain = .none || t.cls ||
      !(s.shell L).maint)

/-- The tasks that hold Shells of a task. -/
def holdersOf (s : State) (t : Task) : List (Nat × Task) :=
  s.tasks.filter fun e => (setBits t.shells.toNat 64).any fun L => (s.shell L).holder = some e.1

/-- A holding task may be pre-empted for Q (R350). -/
def mayPreempt (s : State) (q : Task) (h : Task) : Bool :=
  h.prio < q.prio && h.save ≠ 0 && h.st = .running && 100000 ≤ s.since h.ranSince && (!h.cls || q.cls)

/-- Condition 2 of R344: the Shells of a waiting task are free of other tasks, or can be freed by pre-emption, or are being
freed. -/
def freeable (s : State) (q : Task) : Bool :=
  (holdersOf s q).all fun h => mayPreempt s q h.2 || h.2.st = .yielding

/-- Two tasks share a Shell. -/
def shareShell (a b : Task) : Bool := a.shells &&& b.shells ≠ 0

/-- A waiting task whose conditions hold keeps a Shell it needs from another: one of higher priority goes first (R345), and
Shells freed by a pre-emption are for the task it was requested for (R350). -/
def reserves (s : State) (tid : Nat) (t : Task) (qid : Nat) (q : Task) : Bool :=
  tid ≠ qid && shareShell q t && canAdmit s qid q &&
    ((t.prio < q.prio && freeable s q) || (t.prio ≤ q.prio && q.claim && !t.claim))

/-- A waiting task that R345 may choose: a resumable task of no lower priority that needs its Shells goes first
(R351). -/
def choosable (s : State) (tid : Nat) (t : Task) : Bool :=
  canAdmit s tid t && shellsFree s t &&
    s.tasks.all fun e => !(shareShell e.2 t && t.prio ≤ e.2.prio && resumable s e.2) && !reserves s tid t e.1 e.2

/-! ## Admission (R345, R450) -/

/-- How far a ring of a port stands behind the last ring served, in round robin. -/
def ringTurn (s : State) (t : Task) : Nat := (8 * t.ref.fn.val + t.ref.ring.val + 255 - (s.port t.ref.port).lastRing) % 256

/-- The order of R345: higher priority, then the port not served last, then the next ring of the port. -/
def before (s : State) (a b : Task) : Bool :=
  let rank := fun (t : Task) => (if t.ref.port = s.lastPort then 256 else 0) + ringTurn s t
  b.prio < a.prio || (a.prio = b.prio && rank a < rank b)

/-- The waiting task that is admitted next. -/
def nextAdmitted (s : State) : Option (Nat × Task) :=
  (s.tasks.filter fun e => choosable s e.1 e.2).foldl (fun b e =>
    match b with
    | none => some e
    | some x => if before s e.2 x.2 then some e else some x) none

/-- The task-scoped regions of a list installed into the free entries of their Shells, zeroed (R188, R189). -/
def installRegions (tid ctx : Nat) (rs : List RegReq) (s : State) : State :=
  rs.foldl (fun s r =>
    match freeEntries (s.shell r.shell) with
    | [] => s
    | e :: _ => installRegion r.shell e
        { base := r.base, len := r.len, scope := false, strong := r.strong, ctx := BitVec.ofNat 16 ctx,
          task := some tid, inst := 0 } s) s

/-- A Shell whose task goes keeps nothing of it in its transform unit (R117). -/
def clearUnit (x : Shell) : Shell := { x with limbBuf := ([], []), root := 0, consts := [] }

/-- A Shell begins a task: the cache is invalidated where the context differs from that of its previous task (R204), and
the Stroke core waits for its start. -/
def takeShell (tid ctx : Nat) (s : State) (L : Nat) : State :=
  let s := if (s.shell L).lastCtx = ctx then s else cacheEvent L s
  s.modShell L fun x =>
    clearUnit { x with holder := some tid, lastCtx := ctx, ks0 := none, ks1 := none, boot := none,
                       stroke := { Stroke.reset with loopReg := x.stroke.loopReg } }

/-- The armed gate that holds the next task of a ring (R450). -/
def armedGate (s : State) (r : TaskRef) : Option Nat :=
  ((s.port r.port).gates.find? fun g =>
    g.2.arm && g.2.fn = r.fn.val && g.2.ring = r.ring.val && g.2.task.isNone).map (·.1)

/-- A gate takes the task it holds. -/
def gateTask (tid : Nat) (p : Port) (g : Option Nat) (s : State) : State :=
  match g with
  | none => s
  | some k => s.modPort p fun x =>
      { x with gates := tset x.gates k { tget Gate.reset x.gates k with task := some tid } }

/-- The task fault of a descriptor that never runs: no command, no Shell (R569). -/
def faultOf (f : Flt) : TFault :=
  { code := BitVec.ofNat 8 f.code, detail := BitVec.ofNat 64 f.detail, cmd := BitVec.ofNat 32 noCmd, fshell := 0 }

/-- A waiting task ends without having run. -/
def endWaiting (tid : Nat) (f : Option TFault) (s : State) : State :=
  setTaskState tid .ending (s.modTask tid fun t => { t with fault := f, reported := t.shells, tDue := s.clk.alm })

/-- `TASK_ADMIT`: the waiting task that R345 chooses is admitted. A program that was not loaded with `fixed` = 1 is
refused in fixed mode (R283). -/
def execTaskAdmit (s : State) : Out :=
  match nextAdmitted s with
  | none => .next s
  | some (tid, t) =>
    let s := { s.modPort t.ref.port fun p => { p with lastRing := 8 * t.ref.fn.val + t.ref.ring.val } with
               lastPort := t.ref.port }
    if s.mode.fixed && t.kind = 1 && !t.fixedProg then
      .next (endWaiting tid (some (faultOf { code := 0x01, detail := detail01 1 4 24 })) s)
    else
      let g := armedGate s t.ref
      let snap := (s.ctx t.ctx).chains
      let exact := s.mode.fixed && t.fixedProg
      let s := s.modTask tid fun t =>
        { t with tAdmit := s.clk.alm, resv := true, claim := false, snap := snap, exact := exact, gate := g }
      let s := installRegions tid t.ctx t.regs (setTaskState tid .admitted s)
      .next (gateTask tid t.ref.port g ((setBits t.shells.toNat 64).foldl (takeShell tid t.ctx) s))

/-- `NOP_TASK_COMPLETE`: a NOP completes once every earlier task of its ring has (R342); not on a stopped ring, which takes up
nothing further (R360). -/
def execNopTaskComplete (r : TaskRef) (s : State) : Out :=
  match s.findTask r with
  | none => .next s
  | some (tid, t) =>
    if t.kind = 3 && t.st = .waiting && !(s.ring (ringOf r)).stopped && (tasksOf s (ringOf r)).all (fun e => tid ≤ e.1 || e.2.st = .done) then
      .next (endWaiting tid none s)
    else .next s

/-! ## Pre-emption (R350) -/

/-- `PREEMPT_REQUEST`: the pre-emption of every task that holds a Shell a waiting task needs, all at once, when every
condition of R350 holds. -/
def execPreemptRequest (r : TaskRef) (s : State) : Out :=
  match s.findTask r with
  | none => .next s
  | some (tid, q) =>
    let hs := holdersOf s q
    if canAdmit s tid q && hs.all (fun h => mayPreempt s q h.2) then
      .next (hs.foldl (fun s h => requestPreempt h.1 s) (s.modTask tid fun t => { t with claim := true }))
    else .next s

/-! ## Yield (R312–R314, R144, R212, R341, R387, R388) -/

/-- Bytes of a save slot (R341). -/
def saveSlot : Nat := 278528

/-- The place of a Shell's save slot (R341). -/
def slotAddr (t : Task) (L : Nat) : Nat := t.save + saveSlot * rankOf t.shells.toNat L

/-- A Shell of a yielding task has stopped: its copies are done and counted, its releases have taken effect, no `KEY_PIN` is
in flight, and a command that has begun stands at a yield point (R313, R144). -/
def stopped (s : State) (L : Nat) : Bool :=
  let x := s.shell L
  x.asyncIn.isEmpty && x.asyncOut.isEmpty && copiesCounted s L && x.stroke.rel.isEmpty && !pinOpen s L &&
    (!x.stroke.begun || x.stroke.halted)

/-- A part of a save slot, n bytes long, of which the manual names the items and not the layout (log 62). -/
def savePart (part n : Nat) (items : List Nat) : List Byte := (List.range n).map fun i => Config.saveByte part items i

/-- The vector state (R274): operand cache, lane counters, generator states, seed and mode. -/
def vecItems (v : Vec) : List Nat :=
  [v.seed.toNat, if v.fore then 1 else 0] ++ v.rows.flatMap (fun c => [c.1, c.2.toNat]) ++
    v.lanes.flatMap (fun c => [c.1, c.2.toNat]) ++ v.gens.flatMap fun c => [c.1, c.2.toNat]

/-- The Stroke-core state (R314): the oldest command not completed, the bitmap of completed commands behind it (none, as
commands complete in order), the resume point, the loop stack, the loop registers and the predicate flags. -/
def strokeItems (x : Stroke) : List Nat :=
  [x.idx, 0, x.point] ++
    x.loops.flatMap (fun l => [l.start, l.count, l.i, unsigned 24 l.d0, unsigned 24 l.d1, unsigned 24 l.d2, unsigned 24 l.d3]) ++
    (List.range 8).map (fun j => (tget 0 x.loopReg j).toNat) ++ [x.pf.toNat]

/-- A key-stream record (R144): the open-time header and the next j of the Shell. -/
def streamItems (s : State) (L num : Nat) : List Nat :=
  match streamOf s L num with
  | none => []
  | some (_, x) => x.hdr.toNat :: (x.members.filter fun m => m.sh = L).map (·.used)

/-- Bytes 267,008 and up: 12 bytes for each catch line, then the arming state of the vigils (R388). -/
def lineBytes (t : Task) : List Byte :=
  (List.range 16).flatMap fun k =>
    let l := tget CatchLine.reset t.lines k
    leBytes 4 l.g.toNat ++ leBytes 8 l.flags.toNat

def armingItems (tid : Nat) (s : State) : List Nat :=
  (s.vigils.filter fun v => v.2.task = tid).flatMap fun v => [v.1, if v.2.armed then 1 else 0]

/-- The bytes of a Shell's save slot (R341); the lowest Shell's slot also takes the synchronisation state (R388). -/
def saveSlotBytes (s : State) (tid : Nat) (t : Task) (L : Nat) : List Byte :=
  let x := s.shell L
  savePart 0 266240 (vecItems x.vec) ++ savePart 1 512 (strokeItems x.stroke) ++ savePart 2 128 (streamItems s L 0) ++
    savePart 2 128 (streamItems s L 1) ++
    (if lowBit t.shells.toNat 64 = some L then lineBytes t ++ savePart 3 576 (armingItems tid s) else [])

/-- A Shell's save slot is written (R314, R341). -/
def saveShell (tid : Nat) (t : Task) (L : Nat) : Act Unit := do
  writeShell L t.ctx 1 (slotAddr t L) (saveSlotBytes (← get) tid t L)

/-- A key stream at a yield: each Shell's next j is recorded, and the pairs delivered for later values of j are dropped; a
stream that waits for its set is left, and its command is issued again (R144, R312). -/
def yieldStream (tid : Nat) (x : KStream) : KStream :=
  if x.task ≠ tid then x
  else if x.started then
    { x with members := x.members.map fun m => { m with given := m.used, waits := false, buf := [] }, segs := [] }
  else { x with members := [] }

/-- The streams of a yielding task; one without a member is gone. -/
def yieldStreams (tid : Nat) (s : State) : State :=
  { s with streams := (tmap (fun _ x => yieldStream tid x) s.streams).filter fun e =>
      e.2.task ≠ tid || !e.2.members.isEmpty }

/-- What a waiting command is after a yield: an acquire, a key stream and a boot group that was not complete are asked for
again, a `BOOT` that runs goes on (R312). -/
def yieldWait (bootRuns : Bool) : Wait → Wait
  | .group => if bootRuns then .group else .none
  | _ => .none

/-- A Shell left at a yield, its state saved. -/
def leaveShell (tid : Nat) (bootRuns : Bool) (s : State) (L : Nat) : State :=
  let x := s.shell L
  let boot := if bootRuns then x.boot else none
  let sv : Saved :=
    { stroke := { x.stroke with wait := yieldWait bootRuns x.stroke.wait, halted := false }, vec := x.vec, boot := boot }
  let s := s.modTask tid fun t => { t with saved := tset t.saved L sv }
  parkShell L (s.modShell L fun x =>
    clearUnit { x with holder := none, stroke := Stroke.reset, vec := Vec.reset, ks0 := none, ks1 := none, boot := none })

/-- `TASK_YIELD`: every Shell of the task has stopped; its state is saved and the task is `PREEMPTED` (R313, R314). A
save area that cannot be written aborts the task (R330). -/
def execTaskYield (r : TaskRef) (s : State) : Out :=
  match s.findTask r with
  | none => .next s
  | some (tid, t) =>
    let ls := heldBy s tid
    if t.st = .yielding && ls.all (stopped s) then
      match (ls.forM (saveShell tid t)).go s with
      | (.error f, s) => .next (abortTask tid f 0 noCmd s)
      | (.ok _, s) =>
        let s := traceUnits t 0x04 0x40 ls s
        let s := ls.foldl (leaveShell tid t.bootRun) (yieldStreams tid s)
        let s := { s with vigils := tmap (fun _ v => if v.task = tid then { v with armed := false } else v) s.vigils }
        let s := modDip (fun d => { d with preempted := d.preempted + 1 }) (loseExact tid 8 0 s)
        .next (setTaskState tid .preempted
          (s.modTask tid fun t => { t with yields := min (t.yields + 1) 255, preReq := false, stalled := false }))
    else .next s

/-! ## Resume (R145, R351, R283) -/

/-- The streams that a task has open, with a member on the Shell. -/
def streamOn (s : State) (tid L num : Nat) : Option Nat :=
  (s.streams.find? fun e =>
    e.2.task = tid && e.2.num = num && e.2.members.any fun m => m.sh = L && !m.closed).map (·.1)

/-- The source header of an open stream equals its open-time copy, or the fault 0x20 of the resume check (R145), which is
laid to the command that opened the stream on its first Shell (R569). -/
def recheckStream (c : Nat) (x : KStream) : Act Unit :=
  laidTo ((x.members.head?.map (·.sh)).getD 0) ((x.members.head?.map (·.cmd)).getD noCmd) do
  let v ← match x.image, x.members.head? with
    | some z, some m => do
      let bs ← spRead m.sh z 1
      pure (leNat (bs.take 64))
    | _, _ => do pure (leNat (← readMem .iod c x.space x.addr 64 0))
  need (v = x.hdr.toNat) 0x20 (detail20 x.slot 0 true false)

/-- A saved Shell taken up again. -/
def retakeShell (tid : Nat) (t : Task) (s : State) (L : Nat) : State :=
  match tfind t.saved L with
  | none => s
  | some sv =>
    let s := takeShell tid t.ctx s L
    s.modShell L fun x =>
      { x with vec := sv.vec, boot := sv.boot, stroke := sv.stroke,
               ks0 := streamOn s tid L 0, ks1 := streamOn s tid L 1 }

/-- Whether the task is cycle-exact again from its resume (R455). -/
def exactAgain (s : State) (t : Task) : Bool := s.mode.fixed && t.fixedProg

/-- A pre-empted task running again with its saved state on its Shells. -/
def retaken (tid : Nat) (t : Task) (s : State) : State :=
  let s := (setBits t.shells.toNat 64).foldl (retakeShell tid t) s
  setTaskState tid .running (s.modTask tid fun t =>
    { t with ranSince := s.clk.now, saved := [], exact := exactAgain s t })

/-- What a resume reads: the save slots, and the source header of each open stream (R145, R351). -/
def resumeChecks (tid : Nat) (t : Task) : Act Unit := do
  (setBits t.shells.toNat 64).forM fun L => discard <| readMem (.shell L) t.ctx 1 (slotAddr t L) 267008 0
  ((← get).streams.filter fun e => e.2.task = tid).forM fun e => recheckStream t.ctx e.2

/-- `TASK_RESUME`: a pre-empted task takes up its state on its Shells, and each open stream's header is checked again
(R145, R351, R387). -/
def execTaskResume (r : TaskRef) (s : State) : Out :=
  match s.findTask r with
  | none => .next s
  | some (tid, t) =>
    if resumable s t && s.tasks.all (fun e => !(shareShell e.2 t && t.prio < e.2.prio && canAdmit s e.1 e.2)) then
      match (resumeChecks tid t).go (retaken tid t s) with
      | (.error f, s) => .next (abortLaid tid f 0 noCmd s)
      | (.ok _, s) =>
        let s := traceUnits t 0x05 0 (setBits t.shells.toNat 64) s
        let s := { s with vigils := tmap (fun _ v => if v.task = tid then { v with armed := true } else v) s.vigils }
        .next (resumeTask tid (evalVigils (fun v => v.task = tid) s))
    else .next s

/-! ## The load service (R277–R281) -/

/-- The header of an SPC image (R277). -/
structure SpcHdr where
  fr : Bool
  nops : Nat
  shellsMin : Nat
  length : Nat
  digest : Nat
  deriving DecidableEq, Repr

def spcMagic : Nat := 0x32435053

/-- Bytes of the image file that the running firmware is (R527). -/
def runningImage (s : State) : List Byte :=
  let x := if s.cox.running then s.cox.slotB else s.cox.slotA
  mslice x.image 0 x.len

/-- The running translator's version and the highest minor version it accepts (R625). -/
def translatorOf (s : State) : Nat × Nat := Config.translator (runningImage s)

/-- The byte offset of what row 3 of R279 rejects in an image header. -/
def spcBad (v minor : Nat) : Option Nat :=
  if bits v 31 0 ≠ spcMagic then some 0
  else if bits v 39 32 ≠ 2 then some 4
  else if minor < bits v 47 40 then some 5
  else match reservedAt v (ones 48 0 ||| ones 102 64 ||| ones 511 128) 512 [49, 103] with
    | some b => some b
    | none => if bits v 255 192 < 64 then some 24 else none

/-- A load descriptor (R278). -/
structure LoadDesc where
  image : Nat
  ispace : Nat
  fixed : Bool
  shells : Nat
  store : Nat
  storeKib : Nat
  wkey : Nat
  deriving DecidableEq, Repr

def loadDescOf (v : Nat) : LoadDesc :=
  { image := bits v 63 0, ispace := bits v 65 64, fixed := v.testBit 66, shells := bits v 191 128,
    store := bits v 255 192, storeKib := bits v 287 256, wkey := bits v 303 288 }

/-- Row 8 of R279: the encrypted weights open under the key-store slot named (R536, R550). -/
def openWeights (s : State) (t : Task) (d : LoadDesc) (img : List Byte) : Except Flt (List Byte) :=
  let bad : Flt := { code := 0x01, detail := detail01 8 8 36 }
  if d.wkey = 0xFFFF then (if Config.hasSections img then .error bad else .ok [])
  else if s.up.idLess then .error { code := 0x11, detail := 0 }
  else match tfind s.sec.ks d.wkey with
    | none => .error bad
    | some k =>
      let c := (k.attr.extractLsb' 24 8).toNat
      if !k.attr.getLsbD 16 || (c ≠ 0 && c ≠ t.tctx) || k.attr.getLsbD 32 ≠ (t.ref.port = .B) then
        .error { code := 0x11, detail := 0 }
      else match Config.sectionsOpen k.secret img with
        | some i => .error { code := 0x20, detail := i }
        | none => .ok k.secret

/-- A native stream (R285): its header, its commands, its bank schedule. Only an image with `fr` = 1 gives rise to predicated
skipping (R284). -/
def streamBytes (fr fixed : Bool) (xver L : Nat) (z : Bool × List Byte × List Byte) : List Byte :=
  let n := z.2.1.length / 32
  let hdr := strmMagic + 2 ^ 32 * (xver % 2 ^ 16) + (if fr && z.1 then 2 ^ 48 else 0) + (if fixed then 2 ^ 49 else 0) +
    2 ^ 50 * L + 2 ^ 64 * n + (if fixed then 2 ^ 96 * (64 + 32 * n) else 0)
  leBytes 64 hdr ++ z.2.1.take (32 * n) ++ (if fixed then z.2.2 else [])

/-- The streams one after the other from an offset on, each at a multiple of 64 bytes, with their offsets by Shell. -/
def layStreams : Nat → List (Nat × List Byte) → List (Nat × Nat) × List Byte
  | _, [] => ([], [])
  | off, z :: r =>
    let n := 64 * ceilDiv z.2.length 64
    let rest := layStreams (off + n) r
    ((z.1, off) :: rest.1, z.2 ++ List.replicate (n - z.2.length) 0 ++ rest.2)

/-- The output of a translation (R280): the program record, the offset of each Shell's stream or zero, and the streams. -/
def programBytes (s : State) (d : LoadDesc) (img : List Byte) : List Byte :=
  let v := leNat (img.take 64)
  let xver := (translatorOf s).1
  let streams := (setBits d.shells 64).filterMap fun L =>
    let z := Config.translate img d.shells d.fixed xver L
    if z.2.1.isEmpty then none else some (L, streamBytes (v.testBit 48) d.fixed xver L z)
  let laid := layStreams 576 streams
  (Config.programRecord (bits v 191 128) xver d.fixed streams.length ++ List.replicate 64 0).take 64 ++
    (List.range 64).flatMap (fun L => leBytes 8 (tget 0 laid.1 L)) ++ laid.2

/-- The regions of a program stand clear of each other. -/
def placeApart : List (Nat × Nat × Nat) → Bool
  | [] => true
  | z :: r => r.all (fun y => y.1 ≠ z.1 || y.2.1 + y.2.2 ≤ z.2.1 || z.2.1 + z.2.2 ≤ y.2.1) && placeApart r

/-- The regions of a program fit the named Shells: they meet no region and no cache range, and each Shell has an entry free for
each of its own (R188, R279 row 7). -/
def placeFits (s : State) (mask : Nat) (ps : List (Nat × Nat × Nat)) : Bool :=
  ps.all (fun z => mask.testBit z.1 && !regionClash (s.shell z.1) 32 z.2.1 z.2.2) && placeApart ps &&
    (setBits mask 64).all fun L => (ps.filter fun z => z.1 = L).length ≤ (freeEntries (s.shell L)).length

/-- What the named Shells hold, as the needs of a program meet it. -/
def shellLoads (s : State) (mask : Nat) : List (Nat × Nat × List (Nat × Nat)) :=
  (setBits mask 64).map fun L =>
    (L, (s.shell L).cacheEff.toNat, (s.shell L).regions.map fun e => (e.2.base.toNat, e.2.len.toNat))

/-- Row 7 of R279. -/
def needsOk (s : State) (t : Task) (d : LoadDesc) (img : List Byte) : Bool :=
  Config.needsFit img d.shells (shellLoads s d.shells) ((s.ctx t.tctx).keys.map (·.1)) ((s.ctx t.tctx).chains.map (·.1)) &&
    placeFits s d.shells (Config.placement img d.shells d.fixed (translatorOf s).1)

/-- The checks of R279, and what the load will write (R280). -/
def loadChecks (t : Task) : Act LoadRun := do
  let bs ← readMem .iod t.ctx t.pspace t.prog 64 2
  let v := leNat bs
  match reservedAt v (ones 66 0 ||| ones 303 128) 512 [67, 304] with
  | some b => throw { code := 0x01, detail := detail01 8 1 b }
  | none => pure ()
  let d := loadDescOf v
  if d.ispace ≠ 1 && d.ispace ≠ 2 then throw { code := 0x01, detail := detail01 8 1 8 }
  let h := leNat (← readMem .iod t.ctx d.ispace d.image 64 2)
  match spcBad h (translatorOf (← get)).2 with
  | some b => throw { code := 0x01, detail := detail01 8 3 b }
  | none => pure ()
  let img ← readMem .iod t.ctx d.ispace d.image (bits h 255 192) 2
  if leNat (sha256 (img.drop 64)) ≠ bits h 511 256 then throw { code := 0x01, detail := detail01 8 4 32 }
  if !Config.spcDecodes img then throw { code := 0x01, detail := detail01 8 5 severalFields }
  let s ← get
  let out := programBytes s d img
  let vac := (setBits d.shells 64).any fun L => (s.shell L).vacant
  if popCount d.shells 64 < bits h 102 96 || vac || 1024 * d.storeKib < out.length then
    throw { code := 0x02, detail := d.store }
  oneStack .iod t.ctx 1 d.store (1024 * d.storeKib)
  if !needsOk (← get) t d img then throw { code := 0x02, detail := d.store }
  let secret ← match openWeights s t d img with
    | .error f => throw f
    | .ok k => pure k
  let ps := Config.placement img d.shells d.fixed (translatorOf s).1
  return { point := 0, nops := bits h 95 64, store := d.store, out := out,
           place := ps.zipIdx.map fun z => (z.1.1, z.1.2.1, z.1.2.2, Config.contents img secret d.shells z.2) }

/-- A region of a program installed with the strong code, with its content (R196, R280). -/
def placeRegion (t : Task) (z : Nat × Nat × Nat × List Byte) (s : State) : State :=
  match freeEntries (s.shell z.1) with
  | [] => s
  | e :: _ =>
    spPut z.1 (72 * 64 * z.2.1) (z.2.2.2.take (72 * 64 * z.2.2.1)) (installRegion z.1 e
      { base := BitVec.ofNat 12 z.2.1, len := BitVec.ofNat 13 z.2.2.1, scope := true, strong := true,
        ctx := BitVec.ofNat 16 t.tctx, task := none, inst := 0 } s)

/-- The end of a load: the program store is written, and the regions are installed where they still fit (R279, R280). -/
def loadWork (t : Task) (r : LoadRun) : Act Unit := do
  if !placeFits (← get) (2 ^ 64 - 1) (r.place.map fun z => (z.1, z.2.1, z.2.2.1)) then
    throw { code := 0x02, detail := r.store }
  writeMem .iod t.ctx 1 r.store r.out
  upd fun s => r.place.foldl (fun s z => placeRegion t z s) s

/-- The task ends on its last `END`, or at the end of a load. -/
def taskEnds (tid : Nat) (s : State) : State :=
  setTaskState tid .ending (s.modTask tid fun t => { t with preReq := false })

/-- The load service starts on an admitted LOAD: the checks are made, and the task runs; a pre-emption asked of it before is
taken up (R346, R349). -/
def startLoad (tid : Nat) (t : Task) (s : State) : State :=
  match (loadChecks t).go s with
  | (.error f, s) => abortTask tid f 0 noCmd s
  | (.ok r, s) =>
    let s := setTaskState tid .running (s.modTask tid fun t => { t with load := some r, ranSince := s.clk.now })
    if t.preReq then requestPreempt tid s else s

/-- `LOAD_TASK`: the load service works on a LOAD (R278–R282): it starts an admitted one, carries a running one to its end
from the operation where it stands, and brings one that yields to the end of the operation in hand. -/
def execLoadTask (r : TaskRef) (s : State) : Out :=
  match s.findTask r with
  | none => .next s
  | some (tid, t) =>
    if t.kind ≠ 2 || t.gate.isSome || !coxRuns s && t.st ≠ .yielding then .next s
    else if t.st = .admitted then .next (startLoad tid t s)
    else match t.load with
      | none => .next s
      | some z =>
        if t.st = .running then
          match (loadWork t z).go s with
          | (.ok _, s) => .next (taskEnds tid (s.modTask tid fun t => { t with load := some { z with point := z.nops } }))
          | (.error f, s) => .next (abortTask tid f 0 noCmd s)
        else if t.st = .yielding then
          .next (s.modTask tid fun t => { t with load := some { z with point := min z.nops (z.point + 1) } })
        else .next s

/-! ## The end of a task on a Shell (R213, R215) -/

/-- The task-scoped regions of a task go: zeroed for class T, unchanged for class S. -/
def dropTaskRegions (L tid : Nat) (zero : Bool) (s : State) : State :=
  ((s.shell L).regions.filter fun e => !e.2.scope && e.2.task = some tid).foldl (fun s e =>
    let s := s.modShell L fun x => closeWindowsOf e.2 { x with regions := tdel x.regions e.1 }
    if zero then zeroLines L e.2.line0 e.2.lines s else s) s

/-- The Stroke core of a Shell that a task leaves: a class S task leaves its loop registers (R387). -/
def freeShell (L tid : Nat) (cls : Bool) (s : State) : State :=
  if (s.shell L).holder = some tid then
    parkShell L (s.modShell L fun x =>
      clearUnit { x with holder := none, stroke := { Stroke.reset with loopReg := if cls then x.stroke.loopReg else [] },
                         asyncIn := [], asyncOut := [], ks0 := none, ks1 := none, boot := none })
  else s

/-- The steps of R213 or R215 on one Shell. -/
def endShell (L tid : Nat) (t : Task) (s : State) : State :=
  let s := s.modShell L fun x => { x with windows := x.windows.filter fun w => w.2.task ≠ tid || w.2.keep }
  let s := dropTaskRegions L tid (!t.cls) s
  let s := if t.cls then s else cacheEvent L s
  let code := match t.fault with
    | none => 0
    | some f => f.code.toNat
  let s := traceTask L t 0x0A 0 code (s.shell L).stroke.idx code s
  (freeShell L tid t.cls s).modTask tid fun t => { t with reported := t.reported ||| (1#64 <<< L) }

/-- The counters that a task held: zeroed for class T (R377), released. -/
def freeCounters (tid : Nat) (t : Task) (s : State) : State :=
  let mine := fun (k : Nat) => (counterOf s t.ctx k).holder = some tid
  let s' := s.modCtx t.ctx fun x =>
    { x with cnt := tmap (fun _ c =>
        if c.holder = some tid then { v := if t.cls then c.v else 0, holder := none } else c) x.cnt }
  if t.cls then s' else { s' with inbox := s'.inbox.filter fun u => !(u.ctx = t.ctx && mine u.cnt) }

/-- What goes once every Shell of the task has reported: its counters, catch lines, vigils and streams (R387). -/
def freeSync (tid : Nat) (t : Task) (s : State) : State :=
  let s := endBootWin tid (dropStreams tid (freeCounters tid t s))
  { s with vigils := s.vigils.filter fun e => e.2.task ≠ tid }.modTask tid fun t => { t with lines := [], saved := [] }

/-- The task whose end a Shell has to report: the oldest one that is ending; a task aborted at S3 waits until that stage
is left (R483). -/
def endingOn (s : State) (L : Nat) : Option (Nat × Task) :=
  s.tasks.find? fun e =>
    e.2.st = .ending && e.2.shells.getLsbD L && !e.2.reported.getLsbD L && !(e.2.s3Held && 3 ≤ s.pwr.stage)

/-- `SHELL_END_OF_TASK`: a Shell makes its steps of R213 or R215 and reports. -/
def execShellEndOfTask (sh : Fin 64) (s : State) : Out :=
  match endingOn s sh with
  | none => .next s
  | some (tid, t) =>
    let s := endShell sh tid t s
    match tfind s.tasks tid with
    | none => .next s
    | some t =>
      if t.reported = t.shells then .next ((freeSync tid t s).modTask tid fun t => { t with tDue := s.clk.alm })
      else .next s

/-! ## The completion entry (R354–R360) -/

/-- The counter of a status, in table order (R575). -/
def statusRow (code : Nat) : Nat :=
  ([0x00, 0x01, 0x02, 0x03, 0x04, 0x10, 0x11, 0x20, 0x21, 0x22, 0x23, 0x30, 0x31, 0x32, 0x40, 0x41, 0x42, 0x50, 0x60,
    0xFF].idxOf? code).getD 19

/-- The status of a task that ends (R347). -/
def statusOf (t : Task) : Nat :=
  match t.fault with
  | none => 0
  | some f => f.code.toNat

/-- `dvalid` of a status (R569). -/
def dvalidOf (code : Nat) : Bool := code ≠ 0x00 && code ≠ 0x41 && code ≠ 0x42

/-- A completion entry as a 512-bit number (R354). -/
def entryOf (t : Task) (now : BitVec 64) (x : Ring) : Nat :=
  let f := t.fault.getD { code := 0, detail := 0, cmd := 0, fshell := 0 }
  let code := statusOf t
  code + 2 ^ 8 * t.kind + (if t.cls then 2 ^ 16 else 0) + (if dvalidOf code then 2 ^ 17 else 0) +
    2 ^ 18 * (f.fshell % 64) + 2 ^ 24 * t.yields + 2 ^ 32 * t.ref.index.toNat + 2 ^ 64 * t.tag.toNat +
    2 ^ 128 * t.tAdmit.toNat + 2 ^ 192 * now.toNat + 2 ^ 256 * (t.energyNj / 1000 % 2 ^ 48) +
    2 ^ 320 * f.detail.toNat + 2 ^ 384 * f.cmd.toNat + 2 ^ 416 * x.head.toNat +
    (if x.ctail.getLsbD x.clog.toNat then 2 ^ 511 else 0)

/-- A ring's vector is raised: its count and its timer start again (R358). -/
def raiseRing (r : TaskRef) (s : State) : State :=
  let k := ringOf r
  raise r.port r.fn (s.ring k).vector.toNat (s.modRing k fun x => { x with uncov := 0, uncovSince := none })

/-- An entry written counts towards the interrupt, or raises it (R358). -/
def coverEntry (t : Task) (s : State) : State :=
  let k := ringOf t.ref
  let s := s.modRing k fun x =>
    { x with uncov := x.uncov + 1, uncovSince := some (x.uncovSince.getD s.clk.now) }
  let code := statusOf t
  if t.int || (code ≠ 0x00 && code ≠ 0x40) || (s.ring k).coalCnt.toNat ≤ (s.ring k).uncov then raiseRing t.ref s else s

/-- A task's entry can be written: every Shell has reported, and the queue has an entry for it. -/
def entryDue (s : State) (t : Task) : Bool :=
  t.st = .ending && t.reported = t.shells && (t.resv || queueFree s (ringOf t.ref))

/-- Entries are written in the order in which the tasks ended on all their Shells (R356, R357): of one ring and one Almanac
count the lower ring index first. -/
def entryBefore (aid : Nat) (a : Task) (bid : Nat) (b : Task) : Bool :=
  a.tDue.toNat < b.tDue.toNat || (a.tDue = b.tDue && ringOf a.ref = ringOf b.ref && aid < bid)

/-- `COMPLETION_ENTRY_WRITE`: the entry of a task whose Shells have all reported is written; the task is `DONE`. While the
link is down the entry is discarded and counted (R321); a write that fails stops the ring (R338). A task without a
reserved entry waits for a free one. -/
def execCompletionEntryWrite (r : TaskRef) (s : State) : Out :=
  match s.findTask r with
  | none => .next s
  | some (tid, t) =>
    let k := ringOf r
    let x := s.ring k
    if !entryDue s t || s.tasks.any (fun e => entryDue s e.2 && entryBefore e.1 e.2 tid t) then .next s
    else
      let done := fun (s : State) => setTaskState tid .done (s.bump (errCtr (statusRow (statusOf t))))
      if !(s.port r.port).linkUp then
        .next (done ((s.modRing k fun x => { x with discards := x.discards + 1 }).bump (portCtr r.port 6)))
      else
        let va := x.cbase.toNat + 64 * (x.ctail.toNat % 2 ^ x.clog.toNat)
        match (writeMem .iod t.ctx 2 va (leBytes 64 (entryOf t s.clk.alm x))).go s with
        | (.ok _, s) =>
          let s := (s.modRing k fun x => { x with ctail := x.ctail + 1 }).bump (portCtr r.port 5)
          .next (done (coverEntry t s))
        | (.error _, s) =>
          .next (done (stopRing r.port r.fn r.ring stopWrite x.ctail.toNat (s.bump (portCtr r.port 6))))

/-- `COALESCE_TIMER`: `coal_us` has passed since the first entry that no interrupt covers (R358). -/
def execCoalesceTimer (p : Port) (f : Fin 32) (r : Fin 8) (s : State) : Out :=
  let x := s.ring (ringKey p f r)
  match x.uncovSince with
  | none => .next s
  | some t =>
    if x.coalUs ≠ 0 && 1000 * x.coalUs.toNat ≤ s.since t then
      .next (raiseRing { port := p, fn := f, ring := r, index := 0 } s)
    else .next s

end Sys2Proof.Machine
end

