-- ==== Sys2Proof/Machine/Host.lean ====
section
/-! DEFINITION. The host's side of the ports (10_host_interface_and_queues R317–R363, 20_register_map R629–R638): doorbells, the fetch
of descriptors and their checks, rings, contexts, task aborts, semaphores, the execution mode, host accesses to stacked
memory, translation invalidation, and the training and loss of a link. -/

namespace Sys2Proof.Machine

/-! ## Doorbells (R333–R337) -/

/-- An enabled ring that has not stopped. -/
def ringLive (x : Ring) : Bool := x.active && !x.stopped

/-- `DOORBELL_SNOOP`: a snoop of a ring's doorbell line notifies the port; in snoop delivery only (R336). -/
def execDoorbellSnoop (p : Port) (f : Fin 32) (r : Fin 8) (s : State) : Out :=
  let k := ringKey p f r
  if (s.port p).snoop && ringLive (s.ring k) then
    .next ((s.modRing k fun x => { x with notified := true }).bump (portCtr p 2))
  else .next s

/-- The rings of a port by number. -/
def portRings (p : Port) : List Nat := (List.range 256).map fun i => 256 * portNum p + i

/-- `DOORBELL_POLL`: the port polls every enabled ring's line; in polling delivery only (R337). -/
def execDoorbellPoll (p : Port) (s : State) : Out :=
  if (s.port p).linkUp && !(s.port p).snoop then
    .next (((portRings p).filter fun k => ringLive (s.ring k)).foldl (fun s k =>
      s.modRing k fun x => { x with notified := true }) (s.bump (portCtr p 3)))
  else .next s

/-- `DOORBELL_LINE_READ`: the line returns; the device checks `tail` and `chead` and takes them, or stops the ring
(R335, R338). -/
def execDoorbellLineRead (p : Port) (f : Fin 32) (r : Fin 8) (s : State) : Out :=
  let k := ringKey p f r
  let x := s.ring k
  if !(x.notified && ringLive x) then .next s
  else
    let s := s.modRing k fun x => { x with notified := false }
    match (readMem .iod x.ctx.toNat 2 x.dbl.toNat 64 0).go s with
    | (.error _, s) => .next (stopRing p f r stopFetch x.head.toNat s)
    | (.ok bs, s) =>
      let tail := BitVec.ofNat 32 (leNat (bs.take 4))
      let chead := BitVec.ofNat 32 (leNat ((bs.drop 8).take 4))
      if 2 ^ x.rlog.toNat < (tail - x.head).toNat then .next (stopRing p f r stopOverrun tail.toNat s)
      else if 2 ^ x.clog.toNat < (x.ctail - chead).toNat then .next (stopRing p f r stopChead chead.toNat s)
      else .next (s.modRing k fun x => { x with tail := tail, chead := chead })

/-! ## Descriptors (R338–R343) -/

/-- Fetched descriptors of a ring that stay on chip at most, and slots of one read (R338). -/
def onChip : Nat := 16
def fetchMax : Nat := 8

/-- Used bits of a task descriptor (R339). -/
def taskUsed : Nat := ones 11 0 ||| ones 47 32 ||| ones 589 64 ||| ones 703 640

/-- A task descriptor taken as it stands (R339). -/
def taskOf (ref : TaskRef) (ctx : Nat) (v : Nat) (now : BitVec 64) : Task :=
  let args := (List.range 8).foldl (fun (a : Tab (BitVec 24)) j =>
    let x := BitVec.ofNat 24 (bits v (343 + 24 * j) (320 + 24 * j))
    if x = 0 then a else tset a j x) []
  { ref := ref, ctx := ctx, kind := bits v 7 0, cls := v.testBit 8, prio := bits v 10 9, int := v.testBit 11,
    tctx := bits v 47 32, tag := BitVec.ofNat 64 (bits v 127 64), shells := BitVec.ofNat 64 (bits v 191 128),
    prog := bits v 255 192, pspace := bits v 589 588, seed := BitVec.ofNat 64 (bits v 319 256), args := args,
    regs := [], save := bits v 703 640, st := .waiting, tState := now, tAdmit := 0, yields := 0, frozen := false,
    fault := none, snap := [], started := 0, ended := 0, reported := 0, lines := [], saved := [], ranSince := 0,
    energyNj := 0, exact := false, fixedProg := false, stalled := false, bootRun := false, preReq := false,
    gate := none, s3Held := false, resv := false, load := none, claim := false, tDue := 0 }

/-- Row 1 of R343 beyond the reserved bits; the byte offset of the failing field. -/
def taskBad (v prioMax : Nat) : Option Nat :=
  let kind := bits v 7 0
  let rspace := bits v 587 586
  match reservedAt v taskUsed 1024 [12, 48, 590, 704] with
  | some b => some b
  | none =>
    if prioMax < bits v 10 9 then some 1
    else if kind ≠ 2 && bits v 47 32 ≠ 0 then some 4
    else if kind = 1 && bits v 589 588 ≠ 1 then some 73
    else if kind = 2 && bits v 589 588 ≠ 1 && bits v 589 588 ≠ 2 then some 73
    else if rspace = 3 || (bits v 585 576 ≠ 0 && rspace = 0) then some 73
    else if 512 < bits v 585 576 then some 72
    else if bits v 703 640 % 64 ≠ 0 then some 80
    else none

/-- What a NOP must leave zero: every field but `kind`, `prio`, `int` and `tag` (R342). -/
def nopBad (v : Nat) : Option Nat :=
  match reservedAt v (ones 7 0 ||| ones 11 9 ||| ones 127 64) 1024
      [8, 12, 32, 48, 128, 192, 256, 320, 512, 576, 586, 588, 590, 640, 704] with
  | some b => some b
  | none => none

/-- An entry of a region list (R340). -/
def regReqOf (v : Nat) : RegReq :=
  { shell := bits v 5 0, base := BitVec.ofNat 12 (bits v 17 6), len := BitVec.ofNat 13 (bits v 30 18),
    strong := v.testBit 31 }

/-- The byte offset of what row 5 of R343 rejects in an entry. -/
def regReqBad (shells : BitVec 64) (v : Nat) : Option Nat :=
  match reservedAt v (ones 31 0) 64 [32] with
  | some b => some b
  | none =>
    if !shells.getLsbD (bits v 5 0) then some 0
    else if bits v 30 18 = 0 || 4096 < bits v 30 18 then some 2
    else none

/-- The 8-byte entries of a region list. -/
def regEntries : Nat → List Byte → List Nat
  | 0, _ => []
  | n + 1, bs => leNat (bs.take 8) :: regEntries n (bs.drop 8)

/-- Row 6 of R343 for one Shell: the first entry that overlaps an earlier one, a context-scoped region or the cache
range, or too many entries. -/
def regListClash (x : Shell) : List RegReq → List RegReq → Option RegReq
  | _, [] => none
  | seen, r :: rest =>
    let hit := fun (b l : Nat) => b < r.base.toNat + r.len.toNat && r.base.toNat < b + l
    if 4096 < r.base.toNat + r.len.toNat || cacheFirst x.cacheEff.toNat < 64 * (r.base.toNat + r.len.toNat) ||
        seen.any (fun y => hit y.base.toNat y.len.toNat) ||
        x.regions.any (fun e => e.2.scope && hit e.2.base.toNat e.2.len.toNat) then some r
    else regListClash x (seen ++ [r]) rest

/-- Rows 2 and 3 of R343. -/
def checkClass (t : Task) : Act Unit := do
  let s ← get
  let denied := need false 0x11 0
  if t.cls && !(s.ctx t.ctx).sys then denied
  if t.kind = 2 then
    let c := s.ctx t.tctx
    if !t.cls || !c.live || c.port ≠ t.ref.port || (c.fn ≠ t.ref.fn.val && !isPF t.ref.fn) then denied
  match (setBits t.shells.toNat 64).find? (fun L => (s.shell L).vacant) with
  | some L => throw { code := 0x02, detail := spAddr L 0 }
  | none => pure ()

/-- Row 4 of R343: the program record and the stream table; whether the program was loaded with `fixed` = 1. -/
def checkProgram (t : Task) : Act Bool := do
  let bad : Act Bool := throw { code := 0x01, detail := detail01 1 4 24 }
  let bs ← readMem .iod t.ctx 1 t.prog 576 0
  match Config.readRecord (bs.take 64) with
  | none => bad
  | some fixed =>
    if (setBits t.shells.toNat 64).any fun L => leNat ((bs.drop (64 + 8 * L)).take 8) = 0 then bad
    else if (← get).mode.fixed && !fixed then bad
    else return fixed

/-- Rows 5 and 6 of R343: the region list. -/
def checkRegions (t : Task) (v : Nat) : Act (List RegReq) := do
  let n := bits v 585 576
  if n = 0 then return []
  let bs ← readMem .iod t.ctx (bits v 587 586) (bits v 575 512) (8 * n) 0
  let es := regEntries n bs
  match es.findSome? (regReqBad t.shells) with
  | some b => throw { code := 0x01, detail := detail01 7 5 b }
  | none => pure ()
  let rs := es.map regReqOf
  let s ← get
  (setBits t.shells.toNat 64).forM fun L => do
    let mine := rs.filter fun r => r.shell = L
    match regListClash (s.shell L) [] mine with
    | some r => throw { code := 0x02, detail := spAddr L (64 * r.base.toNat) }
    | none => pure ()
    if 32 < mine.length + ((s.shell L).regions.filter fun e => e.2.scope).length then
      throw { code := 0x02, detail := spAddr L 0 }
  return rs

/-- The checks of R343 on a descriptor of a RUN or LOAD that names Shells; the task as it waits. -/
def checkTask (t : Task) (v prioMax : Nat) : Act Task := do
  match taskBad v prioMax with
  | some b => throw { code := 0x01, detail := detail01 1 1 b }
  | none => pure ()
  checkClass t
  let fixed ← if t.kind = 1 then checkProgram t else pure true
  let rs ← checkRegions t v
  if t.save ≠ 0 then writable .iod t.ctx 1 t.save (saveSlot * popCount t.shells.toNat 64)
  return { t with regs := rs, fixedProg := fixed && t.kind = 1 }

/-- A fetched descriptor becomes a task: waiting, or ending with the fault of its first failing check; a descriptor that
was aborted before its fetch ends with 0x41 (R348), every descriptor in the fatal state with 0xFF (R566), and one of
kind RUN or LOAD that names no Shell with 0x00 (R342). -/
def acceptTask (t : Task) (v prioMax : Nat) (aborted : Bool) (s : State) : State :=
  let (id, s) := s.fresh
  let fail := fun (f : Flt) (s : State) => endWaiting id (some (faultOf f)) (s.setTask id t)
  if aborted then fail { code := 0x41, detail := 0 } s
  else if s.up.ready = .fatal then fail { code := 0xFF, detail := 0x0701 } s
  else if t.kind = 0 || 3 < t.kind then fail { code := 0x01, detail := detail01 1 1 0 } s
  else if t.kind = 3 then
    match nopBad v with
    | some b => fail { code := 0x01, detail := detail01 1 1 b } s
    | none =>
      if prioMax < t.prio then fail { code := 0x01, detail := detail01 1 1 1 } s else s.setTask id t
  else if t.shells = 0 then endWaiting id none (s.setTask id t)
  else match (checkTask t v prioMax).go s with
    | (.ok t, s) => s.setTask id t
    | (.error f, s) => fail f s

/-- How many descriptors the next read of a ring's slots fetches (R338). -/
def fetchCount (s : State) (k : Nat) : Nat :=
  let x := s.ring k
  let held := ((tasksOf s k).filter fun e => e.2.st = .waiting).length
  let size := 2 ^ x.rlog.toNat
  min (min fetchMax (x.tail - x.head).toNat) (min (onChip - held) (size - x.head.toNat % size))

/-- Descriptors of a fetch, one after the other; `head` passes each. -/
def acceptAll (p : Port) (f : Fin 32) (r : Fin 8) : Nat → List Byte → State → State
  | 0, _, s => s
  | n + 1, bs, s =>
    let k := ringKey p f r
    let x := s.ring k
    let v := leNat (bs.take 128)
    let t := taskOf { port := p, fn := f, ring := r, index := x.head } x.ctx.toNat v s.clk.alm
    let s := s.setRing k { x with head := x.head + 1, aborts := x.aborts.filter (· ≠ x.head) }
    acceptAll p f r n (bs.drop 128)
      ((acceptTask t v x.prioMax.toNat (x.aborts.contains x.head) s).bump (portCtr p 4))

/-- `DESCRIPTOR_FETCH`: the descriptors of one read arrive and are checked (R338, R343). -/
def execDescriptorFetch (p : Port) (f : Fin 32) (r : Fin 8) (s : State) : Out :=
  let k := ringKey p f r
  let x := s.ring k
  let n := fetchCount s k
  if !ringLive x || n = 0 then .next s
  else
    let va := x.rbase.toNat + 128 * (x.head.toNat % 2 ^ x.rlog.toNat)
    match (readMem .iod x.ctx.toNat 2 va (128 * n) 0).go s with
    | (.error _, s) => .next (stopRing p f r stopFetch x.head.toNat s)
    | (.ok bs, s) => .next (acceptAll p f r n bs s)

/-! ## Rings (R331, R332, R638) -/

/-- A parameter of a ring outside its range (R331). -/
def ringRange (x : Ring) : Bool :=
  x.rbase.toNat % 4096 ≠ 0 || x.cbase.toNat % 4096 ≠ 0 || x.dbl.toNat % 64 ≠ 0 || x.rlog.toNat < 4 ||
    16 < x.rlog.toNat || x.clog.toNat < 4 || 16 < x.clog.toNat || x.coalCnt = 0 || 256 < x.coalCnt.toNat

/-- Why enabling a ring is refused (R332, R637); 0: it is not. -/
def ringRefusal (s : State) (p : Port) (f r : Nat) : Nat :=
  let k := ringKey p f r
  let x := s.ring k
  if !seesCtx (s.ctx x.ctx.toNat) p f then 1
  else if ringRange x then 2
  else if (portRings p).any fun j => j ≠ k && (s.ring j).active && (s.ring j).dbl = x.dbl then 3
  else 0

/-- `RING_ENABLE`: `en` = 1 is written (R332, R638); a ring that is enabled stays as it is. The entries that no interrupt
covers yet keep their count and timer (R358). -/
def execRingEnable (p : Port) (f : Fin 32) (r : Fin 8) (s : State) : Out :=
  let k := ringKey p f r
  if (s.ring k).active then .next s
  else match ringRefusal s p f r with
    | 0 => .next (s.modRing k fun x =>
        { x with en := true, active := true, refuse := 0, stopped := false, cause := 0, head := x.head0,
                 ctail := x.ctail0, tail := x.head0, chead := x.ctail0, notified := true, aborts := [] })
    | n => .next (s.modRing k fun x => { x with refuse := n })

/-- `RING_DISABLE`: `en` = 0 is written; fetching stops at once (R638). -/
def execRingDisable (p : Port) (f : Fin 32) (r : Fin 8) (s : State) : Out :=
  .next (s.modRing (ringKey p f r) fun x => { x with en := false, active := false, notified := false })

/-- `TASK_ABORT_CONTROL` (R348): a task that waits, is pre-empted or runs ends with 0x41, one that is ending is left, and
a descriptor that is not fetched yet is noted. -/
def execTaskAbortControl (p : Port) (f : Fin 32) (r : Fin 8) (index : BitVec 32) (s : State) : Out :=
  let k := ringKey p f r
  let s := s.modFn (fnKey p f) fun x => { x with abRing := BitVec.ofNat 3 r.val }
  match s.findTask { port := p, fn := f, ring := r, index := index } with
  | some (tid, t) =>
    if t.st = .ending then .next s else .next (abortTask tid { code := 0x41, detail := 0 } 0 noCmd s)
  | none =>
    let x := s.ring k
    if x.active && (index - x.head).toNat < 2 ^ 31 && !x.aborts.contains index then
      .next (s.setRing k { x with aborts := x.aborts ++ [index] })
    else .next s

/-! ## Contexts (R323–R325, R328, R632) -/

def ctxDone : Nat := 2
def ctxRefusedId : Nat := 3
def ctxRefusedQuota : Nat := 4
def ctxRefusedBusy : Nat := 5
def ctxRefusedOwner : Nat := 6

/-- What a context command reports. -/
def setCtxSt (p : Port) (f id st : Nat) (s : State) : State :=
  s.modFn (fnKey p f) fun x => { x with ctxId := BitVec.ofNat 8 id, ctxSt := st }

/-- The quota of a VF (R632). -/
def quotaOf (s : State) (p : Port) (f : Nat) : Nat := bits (s.port p).quota.toNat (8 * f + 7) (8 * f)

/-- Live contexts of a function. -/
def ctxCount (s : State) (p : Port) (f : Nat) : Nat := (s.ctxs.filter fun c => seesCtx c.2 p f).length

/-- `CTX_CREATE` (R323, R632). -/
def execCtxCreate (p : Port) (f : Fin 32) (id : Fin 256) (s : State) : Out :=
  if id.val = 0 || (s.ctx id).live then .next (setCtxSt p f id ctxRefusedId s)
  else if !isPF f && quotaOf s p f ≤ ctxCount s p f then .next (setCtxSt p f id ctxRefusedQuota s)
  else .next (setCtxSt p f id ctxDone (s.setCtx id { Ctx.reset with live := true, port := p, fn := f.val }))

/-- The key store erases the slots that a test picks (R547, R548). -/
def eraseSlots (p : KsSlot → Bool) (s : State) : State :=
  { s with sec := { s.sec with ks := s.sec.ks.filter fun e => !p e.2 } }

/-- The context a key-store slot is bound to, and its port (R544). -/
def KsSlot.ctx (k : KsSlot) : Nat := (k.attr.extractLsb' 24 8).toNat
def KsSlot.port (k : KsSlot) : Port := if k.attr.getLsbD 32 then .B else .A

/-- A context's regions, windows and handles leave one Shell (R214, R325). -/
def clearCtxShell (c : Nat) (s : State) (L : Nat) : State :=
  let s := ((s.shell L).regions.filter fun e => e.2.scope && e.2.ctx.toNat = c).foldl
    (fun s e => removeRegion L e.1 s) s
  s.modShell L fun x =>
    { x with windows := x.windows.filter fun w => w.2.ctx ≠ c, handles := x.handles.filter fun h => h.2.ctx ≠ c }

/-- A context is destroyed with everything it owns (R325, R548). -/
def destroyCtx (c : Nat) (s : State) : State :=
  let s := (s.shells.map (·.1)).foldl (clearCtxShell c) s
  let s := eraseSlots (fun k => k.ctx = c) s
  { s with ctxs := tdel s.ctxs c, inbox := s.inbox.filter fun u => u.ctx ≠ c }

/-- A ring bound to a context is enabled, or a task of it has not ended (R325). -/
def ctxBusy (s : State) (c : Nat) : Bool :=
  (s.rings.any fun e => e.2.active && e.2.ctx.toNat = c) || s.tasks.any fun e => e.2.ctx = c && e.2.st ≠ .done

/-- `CTX_DESTROY` (R325, R632). -/
def execCtxDestroy (p : Port) (f : Fin 32) (id : Fin 256) (s : State) : Out :=
  if !(s.ctx id).live then .next (setCtxSt p f id ctxRefusedId s)
  else if !seesCtx (s.ctx id) p f then .next (setCtxSt p f id ctxRefusedOwner s)
  else if ctxBusy s id then .next (setCtxSt p f id ctxRefusedBusy s)
  else .next (setCtxSt p f id ctxDone (destroyCtx id s))

/-- `CTX_TLB_INVALIDATE` (R328, R632). -/
def execCtxTlbInvalidate (p : Port) (f : Fin 32) (id : Fin 256) (s : State) : Out :=
  if !(s.ctx id).live then .next (setCtxSt p f id ctxRefusedId s)
  else if !seesCtx (s.ctx id) p f then .next (setCtxSt p f id ctxRefusedOwner s)
  else .next (setCtxSt p f id ctxDone (s.modCtx id fun x => { x with tlb := [] }))

/-- The sum of the quotas of the VFs (R323). -/
def quotaSum (q : BitVec 256) : Nat :=
  (List.range 31).foldl (fun a v => a + bits q.toNat (8 * (v + 1) + 7) (8 * (v + 1))) 0

/-- `QUOTA_WRITE`: eight quotas of a PF; a write that would bring the sum above 255 is not made (R632). -/
def execQuotaWrite (p : Port) (f : Fin 32) (i : Fin 4) (v : BitVec 64) (s : State) : Out :=
  if !isPF f then .next s
  else
    let old := (s.port p).quota
    let v := if i.val = 0 then v &&& ~~~ 0xFF#64 else v
    let q := (old &&& ~~~ ((BitVec.allOnes 64).setWidth 256 <<< (64 * i.val))) ||| (v.setWidth 256 <<< (64 * i.val))
    if 255 < quotaSum q then .next s else .next (s.modPort p fun x => { x with quota := q })

/-! ## Semaphores (R361–R363, R629) -/

/-- Every freeze ends (R584). -/
def endFreezes (s : State) : State := s.tasks.foldl (fun s e => endFreeze e.1 s) s

/-- A semaphore is free again; when semaphore 3 is released, every freeze ends (R584). -/
def freeSem (k : Nat) (s : State) : State :=
  let s := { s with sems := tset s.sems k { s.sem k with owner := none } }
  if k = 3 then endFreezes s else s

/-- A release that the owner did not make is logged, and both PFs are told (R363, R532). -/
def forceSem (k reason : Nat) (s : State) : State :=
  match (s.sem k).owner with
  | none => s
  | some p => setCauseBoth 9 (logEvent 0x0303 0 0 [k, portNum p, reason] (freeSem k s))

/-- `SEMAPHORE_CLAIM`: a PF claims a free semaphore; when both ports claim in one cycle it goes to the port that lost the
previous tie (R362). -/
def execSemaphoreClaim (p : Port) (f : Fin 32) (k : Fin 6) (both : Bool) (s : State) : Out :=
  if !isPF f || (s.sem k).owner.isSome then .next s
  else
    let x := s.sem k
    let y : Sem := if both then { owner := some x.tie, tie := otherPort x.tie } else { x with owner := some p }
    .next { s with sems := tset s.sems k y }

/-- `SEMAPHORE_RELEASE`: by the owner's PF; otherwise ignored (R363, R629). -/
def execSemaphoreRelease (p : Port) (f : Fin 32) (k : Fin 6) (s : State) : Out :=
  if isPF f && s.holds p k then .next (freeSem k s) else .next s

/-- Nanoseconds a link may stay down before its semaphores are released (R363). -/
def semTimeout : Nat := 100000000

/-- `SEMAPHORE_LINK_TIMEOUT`: the owning port's link has stayed down for 100 ms (R363). -/
def execSemaphoreLinkTimeout (k : Fin 6) (s : State) : Out :=
  match (s.sem k).owner with
  | none => .next s
  | some p =>
    match (s.port p).downSince with
    | some t => if semTimeout ≤ s.since t then .next (forceSem k relLink s) else .next s
    | none => .next s

/-! ## Execution mode (R453, R630) -/

def modeCache : Nat := 1
def modeDlb : Nat := 2
def modeRepair : Nat := 3
def modeSupply : Nat := 4
def modeStart : Nat := 5

/-- `FIXED_MODE_REQUEST`: `fixed_req` = 1 is written by the PF that holds semaphore 5; before readiness it is refused
(R453, R599). -/
def execFixedModeRequest (p : Port) (f : Fin 32) (s : State) : Out :=
  if !(isPF f && s.holds p 5) || s.mode.busy then .next s
  else if !isReady s then .next { s with mode := { s.mode with fixedReq := true, cause := modeStart } }
  else .next { s with mode := { s.mode with fixedReq := true, busy := true } }

/-- `FREE_MODE_REQUEST`: `fixed_req` = 0 is written (R453). -/
def execFreeModeRequest (p : Port) (f : Fin 32) (s : State) : Out :=
  if !(isPF f && s.holds p 5) || s.mode.busy then .next s
  else .next { s with mode := { s.mode with fixedReq := false, busy := true } }

/-- A task that holds a mode change back (R453). -/
def modeHolds (t : Task) : Bool := live t || t.st = .ending

/-- The first failing condition of R453; 0: none. -/
def modeRefusal (s : State) : Nat :=
  let ls := List.range 64
  if ls.any fun L => (s.shell L).cacheEff ≠ 0 || (s.shell L).cacheReq ≠ 0 then modeCache
  else if !s.mode.dlbOff then modeDlb
  else if s.stackTab.any (fun e => !e.2.copying.isEmpty) || ls.any (fun L =>
      match (s.shell L).drain with
      | .remap => true
      | _ => false) then modeRepair
  else if s.pwr.stage ≠ 0 || ls.any (fun L => (s.shell L).pw.fCap ≠ 0) then modeSupply
  else 0

/-- `MODE_CHANGE`: no task holds the change back; the conditions are checked and the mode changes, or the request is
refused (R453, R454). -/
def execModeChange (s : State) : Out :=
  if !s.mode.busy || s.tasks.any (fun e => modeHolds e.2) then .next s
  else if !s.mode.fixedReq then .next { s with mode := { s.mode with fixed := false, busy := false, cause := 0 } }
  else match modeRefusal s with
    | 0 => .next { s with mode := { s.mode with fixed := true, busy := false, cause := 0 } }
    | n => .next { s with mode := { s.mode with busy := false, cause := n } }

/-! ## Host accesses to stacked memory (R317, R319, R400, R419, R483, R591) -/

/-- A host access served: a read returns data, poison through CXL.mem or a completer abort through BAR2; a write that
fails is discarded and counted (R400, R402). -/
def serveHost (p : Port) (addr : Nat) (acc : Access) (s : State) : State :=
  match acc with
  | .read n =>
    match (stackRead .iod 2 addr n).go s with
    | (.ok bs, s) => s.modPort p fun x => { x with answer := .data bs, lastRead := some (addr, n, s.clk.now) }
    | (.error _, s) => s.modPort p fun x => { x with answer := if x.pmode = 4 then .abort else .poison }
  | .write bs => (storeQuiet .iod addr bs s).modPort p fun x => { x with answer := .done }

/-- Bytes that an access covers. -/
def accessLen : Access → Nat
  | .read n => n
  | .write bs => bs.length

/-- Host accesses are held during S3, and until Memory_Active (R419, R483, R591). -/
def hostHeld (s : State) (p : Port) : Bool := 3 ≤ s.pwr.stage || !(s.port p).memActive

/-- The port gives its host a path to stacked memory (R317). -/
def hostPath (s : State) (p : Port) : Bool := (s.port p).linkUp && (s.port p).pmode ≠ 3

/-- `HOST_MEMORY_ACCESS` (R319): an address at or above 2^38 names no memory (R399). -/
def execHostMemoryAccess (p : Port) (a : MemAccess) (s : State) : Out :=
  if physMax < a.addr + accessLen a.acc then .fault .noSuchAddress
  else if !hostPath s p then .next s
  else if hostHeld s p then
    .next (s.modPort p fun x => { x with heldAcc := x.heldAcc ++ [{ parts := [(a.addr, accessLen a.acc)], acc := a.acc, since := s.clk.now }] })
  else .next (serveHost p a.addr a.acc s)

/-- An access that was held is served, of all its pieces (R419, R483). -/
def serveParts (p : Port) (s : State) (h : Held) : State :=
  match h.acc with
  | .read _ =>
    match Act.go (h.parts.mapM fun z => stackRead .iod 2 z.1 z.2) s with
    | (.ok bs, s) => s.modPort p fun x => { x with answer := .data bs.flatten, lastRead := none }
    | (.error _, s) => s.modPort p fun x => { x with answer := if x.pmode = 4 then .abort else .poison }
  | .write bs => (Act.go (storeParts .iod (partsOf h.parts bs)) s).2.modPort p fun x => { x with answer := .done }

/-- The held accesses of a port are served once nothing holds them any longer. -/
def serveHeld (p : Port) (s : State) : State :=
  if hostHeld s p then s
  else (s.port p).heldAcc.foldl (serveParts p)
    (s.modPort p fun x => { x with heldAcc := [] })

/-- Nanoseconds that a host access is held at most (R419). -/
def holdMax : Nat := 1000000

/-- A held access that ran out: a read is answered with poison or an abort, a write is discarded and counted. -/
def dropHeld (p : Port) (s : State) (h : Held) : State :=
  match h.acc with
  | .read _ => s.modPort p fun x => { x with answer := if x.pmode = 4 then .abort else .poison }
  | .write _ => s.bump (stackCtr (stackOf ((h.parts.head?.map (·.1)).getD 0)) 13)

/-- `HOST_ACCESS_HOLD_TIMEOUT` (R419, R483). -/
def execHostAccessHoldTimeout (p : Port) (s : State) : Out :=
  let old := fun (h : Held) => holdMax ≤ s.since h.since
  let hs := (s.port p).heldAcc.filter old
  .next (hs.foldl (dropHeld p) (s.modPort p fun x => { x with heldAcc := x.heldAcc.filter fun h => !old h }))

/-- `ATS_INVALIDATION`: the translations that cover the page leave the port's translation cache, of whichever PASID; no access
that used them is in progress between two commands (R328). -/
def execAtsInvalidation (p : Port) (page : Nat) (s : State) : Out :=
  .next ((s.modPort p fun x => { x with atsCache := x.atsCache.filter fun e => !e.covers page }).bump (portCtr p 9))

/-! ## Links (R317, R321) -/

/-- A port's mode by what the partner offers (R317, R627). -/
def trainedMode (o : Partner) : Nat :=
  if !o.cxl then 4 else if o.cache && o.mem then 1 else if o.mem then 2 else if o.cache then 3 else 4

/-- The trained width (R317). -/
def trainedWidth (n : Nat) : Nat := if 16 ≤ n then 16 else if 8 ≤ n then 8 else 4

/-- The body of the configuration record of a type that is in force (R518). -/
def configBody (s : State) (ty : Nat) : Option (List Byte) :=
  (tfind s.cox.inForce ty).map fun r => (r.drop 64).take (leNat ((r.drop 12).take 4))

/-- What a port-limits record allows a port: width and rate code (R518). -/
def portLimit (s : State) (p : Port) : Nat × Nat :=
  match configBody s 0x03 with
  | none => (16, 2)
  | some b => Config.portLimits b (p = .B)

/-- Nanoseconds from PWR_GOOD to the earliest deassertion of PERST# that is not held (R612). -/
def perstEarliest : Nat := 100000000

/-- The reference clock of a port is present (R46, R611). -/
def refOf (c : Clock) : Port → Bool
  | .A => c.refA
  | .B => c.refB

/-- A port may train: its own reference is present, PERST# is deasserted, and its early deassertion no longer held (R46, R598,
R612). -/
def mayTrain (s : State) (p : Port) : Bool :=
  s.up.pwrGood && refOf s.clk p && !(s.port p).perst && (!(s.port p).perstHold || perstEarliest ≤ s.since s.up.goodSince)

/-- `LINK_TRAINING`: the port trains with its partner and records the outcome (R317, R487). A link that was up has been
retrained. -/
def execLinkTraining (p : Port) (o : Partner) (s : State) : Out :=
  let x := s.port p
  if !mayTrain s p then .next s
  else
    let lim := portLimit s p
    let mode := trainedMode o
    let width := trainedWidth (min o.width lim.1)
    let rate := min (min o.rate 2) (min x.maxRate.toNat lim.2)
    let s := if x.linkUp then logEvent 0x0302 5 0 [portNum p, width, rate] (s.bump (portCtr p 12)) else s
    .next (s.modPort p fun x =>
      { x with linkUp := true, pmode := mode, width := width, rate := rate, snoop := mode = 1 || mode = 3,
               downSince := none, training := false, resetting := false, perstHold := false, memInfo := true })

/-- The rings of a port that are enabled and run stop with cause `LINK`. -/
def stopPortRings (p : Port) (s : State) : State :=
  (portRings p).foldl (fun s k =>
    if ringLive (s.ring k) then stopRing p (k / 8 % 32) (k % 8) stopLink (s.ring k).head.toNat s else s) s

/-- A port's link goes down (R321, R509, R627). -/
def takeLinkDown (p : Port) (s : State) : State :=
  let s := logEvent 0x0302 5 0 [portNum p, 0, 0] ((stopPortRings p s).bump (portCtr p 13))
  (dropBlocks (fun k => k / 32 = portNum p) s).modPort p fun x =>
    { x with linkUp := false, pmode := 0, width := 0, rate := 0, snoop := false, downSince := some s.clk.now,
             training := true, atsCache := [], heldAcc := [] }

/-- `LINK_DOWN` (R321). -/
def execLinkDown (p : Port) (s : State) : Out :=
  if (s.port p).linkUp then .next (takeLinkDown p s) else .next s

end Sys2Proof.Machine
end

