-- ==== Sys2Proof/Machine/Lane.lean ====
section
/-! DEFINITION. The lane commands `MULADD`, `MUL`, `ADD`, `SUB`, `NEG` and `MOV` (02_residue_arithmetic R57, R59, R650). -/

namespace Sys2Proof.Machine

/-- Whether an operation uses its second source c, and its third source d (R57). -/
def usesC : LaneOp → Bool
  | .mulAdd => true
  | .mul => true
  | .add => true
  | .sub => true
  | .neg => false
  | .mov => false

def usesD : LaneOp → Bool
  | .mulAdd => true
  | _ => false

/-- The encoding of a lane command (R308); fields an operation does not use must be zero (R650 row 1). -/
def encLane (op : Nat) (o : LaneOp) : Enc :=
  { op := op,
    used := uCtl 24 16 ||| uAf 0 ||| (if usesC o then uAf 1 else 0) ||| (if usesD o then uAf 2 else 0) ||| uAf 3 |||
      uOpc 63 0,
    fields := [0, 1, 2, 3], tensor := false, parts := [112] }

/-- The three limbs of one modulus combined position by position. -/
def laneLimb (o : LaneOp) (m : Modulus) (a c d : Limb) : Limb :=
  ((a.zip c).zip d).map fun z => laneOp o m z.1.1 z.1.2 z.2

/-- What a lane command does after its reserved fields have passed: rows 1 to 5 of R650, then limb by limb (R312) every source
limb is read before the result is written (R59). -/
def laneBody (L : Nat) (o : LaneOp) (tid : Nat) (t : Task) (w : Cmd) : Act Flow := do
  let logN := cf w 24 20
  let mask := w.opc.toNat
  if logN < 12 || 17 < logN then bad01 1 2
  match tfind t.snap (cf w 19 16) with
  | none => throw { code := 0x22, detail := detail22 (cf w 19 16) 2 }
  | some ch =>
    if ch.maxLogN < logN then throw { code := 0x22, detail := detail22 (cf w 19 16) 2 }
    if mask / 2 ^ ch.K ≠ 0 then bad01 3 24
    let n := popCount mask 64 * limbLines logN
    let a := afOf w 0
    let c := afOf w 1
    let d := afOf w 2
    let dst := afOf w 3
    inRange L tid t.ctx a n
    if usesC o then inRange L tid t.ctx c n
    if usesD o then inRange L tid t.ctx d n
    inRange L tid t.ctx dst n
    coincideOrDisjoint L (addrLine dst) n (addrLine a) n
    if usesC o then coincideOrDisjoint L (addrLine dst) n (addrLine c) n
    if usesD o then coincideOrDisjoint L (addrLine dst) n (addrLine d) n
    let js := setBits mask 64
    units L js.length fun i => do
      let off := i * limbLines logN
      let x ← readLimb L (addrLine a + off) logN
      let y ← if usesC o then readLimb L (addrLine c + off) logN else pure x
      let u ← if usesD o then readLimb L (addrLine d + off) logN else pure x
      writeLimb L (addrLine dst + off) (laneLimb o (ch.mod (js.getD i 0)) x y u)

/-- A lane command on a Shell. -/
def lane (sh op : Nat) (o : LaneOp) (w : Cmd) : Native :=
  native (encLane op o) (w.opc = 0) fun tid t w => laneBody sh o tid t w

/-- `MULADD` (R57). -/
def natMuladd (sh : Fin 64) (w : Cmd) : Native := lane sh 0x10 .mulAdd w

/-- `MULADD`. -/
def execMuladd (sh : Fin 64) (w : Cmd) (s : State) : Out := .next (issue sh (natMuladd sh w) w s)

/-- `MUL` (R57). -/
def natMul (sh : Fin 64) (w : Cmd) : Native := lane sh 0x11 .mul w

/-- `MUL`. -/
def execMul (sh : Fin 64) (w : Cmd) (s : State) : Out := .next (issue sh (natMul sh w) w s)

/-- `ADD` (R57). -/
def natAdd (sh : Fin 64) (w : Cmd) : Native := lane sh 0x12 .add w

/-- `ADD`. -/
def execAdd (sh : Fin 64) (w : Cmd) (s : State) : Out := .next (issue sh (natAdd sh w) w s)

/-- `SUB` (R57). -/
def natSub (sh : Fin 64) (w : Cmd) : Native := lane sh 0x13 .sub w

/-- `SUB`. -/
def execSub (sh : Fin 64) (w : Cmd) (s : State) : Out := .next (issue sh (natSub sh w) w s)

/-- `NEG` (R57). -/
def natNeg (sh : Fin 64) (w : Cmd) : Native := lane sh 0x14 .neg w

/-- `NEG`. -/
def execNeg (sh : Fin 64) (w : Cmd) (s : State) : Out := .next (issue sh (natNeg sh w) w s)

/-- `MOV` (R57). -/
def natMov (sh : Fin 64) (w : Cmd) : Native := lane sh 0x15 .mov w

/-- `MOV`. -/
def execMov (sh : Fin 64) (w : Cmd) (s : State) : Out := .next (issue sh (natMov sh w) w s)

end Sys2Proof.Machine
end

