-- ==== Sys2Proof/Machine/Stack.lean ====
section
/-! DEFINITION. The stack controllers (12_stacked_memory R396–R428): reads and writes that reach them, the
write-combining buffer, refresh, retraining in rotation, the patrol, channel sparing and row repair. -/

namespace Sys2Proof.Machine

/-! ## Reads (R402, R404, R405) -/

/-- The class of a read by its requester: 0 critical, 1 stream, 2 bulk (R404). -/
def classOf : StackReq → Nat
  | .shell _ stream => if stream then 1 else 0
  | .keyStreamer _ => 1
  | .management => 2
  | .host _ => 2

/-- The Shell whose task a failed access of a requester aborts (R400, R402). -/
def reqShell : StackReq → Option Nat
  | .shell sh _ => some sh.val
  | .keyStreamer sh => some sh.val
  | .management => none
  | .host _ => none

/-- The command that a failed access is laid to: the one that issued a copy or opened a key stream, where the access is
theirs (R569). -/
def reqCmd (s : State) (L : Nat) : StackReq → Nat
  | .shell _ true =>
    let x := s.shell L
    ((x.asyncIn ++ x.asyncOut).head?.map (·.cmd)).getD x.stroke.idx
  | .keyStreamer _ =>
    (s.streams.findSome? fun e => (e.2.members.find? fun m => m.sh = L && !m.closed).map (·.cmd)).getD
      (s.shell L).stroke.idx
  | _ => (s.shell L).stroke.idx

/-- A failed access: a task aborts with the fault; a management agent gets the error response. -/
def stackFault (q : StackReq) (f : Flt) (s : State) : State :=
  match reqShell q with
  | none => s
  | some L =>
    match (s.shell L).holder with
    | none => s
    | some tid => abortTask tid f L (reqCmd s L q) s

/-- A stack takes reads and writes while its credits are not withheld (R418). -/
def taking (s : State) (pa : Nat) : Bool := (s.stack (stackOf pa)).credits

/-- The end of the fabric that a requester stands at: a key streamer's data go to the die of its Crew (R23, R35). -/
def reqNode : StackReq → Node
  | .shell sh _ => .shell sh.val
  | .keyStreamer sh => .agent (dieOf sh.val)
  | .management => .iod
  | .host _ => .iod

/-- A read of a requester other than a host is served (R402, R405). -/
def serveRead (q : StackReq) (addr n : Nat) (s : State) : State :=
  match (stackRead (reqNode q) (classOf q) addr n).go s with
  | (.ok _, s) => s
  | (.error f, s) => stackFault q f s

/-- Whether a waiting stream read starves: its task has a Shell blocked in a `SWAIT` on the copy's counter (R368), or a
`KIP` of its set waits for a pair (R405). -/
def starving (s : State) : StackReq → Bool
  | .shell sh true =>
    let x := s.shell sh.val
    match (x.asyncIn ++ x.asyncOut).head? with
    | none => false
    | some a => s.shells.any fun e => e.2.holder = x.holder && (match e.2.stroke.wait with
        | .counter c _ _ => c = a.cnt
        | _ => false)
  | .keyStreamer sh => s.streams.any fun e => e.2.members.any (fun m => m.sh = sh.val && !m.closed) &&
      e.2.members.any fun m => m.waits
  | _ => false

/-- The stamp of a stream read: the copy's empty stamp, or when the set last freed a slot (R368, R405). -/
def streamStamp (s : State) : StackReq → Nat
  | .shell sh true => (((s.shell sh.val).asyncIn ++ (s.shell sh.val).asyncOut).head?.map fun a => a.stamp.toNat).getD 0
  | .keyStreamer sh => (s.streams.findSome? fun e => (e.2.members.find? fun m => m.sh = sh.val && !m.closed).map
      fun m => m.freed.toNat).getD 0
  | _ => 0

/-- Nanoseconds after which a waiting read ranks as critical (R405). -/
def promoteNs : Nat := 10000

/-- Where a waiting read stands in the order of R405: class, then for streams starving, stamp and Shell; the lower first. -/
def readKey (s : State) (r : QRead) : List Nat :=
  let cls := if promoteNs ≤ s.since r.since then 0 else classOf r.q
  if cls = 1 then [1, if starving s r.q then 0 else 1, streamStamp s r.q, (reqShell r.q).getD 64] else [cls]

/-- A lexicographic comparison. -/
def keyLess : List Nat → List Nat → Bool
  | [], _ => false
  | _ :: _, [] => false
  | a :: x, b :: y => a < b || (a = b && keyLess x y)

/-- The waiting read that a controller serves next: in free mode the first in the order of R405, the oldest among equals;
in fixed mode the oldest (R406). -/
def pickRead (s : State) (rs : List QRead) : Option QRead :=
  match rs with
  | [] => none
  | r :: rest => some (if s.mode.fixed then r else
      rest.foldl (fun b x => if keyLess (readKey s x) (readKey s b) then x else b) r)

/-- The reads that wait at a stack are served in turn (R405, R419). -/
def serveQueue (st : Nat) : Nat → State → State
  | 0, s => s
  | n + 1, s =>
    match pickRead s (s.stack st).queue with
    | none => s
    | some r => serveQueue st n (serveRead r.q r.addr r.n (s.modStack st fun x => { x with queue := x.queue.erase r }))

/-- The credits of a stack are restored, and what waited is served (R419). -/
def restoreCredits (st : Nat) (s : State) : State :=
  let s := s.modStack st fun x => { x with credits := true }
  serveQueue st (s.stack st).queue.length s

/-- `STACK_READ`: served by class with correction (R402, R405). The host's reads are answered at its port (R400). A read of a
stack whose credits are withheld waits: a host's at its port, others in the order of R405 (R418, R419). -/
def execStackRead (q : StackReq) (addr n : Nat) (s : State) : Out :=
  if physMax < addr + n then .fault .noSuchAddress
  else match q with
    | .host p =>
      if taking s addr then .next (serveHost p addr (.read n) s)
      else .next (s.modPort p fun x =>
        { x with heldAcc := x.heldAcc ++ [{ parts := [(addr, n)], acc := .read n, since := s.clk.now }] })
    | _ =>
      if taking s addr then .next (serveRead q addr n s)
      else .next (s.modStack (stackOf addr) fun x =>
        { x with queue := x.queue ++ [{ q := q, addr := addr, n := n, since := s.clk.now }] })

/-! ## Writes that reach a controller (R38, R408–R411) -/

/-- The place of a requester among the writes of one controller cycle (R410). -/
def reqRank : StackReq → Nat
  | .shell sh _ => sh.val
  | .keyStreamer _ => 64
  | .management => 65
  | .host .A => 66
  | .host .B => 67

/-- The bytes of a line's write that no later requester of the same cycle has written already (R410): those of one model
time count as one cycle (log 154). -/
def winsCycle (s : State) (rank pa : Nat) (z : Byte × Nat) : Bool :=
  match (s.stack (stackOf pa)).wcb.find? fun e => e.line = pa / 64 with
  | none => true
  | some e => e.since ≠ s.clk.now || tget 0 e.cycle (pa % 64 + z.2) ≤ rank + 1

/-- The bytes that a write leaves of its line: its own where it wins, else those that stand there. -/
def cycleBytes (s : State) (rank pa : Nat) (bs : List Byte) : List Byte :=
  let old := memSlice s pa bs.length
  bs.zipIdx.map fun z => if winsCycle s rank pa z then z.1 else old.getD z.2 0

/-- The requester of each byte of a line's entry is noted for the rest of the cycle. -/
def noteCycle (rank pa n : Nat) (was : Tab Nat) (s : State) : State :=
  s.modStack (stackOf pa) fun x => { x with wcb := x.wcb.map fun e =>
    if e.line = pa / 64 then
      { e with cycle := (List.range n).foldl (fun c i =>
          tset c (pa % 64 + i) (max (rank + 1) (tget 0 was (pa % 64 + i)))) was }
    else e }

/-- One line of a write that reaches a controller. -/
def arriveLine (rank pa : Nat) (bs : List Byte) : Act Unit := do
  let s ← get
  let was := match (s.stack (stackOf pa)).wcb.find? fun e => e.line = pa / 64 && e.since = s.clk.now with
    | some e => e.cycle
    | none => []
  bufferLine pa (cycleBytes s rank pa bs)
  upd (noteCycle rank pa bs.length was)

/-- A write taken by its controllers, line by line; a run inside an accumulate window is added (R411). -/
def bufferWrite (q : StackReq) (pa : Nat) (bs : List Byte) : Act Unit := do
  upd fun s => s.writeMsg (reqNode q) (.stack (stackOf pa)) bs.length
  let zs := (pieces 64 pa bs.length).map fun z => (z.1, (bs.drop (z.1 - pa)).take z.2)
  (accRuns (← get) zs).forM fun r =>
    match r.1 with
    | none => arriveLine (reqRank q) r.2.1 r.2.2
    | some (c, w, m) => accStore (some (reqRank q)) c w m r.2.1 r.2.2

/-- A host's read of the same cycle that the write meets observes it (R410). -/
def observeWrite (pa n : Nat) (s : State) (p : Port) : State :=
  match (s.port p).lastRead with
  | some (a, k, t) =>
    if t = s.clk.now && a < pa + n && pa < a + k then
      s.modPort p fun x => match x.answer with
        | .data _ => { x with answer := .data (memSlice s a k) }
        | _ => x
    else s
  | none => s

/-- `STACK_WRITE`: the write enters the buffer and is acknowledged (R408); where no entry is free it waits until one is
(R409). Writes of one cycle to one line stand in the order of R410. A host's write that fails is discarded silently (R400), and one
to a stack that withholds its credits is held (R483). -/
def execStackWrite (q : StackReq) (addr : Nat) (bs : List Byte) (s : State) : Out :=
  if physMax < addr + bs.length then .fault .noSuchAddress
  else if !taking s addr then
    match q with
    | .host p => .next (s.modPort p fun x =>
        { x with heldAcc := x.heldAcc ++ [{ parts := [(addr, bs.length)], acc := .write bs, since := s.clk.now }] })
    | _ => .next s
  else match (bufferWrite q addr bs).go s with
    | (.ok _, s) => .next (observeWrite addr bs.length (observeWrite addr bs.length s .A) .B)
    | (.error f, s) => .next (stackFault q f s)

/-- `ACCUMULATE_WRITE`: each whole unit is added to the value that stands there, one write at a time, those of one cycle in
the order of R410 (R411, R438). -/
def execAccumulateWrite (q : StackReq) (addr : Nat) (bs : List Byte) (s : State) : Out :=
  if physMax < addr + bs.length then .fault .noSuchAddress
  else if !taking s addr then .next s
  else match (bufferWrite q addr bs).go s with
    | (.ok _, s) => .next s
    | (.error f, s) => .next (stackFault q f s)

/-- Every entry of a stack retires, oldest first (R418). -/
def retireAll (st : Nat) (s : State) : State :=
  (s.stack st).wcb.foldl (fun s e => retireEntry st e s) s

/-- `WCB_RETIRE`: the oldest full entry retires, or any general entry once the general occupancy has reached 160
(R409). -/
def execWcbRetire (st : Fin 8) (i : Nat) (s : State) : Out :=
  let x := s.stack st
  match x.wcb[i]? with
  | none => .next s
  | some e =>
    if e.full && !(x.wcb.take i).any (fun y => y.full) then .next (retireEntry st e s)
    else if !e.reserve && wcbHigh ≤ generalCount x && !e.full then .next (retireEntry st e s)
    else .next s

/-- Nanoseconds that a partial entry waits for further bytes (R409). -/
def partialNs : Nat := 500

/-- `WCB_PARTIAL_TIMEOUT`: a partial entry that has waited 500 ns retires as a read-merge-write (R409). -/
def execWcbPartialTimeout (st : Fin 8) (i : Nat) (s : State) : Out :=
  match (s.stack st).wcb[i]? with
  | none => .next s
  | some e => if e.full || s.since e.since < partialNs then .next s else .next (retireEntry st e s)

/-! ## Refresh (R413–R415) -/

/-- In fixed mode a channel refreshes a bank at fixed Almanac counts (R415). -/
def fixedRefresh (alm ch bank : Nat) : Bool :=
  15 * (ch % 8) ≤ alm && (alm - 15 * (ch % 8)) % 120 = 0 && alm / 120 % 16 = bank

/-- `BANK_REFRESH`: the bank's open row closes. In free mode a bank may be refreshed up to 4 intervals early; the interval
moves on by one (R413, R414). -/
def execBankRefresh (st : Fin 8) (ch : Fin 64) (bank : Fin 16) (s : State) : Out :=
  let x := s.stack st
  let k := 16 * ch.val + bank.val
  let due := tget (x.refBase + refreshNs x) x.refresh k
  let ok := if s.mode.fixed then fixedRefresh s.clk.alm.toNat ch bank else due ≤ s.clk.now + 4 * refreshNs x
  if x.selfRefresh || !ok then .next s
  else .next (s.modStack st fun x =>
    { x with openRow := tdel x.openRow k,
             refresh := tset x.refresh k (if s.mode.fixed then s.clk.now + 1920 else due + refreshNs x) })

/-! ## Retraining and sparing (R420–R423) -/

/-- The logical channel that a physical one carries, or that is being copied to it (R422). -/
def logicalOf (x : Stack) (ch : Nat) : Option Nat :=
  ((List.range 64).find? fun l => physChan x l = ch).orElse fun _ =>
    (x.copying.find? fun c => c.spare = ch).map (·.logical)

/-- A retraining of a physical channel ends: two failures in a row, and each one after them, call for the spare; where the channel
or the spare it is being copied to fails during the replacement, its stack goes out of service (R420, R422, R423). -/
def retrained (st ch : Nat) (passed : Bool) (s : State) : State :=
  let n := tget 0 (s.stack st).retrainFail ch + 1
  let s := s.bump (stackCtr st 9)
  if passed then s.modStack st fun x => { x with retrainFail := tdel x.retrainFail ch }
  else
    let s := s.modStack st fun x => { x with retrainFail := tset x.retrainFail ch n }
    match logicalOf (s.stack st) ch with
    | some l => if 2 ≤ n then spareChannel st l s else s
    | none => s

/-- `CHANNEL_RETRAIN`: the next channel of the rotation; suspended in fixed mode (R420, R421). -/
def execChannelRetrain (st : Fin 8) (passed : Bool) (s : State) : Out :=
  let x := s.stack st
  if s.mode.fixed || x.selfRefresh then .next s
  else .next (retrained st x.nextRetrain passed
    (s.modStack st fun x => { x with nextRetrain := (x.nextRetrain + 1) % 66 }))

/-- Row numbers of the table of R455, from 1. -/
def exactThrottle : Nat := 1
def exactRetrain : Nat := 2
def exactSupply : Nat := 5
def exactRepair : Nat := 6
def exactSwitch : Nat := 7

/-- `MARGIN_RETRAIN`: a retraining that the margin monitor demands, in both modes; in fixed mode it is logged, with the
stack, and the tasks on the stack's die lose their cycle-exact timing (R420, R421). -/
def execMarginRetrain (st : Fin 8) (ch : Fin 66) (passed : Bool) (s : State) : Out :=
  if (s.stack st).selfRefresh then .next s
  else
    let s := if s.mode.fixed then loseExactDie exactRetrain (st.val / 4) (logEvent 0x0104 0 0 [exactRetrain, st.val / 4, st.val] s)
      else s
    .next (retrained st ch passed s)

/-- The lines of a stack that a test picks, as a copy leaves them: corrected, or deliberately uncorrectable with their
event recorded (R422, R424, R425). -/
def copyMarks (p : Nat → Bool) (t : Tab LineErr) : Tab LineErr :=
  (t.filter fun e => !(p e.1 && stackClass e.2 ≠ .unc)).map fun e => if p e.1 then (e.1, forcedErr) else e

/-- What the read of a copy records of a line: a correctable read, or the first read that finds it uncorrectable, against its
row (R422, R424, R425). -/
def copyNote (st : Nat) (s : State) (e : Nat × LineErr) : State :=
  let r := heldRow (s.stack st) (64 * e.1)
  let note := fun (corr : Bool) (s : State) => s.modStack st fun x => { x with rowEvents := rowTable x.rowEvents r corr }
  match stackClass e.2 with
  | .clean => s
  | .corr => note true (noteCorrected (128 + st) (st * 2 ^ 35 + 64 * e.1) (s.bump (stackCtr st 11)))
  | .unc => if e.2.seen then s.bump (stackCtr st 12) else note false (s.bump (stackCtr st 12))

/-- Marked lines of a stack that a test picks. -/
def marksWhere (x : Stack) (p : Nat → Bool) : List (Nat × LineErr) := x.lineErr.filter fun e => p e.1

/-- What a stack's controller holds of repairs, for the memory-repair record (R396, R422, R425, R427). -/
def repairOf (x : Stack) : StackRepair :=
  { chmap := x.chmap, spareUsed := x.spareUsed, rowMap := x.rowMap, retired := x.retired, out := x.out }

/-- Cox records the mappings in the memory-repair record (R422, R425, R498). -/
def recordRepair (s : State) : State :=
  { s with cox := { s.cox with repair := s.cox.repair.put (s.stackTab.map fun e => (e.1, repairOf e.2)) } }

/-- Chunks of a channel, and of a row (R397). -/
def channelChunks : Nat := 2 ^ 21
def rowChunks : Nat := 4

/-- `CHANNEL_COPY_DONE`: the channel has been read row by row at the bulk class, the spare of its half takes the logical
number, and the memory-repair record its mapping (R404, R422). -/
def execChannelCopyDone (st : Fin 8) (half : Fin 2) (s : State) : Out :=
  match (s.stack st).copying.find? (fun c => c.logical / 32 = half.val) with
  | none => .next s
  | some c =>
    let mine := fun (l : Nat) => chanOf (64 * l) = c.logical
    let s := ((s.bump (stackCtr st 2) channelChunks).bump (stackCtr st 6) (channelChunks - channelChunks / rowChunks)).bump
      (stackCtr st 7) (channelChunks / rowChunks)
    let s := (marksWhere (s.stack st) mine).foldl (copyNote st) s
    let s := s.modStack st fun x =>
      { x with copying := x.copying.filter (fun y => y ≠ c), chmap := tset x.chmap c.logical c.spare,
               spareUsed := x.spareUsed ||| (1#2 <<< half.val),
               rowPending := x.rowPending.filter (fun r => r.ch ≠ physChan x c.logical),
               uncRows := x.uncRows.filter (fun e => e.2.ch ≠ physChan x c.logical),
               openRow := x.openRow.filter (fun e => e.1 / 16 ≠ c.logical),
               lineErr := copyMarks mine x.lineErr }
    .next (logEvent 0x0205 4 0 [st.val, c.logical, c.spare] (recordRepair (s.bump (stackCtr st 15))))

/-! ## Row repair (R424–R427) -/

/-- The row repaired next: the first that waits on a channel without a copy in progress, and of its bank the lowest
(R422, R424). -/
def dueRow (x : Stack) : Option Row :=
  let open_ := x.rowPending.filter fun r => !x.copying.any fun c => physChan x c.logical = r.ch
  match open_ with
  | [] => none
  | r :: _ => open_.foldl (fun b y => match b with
      | none => some y
      | some z => if y.ch = r.ch && y.bank = r.bank && y.row < z.row then some y else some z) (some r)

/-- The row that a repaired row serves: its own, or that of the spare row it is (R426). -/
def servedRow (x : Stack) (r : Row) : Row :=
  if r.row < 32768 then r
  else match x.rowMap.find? (fun e => e.1.ch = r.ch && e.1.bank = r.bank && e.2 + 32768 = r.row) with
    | some e => e.1
    | none => r

/-- `ROW_REPAIR`: the row moves to the lowest free spare row of its bank (R425, R426). -/
def execRowRepair (st : Fin 8) (s : State) : Out :=
  let x := s.stack st
  match dueRow x with
  | none => .next s
  | some r =>
    let s := s.modStack st fun x => { x with rowPending := x.rowPending.filter (fun y => y ≠ r) }
    let i := nextSpare x r
    let home := servedRow x r
    if 8 ≤ i then .next (retireFrame st (16384 * st.val + home.row / 2) s)
    else
      let inRow := fun (l : Nat) => heldRow x (64 * l) = r
      let s := (List.range rowChunks).foldl (fun s _ => s.bump (stackCtr st 2)) s
      let s := (marksWhere x inRow).foldl (copyNote st) s
      let s := s.modStack st fun x =>
        { x with rowMap := (x.rowMap.filter fun e => e.1 ≠ home) ++ [(home, i)],
                 rowEvents := x.rowEvents.map fun e => if e.row = r then { e with repaired := true } else e,
                 lineErr := copyMarks inRow x.lineErr }
      let s := logEvent 0x0203 1 0 [st.val, r.ch, r.bank, r.row, i] (recordRepair (s.bump (stackCtr st 14)))
      .next (loseExactDie exactRepair 1 (loseExactDie exactRepair 0 s))

/-! ## The patrol (R403) -/

/-- Lines of a stack. -/
def stackLines : Nat := 2 ^ 29

/-- `STACK_PATROL`: the patrol reads the next line; an uncorrectable one is logged and faults no task (R403). -/
def execStackPatrol (st : Fin 8) (s : State) : Out :=
  let x := s.stack st
  if !x.credits then .next s
  else
    let pa := 2 ^ 35 * st.val + 64 * x.patrol
    let s := (s.modStack st fun x => { x with patrol := (x.patrol + 1) % stackLines }).bump (stackCtr st 20)
    if outOfService s (256 * (pa / 256)) then .next s
    else match (stackFetch 2 pa 64).go s with
      | (.ok _, s) => .next s
      | (.error _, s) => .next (logEvent 0x0202 2 0 [pa] s)

end Sys2Proof.Machine
end

