-- ==== Sys2Proof/Machine/Power.lean ====
section
/-! DEFINITION. Power, supplies and thermal control (14_power_supply_thermal R458–R493, 12_stacked_memory R416–R419, and
01 R46): feeds, the package ceiling and the bubbles, the ramp limiter, hints, thermal requests, the shedding stages and
the charges of energy. Powers are in µW inside the controller, voltages in 10 mV. -/

namespace Sys2Proof.Machine

/-! ## Feeds (R458–R463) -/

def feedOf (s : State) : Port → Feed
  | .A => s.pwr.feedA
  | .B => s.pwr.feedB

/-- The voltage that a feed brings to the input bus through both its switches. -/
def feedCv (f : Feed) : Nat := if f.present && f.connected && !f.reverseOpen then f.cv else 0

/-- A feed changed; V_in follows the higher feed of the bus (R458). -/
def setFeed (x : Port) (f : Feed) (s : State) : State :=
  let p := match x with
    | .A => { s.pwr with feedA := f }
    | .B => { s.pwr with feedB := f }
  { s with pwr := { p with vin := max (feedCv p.feedA) (feedCv p.feedB) } }

/-- A feed in range: 44.0 V to 59.5 V (R458). -/
def feedOk (f : Feed) : Bool := 4400 ≤ feedCv f && feedCv f ≤ 5950

/-- The loss of a feed is logged and raises the error vectors of both PFs (R460). -/
def feedEvent (x : Port) (cv : Nat) (s : State) : State := setCauseBoth 9 (logEvent 0x0402 4 0 [portNum x, cv] s)

/-- `FEED_FAILURE`: a feed fails or is removed; the other carries the load when it is in range (R460). -/
def execFeedFailure (x : Port) (mv : Nat) (s : State) : Out :=
  let f := feedOf s x
  if !f.present then .next s
  else
    let s := setFeed x { f with present := false, connected := false, cv := mv / 10 } s
    .next (if feedOk (feedOf s (otherPort x)) then feedEvent x (mv / 10) s else s)

/-- `FEED_OVERVOLTAGE`: a feed above 61.0 V is disconnected (R460). -/
def execFeedOvervoltage (x : Port) (cv : Nat) (s : State) : Out :=
  let f := feedOf s x
  if f.present && f.connected && 6100 < cv then
    .next (feedEvent x cv (setFeed x { f with connected := false, cv := cv } s))
  else .next s

/-- `FEED_RECONNECT`: it has stayed at or below 59.5 V for 10 ms (R460). -/
def execFeedReconnect (x : Port) (cv : Nat) (s : State) : Out :=
  let f := feedOf s x
  if f.present && !f.connected && cv ≤ 5950 then .next (setFeed x { f with connected := true, cv := cv } s) else .next s

/-- `FEED_APPLIED`: a feed is applied and its hot-swap switch connects it (R459, R462); above 61.0 V it stays
disconnected (R460). -/
def execFeedApplied (x : Port) (cv : Nat) (s : State) : Out :=
  .next (setFeed x { present := true, cv := cv, connected := cv ≤ 6100, reverseOpen := false } s)

/-- `REVERSE_CURRENT`: the reverse-blocking switch of the feed opens (R463). -/
def execReverseCurrent (x : Port) (s : State) : Out :=
  .next (setFeed x { feedOf s x with reverseOpen := true } s)

/-- `AUX_LOSS`: P3V3_AUX has stayed below 3.0 V for 10 µs (R461). -/
def execAuxLoss (mv : Nat) (s : State) : Out :=
  if 3000 ≤ mv then .next s
  else
    let s := auxDown s
    .next { s with pwr := { s.pwr with auxMv := mv } }

/-! ## Reference clocks (R46) -/

def setRef (p : Port) (b : Bool) (c : Clock) : Clock :=
  match p with
  | .A => { c with refA := b }
  | .B => { c with refB := b }

/-- `REFCLK_LOSS`: the port that runs on the reference loses its link; where it was the core reference, the core PLLs switch to
the other one, and running tasks lose their cycle-exact timing; with both references lost the module enters the reset level
(R46, R455; log 152). -/
def execRefclkLoss (p : Port) (s : State) : Out :=
  if !refOf s.clk p then .next s
  else
    let s := { s with clk := setRef p false s.clk }
    let q := otherPort p
    if !s.clk.pll then .next s
    else if !refOf s.clk q then .next (enterResetLevel (logEvent 0x0405 6 0 [portNum p] s))
    else
      let s := if (s.port p).linkUp then takeLinkDown p s else s
      if s.clk.coreRef = some p then
        let s := logEvent 0x0405 4 0 [portNum q] { s with clk := { s.clk with coreRef := some q } }
        .next (loseExactDie exactSwitch 1 (loseExactDie exactSwitch 0 s))
      else .next s

/-- `REFERENCE_CLOCK_RETURN`: a reference is present again (R46, R611). -/
def execReferenceClockReturn (p : Port) (s : State) : Out := .next { s with clk := setRef p true s.clk }

/-! ## Effective policy (R487, R492, R493) -/

/-- What a power-limits record allows (R518): upper bounds for `cap_w` and `in_cap_w`, lower bound for `tj_soft`. -/
def powerLimits (s : State) : Nat × Nat × Nat :=
  match configBody s 0x04 with
  | none => (1200, 1400, 70)
  | some b => Config.powerLimits b

/-- The package cap, the input cap, the throttle start and the coolant start in force (R487). -/
def effCap (s : State) : Nat := min 1200 (min s.pwr.polEff.capW.toNat (powerLimits s).1)
def effIn (s : State) : Nat := min 1400 (min s.pwr.polEff.inCapW.toNat (powerLimits s).2.1)
def effTj (s : State) : Nat := min 95 (max s.pwr.polEff.tjSoft.toNat (powerLimits s).2.2)
def effCool (s : State) : Nat := min 40 s.pwr.polEff.coolMax.toNat

/-- The ramp step ΔP in µW: 0.12 A × 0.92 is 0.1104 W per volt of V_in (R470), halved from S1 on (R481). -/
def rampStep (s : State) : Nat :=
  let d := min 6000000 (min (100000 * s.pwr.polEff.rampW.toNat) (1104 * s.pwr.vin))
  if 1 ≤ s.pwr.stage then d / 2 else d

/-- A die, the IOD or a stack stands at or above its alert threshold of 105 °C. -/
def dieAlert (s : State) : Bool := (List.range 3).any fun g => 420 ≤ tget 0 s.pwr.hot g
def stackAlert (s : State) : Bool := s.stackTab.any fun e => 420 ≤ e.2.temp

/-- The fall of power is unbounded (R472). -/
def fallFree (s : State) : Bool := 2 ≤ s.pwr.stage || s.pwr.tripped || dieAlert s || stackAlert s

/-- Where the fall is unbounded, ballast stops at once (R472). -/
def stopBallast (s : State) : State :=
  if fallFree s then { s with pwr := { s.pwr with ballast := 0, preRamp := none } } else s

/-! ## The controller's interval (R465–R468) -/

/-- The lowest of the limits of R465, with the ramp ceiling. -/
def ceilingOf (s : State) : Nat :=
  min 1200000000 (min (1000000 * effCap s) (min (920000 * effIn s) (min s.pwr.coolCeil s.pwr.rampCeil)))

/-- A Shell's metered power, by its weights and their scale (R469, R531). -/
def metered (s : State) (x : Nat) : Nat := 10000 * x * s.cox.calWeights * s.pwr.scale / 4096

/-- A Shell's share under a fast hint, while the hint's time runs (R474). -/
def fastShare (s : State) (L : Nat) : Option Nat :=
  match (s.shell L).pw.fast with
  | some (a, e, share) => if a ≤ s.clk.now && s.clk.now < e then some share else none
  | none => none

/-- A fast hint whose share the Shell's demand exceeds ends at once (R474). -/
def endFast (x : PowerIn) (s : State) (L : Nat) : State :=
  match fastShare s L with
  | some v =>
    if (s.shell L).holder.isSome && v < metered s (x.demand.getD L 0) then
      s.modShell L fun y => { y with pw := { y.pw with fast := none } }
    else s
  | none => s

def endFasts (x : PowerIn) (s : State) : State := (List.range 64).foldl (endFast x) s

/-- The allowances of the Shells that hold tasks: fast shares first, the rest in proportion to the demands of the
previous interval, and at least 1/128 of the remainder each (R465, R474). Where every such demand was zero the rule
states no proportion, and the share is free. -/
def allowances (s : State) (rem k : Nat) : List (Nat × Nat) :=
  let ls := (List.range 64).filter fun L => (s.shell L).holder.isSome
  let taken := ls.foldl (fun a L => a + (fastShare s L).getD 0) 0
  let sum := ls.foldl (fun a L => if (fastShare s L).isNone then a + (s.shell L).pw.demand else a) 0
  ls.map fun L =>
    match fastShare s L with
    | some x => (L, x)
    | none =>
      let x := if sum = 0 then Config.openShare k rem L else (rem - taken) * (s.shell L).pw.demand / sum
      (L, max x (rem / 128))

/-- The fraction that the power cap asks for (R467). -/
def capFraction (d a : Nat) : Nat := if d ≤ a then 0 else ceilDiv (256 * (d - a)) d

/-- The request of the thermal loops and of the co-throttle to the Shells of a die (R416, R467, R476). -/
def dieRequest (s : State) (d : Nat) : Nat :=
  s.stackTab.foldl (fun m e => if e.1 / 4 = d then max m e.2.req else m)
    (max (tget 0 s.pwr.reqDie d) (tget 0 s.pwr.reqDie 2))

/-- `CONTROLLER_INTERVAL`: each µs the ceiling, the allowances and the fractions requested for the next interval
(R465, R467), and the µs counters of R575. -/
def execControllerInterval (x : PowerIn) (s : State) : Out :=
  if !mainOn s then .next s
  else
    let low := ceilingOf s
    let ceil := if fallFree s then low else max low s.pwr.ceilFloor
    let (k, s) := (endFasts x s).drawFree
    let rem := ceil - 10000 * x.other
    let al := allowances s rem k
    let s := (List.range 64).foldl (fun s L =>
      let d := metered s (x.demand.getD L 0)
      let a := (tfind al L).getD 0
      let held := (s.shell L).holder.isSome
      let fc := if held then capFraction d a else 0
      s.modShell L fun y =>
        { y with pw := { y.pw with demand := d, allow := a, fCap := fc,
                                   fNext := min 224 (max fc (dieRequest s (L / 32))) } }) s
    let s := { s with pwr := { s.pwr with pkgCeil := ceil } }
    let s := if s.pwr.stage ≤ 3 then s.bump (modCtr (5 + s.pwr.stage)) else s
    .next (if dieRequest s 0 ≠ 0 || dieRequest s 1 ≠ 0 then s.bump (modCtr 10) else s)

/-- Whether a Shell with fraction f takes a bubble in cycle j of a frame (R466, R468). -/
def bubbleAt (f j : Nat) : Bool := j * f % 256 < f

/-- The bubbles of a frame. -/
def bubblesOf (f : Nat) : Nat := ((List.range 256).filter (bubbleAt f)).length

/-- `BUBBLE_FRAME_BOUNDARY`: a frame under fraction f ends and its bubbles are counted; the fraction set last takes effect
(R468, R491); a bubble ends the cycle-exact timing of the running tasks (R489). -/
def execBubbleFrameBoundary (sh : Fin 64) (s : State) : Out :=
  if !mainOn s then .next s
  else
    let x := (s.shell sh).pw
    let s := (s.modShell sh fun y => { y with pw := { y.pw with f := y.pw.fNext } }).bump (shellCtr sh 81) (bubblesOf x.f)
    .next (if x.fNext = 0 then s else loseExactDie exactSupply 1 (loseExactDie exactSupply 0 s))

/-- `METER_SCALE`: the scale moves by at most 1/64 so that the estimates do not fall below the measurement (R469); it is
held in steps of 1/64. -/
def execMeterScale (measured estimated : Nat) (s : State) : Out :=
  let k := s.pwr.scale
  let k' := if estimated * k < 64 * measured then k + 1
    else if 1 ≤ k && 64 * measured ≤ estimated * (k - 1) then k - 1 else k
  .next { s with pwr := { s.pwr with scale := k' } }

/-! ## The ramp limiter and hints (R470–R475) -/

/-- A value moved toward a target by at most a step. -/
def moveBy (step v target : Nat) : Nat := if v ≤ target then min target (v + step) else max target (v - step)

/-- The ramp's ceiling after a tick: toward the power, at once where the fall is unbounded (R470, R472). -/
def rampTo (s : State) (step power : Nat) : Nat :=
  if fallFree s && power < s.pwr.rampCeil then power else moveBy step s.pwr.rampCeil power

/-- Weights that wait for it take effect, the scale folded into them (R531). -/
def newWeights (s : State) : State :=
  match s.cox.calNext with
  | none => s
  | some w => { s with cox := { s.cox with calWeights := w, calNext := none }, pwr := { s.pwr with scale := 64 } }

/-- `RAMP_LIMITER_TICK`: each 10 µs the policy and new weights take effect (R493, R531), the ramp ceiling moves by at most one step, and ballast
fills what power would fall too fast or what a pre-ramp adds (R470–R473). -/
def execRampLimiterTick (est : Nat) (s : State) : Out :=
  if !mainOn s then .next s
  else
    let s := newWeights { s with pwr := { s.pwr with polEff := s.pwr.pol } }
    let step := rampStep s
    let e := 10000 * est
    let was := s.pwr.est + s.pwr.ballast
    let fall := if fallFree s then 0 else was - step
    let (rise, pre) := match s.pwr.preRamp with
      | some (target, t) =>
        let target := s.pwr.hints.foldl (fun m (x : FeastHint) => max m x.power) target
        if target ≤ e then (0, none) else (min target (was + step), some (target, t))
      | none => (0, none)
    let power := max e (max fall (min rise s.pwr.pkgCeil))
    let ended := s.pwr.preRamp.isSome && pre.isNone
    .next { s with pwr := { s.pwr with
      effStep := step, est := e, ballast := power - e, preRamp := pre, rampCeil := rampTo s step power,
      ceilFloor := s.pwr.pkgCeil - step,
      hints := if ended then s.pwr.hints.filter fun h => (s.pwr.preRamp.map (·.2)) ≠ some h.start else s.pwr.hints } }

/-- Hints held at most (R473). -/
def hintMax : Nat := 16

/-- Hints are ignored while `hints_en` is 0 and while a die is at or above its alert threshold (R475). -/
def hintsOff (s : State) : Bool := !s.pwr.polEff.hintsEn || dieAlert s

/-- A hint taken (R473, R474) or ignored, and counted. -/
def takeHint (L : Nat) (t : Task) (w : Cmd) (s : State) : State :=
  let start := s.clk.now + 1000 * immF w 31 16
  let dur := immF w 15 0
  let power := 1000000 * opaF w 15 0
  if hintsOff s then s.bump (modCtr 12)
  else if cf w 17 16 = 1 then
    if 1 ≤ s.pwr.stage || hintMax ≤ s.pwr.hints.length then s.bump (modCtr 12)
    else
      let h : FeastHint := { start := start, dur := dur, power := min power s.pwr.pkgCeil }
      { s with pwr := { s.pwr with hints := s.pwr.hints ++ [h] } }.bump (modCtr 11)
  else
    (s.modShell L fun x =>
      { x with pw := { x.pw with fast := some (start, start + 1000 * dur, power / popCount t.shells.toNat 64) } }).bump
        (modCtr 11)

/-- `HINT` (R305, R308); kinds 0 and 3 are reserved, and a zero duration makes it a no-op (R306). -/
def encHint : Enc := { op := 0x05, used := uCtl 17 16 ||| uImm 31 0 ||| uOpa 15 0, fields := [], tensor := false }

def natHint (sh : Fin 64) (w : Cmd) : Native :=
  native encHint (immF w 15 0 = 0) fun _ t w => plain do
    if cf w 17 16 = 0 || cf w 17 16 = 3 then bad01 1 2
    upd (takeHint sh t w)

/-- `HINT`. -/
def execHint (sh : Fin 64) (w : Cmd) (s : State) : Out := .next (issue sh (natHint sh w) w s)

/-- The hint whose pre-ramp is due: power, rising by one step in 10 µs, would reach it at its start (R473). -/
def hintDue (s : State) : Option FeastHint :=
  let step := rampStep s
  s.pwr.hints.find? fun h => h.start ≤ s.clk.now + 10000 * ceilDiv (h.power - (s.pwr.est + s.pwr.ballast)) step

/-- `PRE_RAMP_START`: the pre-ramp of a feast hint begins, toward the highest announced power of the pending hints (R473);
never from S1 on or while hints are ignored (R475). -/
def execPreRampStart (s : State) : Out :=
  if s.pwr.preRamp.isSome || 1 ≤ s.pwr.stage || hintsOff s then .next s
  else match hintDue s with
    | none => .next s
    | some h =>
      .next { s with pwr := { s.pwr with preRamp := some (s.pwr.hints.foldl (fun m x => max m x.power) 0, h.start) } }

/-- `PRE_RAMP_TIMEOUT`: 10 µs after the announced start without feast work (R473). -/
def execPreRampTimeout (s : State) : Out :=
  match s.pwr.preRamp with
  | none => .next s
  | some (_, t) =>
    if t + 10000 ≤ s.clk.now then
      .next { s with pwr := { s.pwr with preRamp := none, hints := s.pwr.hints.filter fun h => h.start ≠ t } }
    else .next s

/-- `FAST_HINT_END`: the announced duration has expired, and the share follows R465 again (R474). -/
def execFastHintEnd (sh : Fin 64) (s : State) : Out :=
  match (s.shell sh).pw.fast with
  | none => .next s
  | some (_, e, _) =>
    if e ≤ s.clk.now then .next (s.modShell sh fun x => { x with pw := { x.pw with fast := none } }) else .next s

/-! ## Thermal control (R416, R476–R479, R500) -/

/-- THERM_ALERT# is asserted while a condition holds that names it, and after a trip (R478, R479). -/
def alertHolds (s : State) : Bool :=
  s.pwr.tripped || s.pwr.coolAlert || s.pwr.lvlDie.any (fun e => e.2 = 2) || s.stackTab.any fun e => e.2.throttle = 3

/-- The pin follows its conditions, and each change is logged with its sensor and temperature. -/
def updateAlert (sensor temp : Nat) (s : State) : State :=
  let a := alertHolds s
  if a = s.pwr.alert then s
  else logEvent 0x0403 0 0 [sensor, temp] { s with pwr := { s.pwr with alert := a } }

/-- A thermal trip: the record of type 0x0404, then the reset level (R478, R566). -/
def trip (sensor temp : Nat) (s : State) : State :=
  if s.pwr.tripped then s
  else enterResetLevel (logEvent 0x0404 6 0 [sensor, temp]
    (updateAlert sensor temp { s with pwr := { s.pwr with tripped := true } }))

/-- An invalid sensor is logged once and raises the error vectors of both PFs (R500, R532). -/
def sensorInvalid (n : Nat) (s : State) : State :=
  if s.pwr.invalid.contains n then s
  else setCauseBoth 9 (logEvent 0x0406 4 0 [n] { s with pwr := { s.pwr with invalid := s.pwr.invalid ++ [n] } })

/-- Readings of hotspots from a sensor number on: each valid one is kept, each invalid one logged. -/
def keepReadings (base : Nat) (rs : List Reading) (s : State) : State :=
  rs.zipIdx.foldl (fun s z =>
    match z.1 with
    | .ok v => { s with pwr := { s.pwr with sensors := tset s.pwr.sensors (base + z.2) v } }
    | .bad => sensorInvalid (base + z.2) s) s

/-- The highest valid reading, with 5 °C more where a sensor is invalid; none where no sensor is valid (R500). -/
def hottest (rs : List Reading) : Option Nat :=
  let vs := rs.filterMap fun r => match r with
    | .ok v => some v
    | .bad => none
  match vs.max? with
  | none => none
  | some m => some (if vs.length < rs.length then m + 20 else m)

/-- The level of a two-threshold action: each holds from the first reading that crosses its threshold to the first one
3 °C below it (R476). Readings are in 0.25 °C; t0 is T_0. -/
def dieLevel (old t0 t : Nat) : Nat :=
  if 420 ≤ t || (2 ≤ old && 420 - 12 < t) then 2
  else if t0 < t || (1 ≤ old && t0 < t + 12) then 1 else 0

/-- The bubble request above a start (R416, R476): min(128, ⌈12.8 × (T − start)⌉). -/
def heatRequest (start t : Nat) : Nat := min 128 (ceilDiv (16 * (t - start)) 5)

/-- One group of hotspots read: die 0, die 1 or the IOD (2). -/
def readGroup (g base : Nat) (rs : List Reading) (s : State) : State :=
  let s := keepReadings base rs s
  match hottest rs with
  | none => trip base 0 s
  | some t =>
    let t0 := 4 * effTj s
    let lvl := dieLevel (tget 0 s.pwr.lvlDie g) t0 t
    let req := if lvl = 2 then 128 else if lvl = 1 then heatRequest t0 t else 0
    let s := { s with pwr := { s.pwr with hot := tset s.pwr.hot g t, lvlDie := tset s.pwr.lvlDie g lvl,
                                          reqDie := tset s.pwr.reqDie g req } }
    if 460 ≤ t then trip base t s else updateAlert base t (stopBallast s)

/-- `DIE_SENSOR_READ` (R476, R478, R500). -/
def execDieSensorRead (x : DieReadings) (s : State) : Out :=
  .next (readGroup 2 96 x.iod (readGroup 1 48 x.die1 (readGroup 0 0 x.die0 s)))

/-- `COOLANT_READ`: the ceiling falls by 40 W for each °C above `cool_max`, to 800 W (R477). -/
def execCoolantRead (deci : Nat) (s : State) : Out :=
  let above := deci - 10 * effCool s
  .next (updateAlert 112 deci { s with pwr := { s.pwr with
    coolDeci := deci, coolCeil := 1200000000 - 4000000 * min above 100, coolAlert := 100 ≤ above } })

/-- The throttle level of a stack: above 85 °C, above 95 °C, at 105 °C and above, each ending 3 °C below (R416). -/
def stackLevel (old t : Nat) : Nat :=
  if 420 ≤ t || (3 ≤ old && 408 < t) then 3
  else if 380 < t || (2 ≤ old && 368 < t) then 2
  else if 340 < t || (1 ≤ old && 328 < t) then 1 else 0

/-- `STACK_TEMP_READING`: refresh, throttle and co-throttle by the stack's temperature; 110 °C or an invalid sensor trips
(R416, R417, R478, R500). -/
def execStackTempReading (st : Fin 8) (r : Reading) (s : State) : Out :=
  match r with
  | .bad => .next (trip (104 + st.val) 0 (sensorInvalid (104 + st.val) s))
  | .ok t =>
    let lvl := stackLevel (s.stack st).throttle t
    let req := if lvl = 3 then 128 else if lvl = 2 then heatRequest 380 t else 0
    let begins := s.mode.fixed && (s.stack st).throttle < 2 && 2 ≤ lvl
    let s := s.modStack st fun x => { x with temp := t, throttle := lvl, req := req }
    let s := if begins then logEvent 0x0104 0 0 [exactThrottle, st.val / 4, st.val] s else s
    if 440 ≤ t then .next (trip (104 + st.val) t s)
    else
      let s := updateAlert (104 + st.val) t (stopBallast s)
      .next (if 2 ≤ lvl then loseExactDie exactThrottle (st.val / 4) s else s)

/-! ## Shedding stages (R480–R486) -/

/-- Falling and rising thresholds in 10 mV; `shed_up` raises those of S1 to S3 (R480, R487). -/
def fallAt (s : State) (k : Nat) : Nat :=
  4500 - 200 * k + (if k < 4 then 10 * s.pwr.pol.shedUp.toNat else 0)

def riseAt (s : State) (k : Nat) : Nat := fallAt s k + 100

/-- The tasks that shedding reaches: those from admission to their end. -/
def shedTasks (s : State) : List (Nat × Task) := s.tasks.filter fun e => live e.2

/-- A task aborted by shedding is counted in the dip (R486). -/
def shedAbort (tid stage : Nat) (s : State) : State :=
  modDip (fun d => { d with aborted := d.aborted + 1 }) (abortTask tid { code := 0x42, detail := stage } 0 noCmd s)

/-- One task at S2: a gated task and one without a save area end with 0x42, any other is asked to yield, as soon as it
runs (R349, R452, R482). -/
def shedOne (s : State) (e : Nat × Task) : State :=
  if e.2.gate.isSome || e.2.save = 0 then shedAbort e.1 2 s
  else requestPreempt e.1 (s.modTask e.1 fun t => { t with preReq := true })

/-- Shells without a task park in S2 once nothing waits to leave them (R50, R482). -/
def parkShells (s : State) : State := (List.range 64).foldl (fun s L => parkShell L s) s

/-- The Shells unpark when S2 is left (R485). -/
def unparkShells (s : State) : State :=
  (List.range 64).foldl (fun s L => s.modShell L fun x => { x with pw := { x.pw with parked := false } }) s

/-- Entry to S3: every task not pre-empted aborts, its end-of-task steps held back; the stacks withhold their credits,
retire their buffers and enter self-refresh (R418, R483). Phases 4 and 5 of a start begin again (R603). -/
def shedOut (s : State) : State :=
  let s := (shedTasks s).foldl (fun s e =>
    (shedAbort e.1 3 s).modTask e.1 fun t => { t with s3Held := true }) s
  let s := if s.up.ready = .start then { s with up := { s.up with memDone := false, shellDone := false } } else s
  (List.range 8).foldl (fun s st =>
    let s := retireAll st (s.modStack st fun x => { x with credits := false })
    s.modStack st fun x => { x with selfRefresh := true, inS3Exit := false, openRow := [] }) s

/-- The voltage of each feed, at the lowest V_in of the dip (R486). -/
def lowDip (s : State) : State :=
  modDip (fun d => if s.pwr.vin < d.lowest then
    { d with lowest := s.pwr.vin, lowA := s.pwr.feedA.cv, lowB := s.pwr.feedB.cv } else d) s

/-- A dip begins with S1 (R486). -/
def beginDip (s : State) : State :=
  if s.pwr.dip.isSome then s
  else
    let d : Dip := {
      deepest := 0, alm := s.clk.alm, entry := [], exit := [], lowest := s.pwr.vin,
      lowA := s.pwr.feedA.cv, lowB := s.pwr.feedB.cv, preempted := 0, aborted := 0, ballastNj := 0 }
    { s with pwr := { s.pwr with dip := some d } }.bump (modCtr 9)

/-- A stage is entered and its actions are started (R480–R484). -/
def enterStage (k : Nat) (s : State) : State :=
  let s := beginDip s
  let s := modDip (fun d => { d with deepest := max d.deepest k, entry := tset d.entry k s.clk.alm }) s
  let s := stopBallast { s with pwr := { s.pwr with stage := k } }
  match k with
  | 1 =>
    let s := { s with pwr := { s.pwr with preRamp := none } }
    loseExactDie exactSupply 1 (loseExactDie exactSupply 0 s)
  | 2 => parkShells ((shedTasks s).foldl shedOne (endFreezes s))
  | 3 => shedOut s
  | _ => enterResetLevel s

/-- `STAGE_ENTRY`: V_in has stayed below falling thresholds for 1 µs; each stage is entered in turn (R480). A fall below
the threshold of S3 cuts its exit short (R485). -/
def execStageEntry (vin : Nat) (s : State) : Out :=
  if !mainOn s then .next s
  else
    let s := lowDip { s with pwr := { s.pwr with vin := vin } }
    let s := if s.pwr.stage = 3 && vin < fallAt s 3 then
      { s with stackTab := tmap (fun _ x => { x with selfRefresh := true, inS3Exit := false }) s.stackTab } else s
    .next ((List.range 5).foldl (fun s k =>
      if s.pwr.stage < k && s.pwr.stage < 4 && vin < fallAt s k then enterStage k s else s) s)

/-- Microseconds from a stage's stamp to the record (R571). -/
def dipUs (now : BitVec 64) (t : Tab (BitVec 64)) (k : Nat) : Nat :=
  match tfind t k with
  | none => 0xFFFFFFFF
  | some x => (now - x).toNat / 1000

/-- The shedding record of a dip (R486, R642). The bubble energy has no stated measure: free. -/
def writeDip (s : State) : State :=
  match s.pwr.dip with
  | none => s
  | some d =>
    let (k, s) := s.drawFree
    let now := s.clk.alm
    let s := { s with pwr := { s.pwr with
      dip := none, shedNew := true, shedDeep := d.deepest, shedSeq := s.cox.seq } }
    setCauseBoth 13 (logEvent 0x0401 4 0
      ([d.deepest, d.lowest, d.lowA, d.lowB, d.preempted, d.aborted, d.ballastNj / 1000000, Config.openShare k 0 0] ++
        [dipUs now d.entry 1, dipUs now d.exit 1, dipUs now d.entry 2, dipUs now d.exit 2, dipUs now d.entry 3,
         dipUs now d.exit 3]) s)

/-- A stage is left (R485). -/
def leaveStage (s : State) : State :=
  let k := s.pwr.stage
  let s := modDip (fun d => { d with exit := tset d.exit k s.clk.alm }) s
  { s with pwr := { s.pwr with stage := k - 1 } }

/-- `STAGE_EXIT`: V_in has stayed at or above the rising threshold for 100 µs; the stages are left in order, each step
waiting for the one before it (R480, R485). -/
def execStageExit (vin : Nat) (s : State) : Out :=
  if !mainOn s then .next s
  else
    let s := { s with pwr := { s.pwr with vin := vin } }
    if vin < riseAt s s.pwr.stage then .next s
    else match s.pwr.stage with
      | 1 => .next (writeDip (leaveStage s))
      | 2 => .next (unparkShells (leaveStage s))
      | 3 => .next ((List.range 8).foldl (fun s st =>
          s.modStack st fun x => { x with selfRefresh := false, inS3Exit := true }) s)
      | _ => .next s

/-- `S3_EXIT_DONE`: all 66 channels of each stack are retrained, credits are restored, what was held is served, and the
end-of-task steps held back may run (R419, R485). -/
def execS3ExitDone (s : State) : Out :=
  if s.pwr.stage ≠ 3 || s.stackTab.any (fun e => !e.2.inS3Exit) || s.stackTab.isEmpty then .next s
  else
    let s := (List.range 8).foldl (fun s st => (s.modStack st fun x =>
      { x with inS3Exit := false, refresh := [], refBase := s.clk.now }).bump (stackCtr st 9) 66) s
    let s := (List.range 8).foldl (fun s st => restoreCredits st s) s
    let s := { s with tasks := tmap (fun _ t => { t with s3Held := false }) s.tasks }
    .next (serveHeld .B (serveHeld .A (leaveStage s)))

/-! ## Energy (R490, R491) -/

/-- Nanojoules added to a µJ counter, what is left of a µJ kept for the next time. -/
def addNj (k nj : Nat) (s : State) : State :=
  let n := tget 0 s.pwr.nj k + nj
  let t := tset s.pwr.nj k (n % 1000)
  { s with pwr := { s.pwr with nj := t } }.bump (modCtr k) (n / 1000)

/-- A Shell's charge goes to the task that holds it, or to the idle counter. -/
def chargeShell (c : Nat) (s : State) (L : Nat) : State :=
  match (s.shell L).holder with
  | some tid => s.modTask tid fun t => { t with energyNj := t.energyNj + c }
  | none => addNj 3 c s

/-- `ENERGY_CHARGE`: c_s = E × (e_s + u) / (Σ e_s + e_b + 64 u), and the ballast's share (R490, R491). -/
def execEnergyCharge (x : EnergyIn) (s : State) : Out :=
  let den := (List.range 64).foldl (fun a L => a + x.shells.getD L 0) 0 + x.ballast + 64 * x.share
  let bal := x.total * x.ballast / den
  let s := (List.range 64).foldl (fun s L => chargeShell (x.total * (x.shells.getD L 0 + x.share) / den) s L) s
  let s := addNj 4 bal (addNj 2 x.total ((s.bump (modCtr 0) x.feedA).bump (modCtr 1) x.feedB))
  .next (modDip (fun d => { d with ballastNj := d.ballastNj + bal }) s)

end Sys2Proof.Machine
end

