-- ==== Sys2Proof/Machine/Trace.lean ====
section
/-! DEFINITION. The counter dump, the trace collectors and the debugger's other actions (17_debug_counters_errors
R573–R584). -/

namespace Sys2Proof.Machine

/-! ## The counter dump (R573–R576) -/

/-- Bytes of a dump. -/
def dumpBytes : Nat := 69632

/-- The mask of logical Shells in service. -/
def shellMask (s : State) : Nat :=
  (List.range 64).foldl (fun m L => if (s.shell L).vacant then m else m + 2 ^ L) 0

/-- A counter has a place in the dump of a Shell that is vacant: its section reads as zero (R575). -/
def hiddenCtr (s : State) (k : Nat) : Bool := 512 ≤ k && (s.shell ((k - 512) / 128)).vacant

/-- The header of a dump (R576) as a 512-bit number. -/
def dumpHeader (s : State) (cleared refused : Bool) : Nat :=
  0x52544E43 + 2 ^ 32 + (if cleared then 2 ^ 40 else 0) + (if refused then 2 ^ 41 else 0) + 2 ^ 64 * s.clk.alm.toNat +
    2 ^ 128 * s.ctrSince.toNat + 2 ^ 192 * shellMask s

/-- The counters and the header placed at an address: every byte of the dump is written. -/
def dumpInto (s : State) (head a : Nat) (m : Mem) : Mem :=
  mputNum (s.ctr.foldl (fun m e =>
    if 8 ≤ e.1 && 8 * e.1 < dumpBytes && !hiddenCtr s e.1 then mputNum m (a + 8 * e.1) 8 e.2 else m)
      (mzero m a dumpBytes)) a 64 head

/-- One port's dump: latched, cleared when asked by the holder of semaphore 3, and written; a write that fails sets
`cd_err` (R573, R574). -/
def dumpPort (p : Port) (s : State) : State :=
  let x := s.port p
  let clear := x.cdClr && s.holds p 3
  let head := dumpHeader s clear (x.cdClr && !clear)
  let m := dumpInto s head x.cdAddr.toNat x.host
  let up := x.linkUp
  let s := if clear then { s with ctr := [], ctrSince := s.clk.alm } else s
  let s := if up then (s.modPort p fun y => { y with host := m }).bump (portCtr p 1) dumpBytes
    else (s.modPort p fun y => { y with cdErr := true }).bump (portCtr p 15)
  { s with dumpLast := p }

/-- `COUNTER_DUMP`: `cd_go` is written by a PF; when both ports ask at once, the one not served last goes first
(R574). -/
def execCounterDump (p : Port) (f : Fin 32) (both : Bool) (s : State) : Out :=
  if !isPF f then .next s
  else if both then .next (dumpPort s.dumpLast (dumpPort (otherPort s.dumpLast) s))
  else .next (dumpPort p s)

/-! ## Trace collectors (R577–R582) -/

/-- Records that a collector's FIFO holds. -/
def fifoMax : Nat := 4096

/-- Bytes of a collector's half of the buffer (R577). -/
def traceHalf (t : Trace) : Nat := 2 ^ t.size.toNat / 2

/-- A record as 32 bytes (R578). -/
def recBytes (r : TraceRec) : List Byte :=
  leBytes 32 (r.alm.toNat + 2 ^ 64 * (r.shell % 64) + (if r.cox then 2 ^ 70 else 0) + 2 ^ 72 * (r.event % 256) +
    2 ^ 80 * (r.op % 256) + 2 ^ 88 * (r.status % 256) + 2 ^ 96 * (r.idx % 2 ^ 32) + 2 ^ 128 * (r.ctx % 2 ^ 16) +
    2 ^ 144 * (r.ring % 512) + 2 ^ 160 * r.dindex.toNat + 2 ^ 192 * r.arg.toNat)

def fifoOf (t : Trace) (k : Nat) : List TraceRec := if k = 0 then t.fifo0 else t.fifo1
def wptrOf (t : Trace) (k : Nat) : Nat := if k = 0 then t.wptr0 else t.wptr1

def setFifo (k : Nat) (q : List TraceRec) (t : Trace) : Trace :=
  if k = 0 then { t with fifo0 := q } else { t with fifo1 := q }

def setWptr (k n : Nat) (t : Trace) : Trace := if k = 0 then { t with wptr0 := n } else { t with wptr1 := n }

/-- The oldest record of a FIFO written to its half; with `tr_wrap` = 0 a record past its end is counted as lost
(R577, R582). -/
def drainOne (k : Nat) (s : State) : State :=
  let t := s.trace
  match fifoOf t k with
  | [] => s
  | r :: q =>
    let half := traceHalf t
    let w := wptrOf t k
    if half ≤ w then { s.bump (errCtr 22) with trace := setFifo k q t }
    else
      let w' := if w + 32 = half && t.wrap then 0 else w + 32
      let a := t.base.toNat + half * k + w
      let s := { s with trace := setWptr k w' (setFifo k q t) }
      if a + 32 ≤ physMax then storeQuiet (.agent k) a (recBytes r) s else s

/-- Every record of a FIFO written. -/
def drainAll (k : Nat) (s : State) : State :=
  (fifoOf s.trace k).foldl (fun s _ => drainOne k s) s

/-- A record taken into a FIFO; a full one writes its oldest first. -/
def pushRec (k : Nat) (r : TraceRec) (s : State) : State :=
  let s := if (fifoOf s.trace k).length < fifoMax then s else drainOne k s
  { s with trace := setFifo k (fifoOf s.trace k ++ [r]) s.trace }

/-- The sources of a collector in the order it serves them: logical Shells of its die, and Cox last (R577, R582). -/
def sourcesOf (k : Nat) : List Nat := if k = 0 then List.range 32 ++ [64] else (List.range 32).map (· + 32)

/-- The record that says how many were lost before it (R579). -/
def lostRec (now : BitVec 64) (src n : Nat) : TraceRec :=
  { alm := now, shell := src % 64, cox := src = 64, event := 0x20, op := 0, status := 0, idx := 0, ctx := 0, ring := 0,
    dindex := 0, arg := BitVec.ofNat 64 n }

/-- `TRACE_RECORD_ACCEPT`: a collector accepts the next waiting record, a `LOST` record before it where the source had
lost some; a collector that has stopped counts it as lost (R582). -/
def execTraceRecordAccept (k : Fin 2) (s : State) : Out :=
  match (sourcesOf k).find? fun c => !(tget [] s.trace.waiting c).isEmpty with
  | none => .next s
  | some c =>
    match tget [] s.trace.waiting c with
    | [] => .next s
    | r :: q =>
      let n := tget 0 s.trace.lost c
      let s := { s with trace := { s.trace with waiting := tset s.trace.waiting c q } }
      let stop := !s.trace.wrap && traceHalf s.trace ≤ wptrOf s.trace k + 32 * (fifoOf s.trace k).length
      if stop then .next (parkShell c (s.bump (errCtr 22)))
      else
        let s := { s with trace := { s.trace with lost := tdel s.trace.lost c } }
        .next (parkShell c (pushRec k r (if n = 0 then s else pushRec k (lostRec s.clk.alm c n) s)))

/-- `TRACE_DISABLE`: `tr_en` = 0 is written with semaphore 3; what stands in the FIFOs is written first (R582). -/
def execTraceDisable (p : Port) (f : Fin 32) (s : State) : Out :=
  if !(isPF f && s.holds p 3 && s.trace.en) then .next s
  else
    let s := drainAll 1 (drainAll 0 s)
    .next { s with trace := { s.trace with en := false } }

/-- Each collector writes one record of its FIFO as time passes (R582; log 1). -/
def drainTraces (s : State) : State := drainOne 1 (drainOne 0 s)

/-! ## `MARK` and freezing (R583, R584) -/

/-- `TRACE_MARK`: a `MARK` record with the debugger's value goes into the collector that `die` names (R583, R644). -/
def execTraceMark (p : Port) (f : Fin 32) (s : State) : Out :=
  if !(isPF f && s.holds p 3 && s.dbg.act = 6) then .next s
  else
    let s := { s with dbg := { s.dbg with noeff := false } }
    if !s.trace.en then .next s
    else
      let r : TraceRec := { lostRec s.clk.alm 64 0 with cox := false, event := 0x21, arg := s.dbg.value }
      .next (pushRec (if s.dbg.die then 1 else 0) r s)

/-- Nothing found: `noeff` reads 1 (R644). -/
def noEffect (b : Bool) (s : State) : State := { s with dbg := { s.dbg with noeff := b } }

/-- `TASK_FREEZE`: a running task stops issuing at its next command boundaries; it loses its cycle-exact timing
(R584). -/
def execTaskFreeze (p : Port) (f : Fin 32) (s : State) : Out :=
  if !(isPF f && s.holds p 3 && s.dbg.act = 7) then .next s
  else match debugTask s with
    | none => .next (noEffect true s)
    | some (tid, t) =>
      if t.st ≠ .running || t.frozen then .next (noEffect false s)
      else
        let s := (noEffect false s).modTask tid fun t => { t with frozen := true }
        let s := logEvent 0x0103 0 t.ctx [portNum p, refCode t.ref, 0, 1] (traceAll t 0x22 0 1 s)
        .next (loseExact tid 3 0 s)

/-- `FREEZE_RELEASE`: the debugger releases a frozen task (R584). -/
def execFreezeRelease (p : Port) (f : Fin 32) (s : State) : Out :=
  if !(isPF f && s.holds p 3 && s.dbg.act = 8) then .next s
  else match debugTask s with
    | none => .next (noEffect true s)
    | some (tid, _) => .next (endFreeze tid (noEffect false s))

end Sys2Proof.Machine
end

