-- ==== Sys2Proof/Machine/Registers.lean ====
section
/-! DEFINITION. The register block of a function (20_register_map R621–R649, 00_scope R13–R17): fields that only store,
region entries, cache sizes, peer tables, memory windows, frame acknowledgements, the Almanac and the launch gates. -/

namespace Sys2Proof.Machine

/-! ## Writes of a register word (R13–R17, R622) -/

/-- A 64-bit register word written under a mask. -/
def under (mask v cur : BitVec 64) : BitVec 64 := (cur &&& ~~~mask) ||| (v &&& mask)

/-- Bit n of a word is written with 1 (R13). -/
def ones1 (mask v : BitVec 64) (n : Nat) : Bool := mask.getLsbD n && v.getLsbD n

/-- An RW1C bit after a write: a 1 clears it, unless hardware sets it in the same cycle (R13, R14). -/
def rw1c (mask v same : BitVec 64) (n : Nat) (b : Bool) : Bool := b && !(ones1 mask v n && !same.getLsbD n)

/-- Bits [hi:lo] of a word as a number. -/
def fld (v : BitVec 64) (hi lo : Nat) : Nat := bits v.toNat hi lo

/-- A field that keeps its value when the written one is out of range (R15, R492). -/
def keepIf {α : Type} (ok : Bool) (new old : α) : α := if ok then new else old

/-- The context that the selected-context region shows: live, and of this function (R634). -/
def selected (s : State) (p : Port) (f : Nat) : Option Nat :=
  let c := (s.fn (fnKey p f)).ctxSel.toNat
  if seesCtx (s.ctx c) p f then some c else none

/-! ### Module and port, function (R596, R627–R632) -/

/-- Readiness: `hold` is set by a write and cleared only by a cold module reset (R596). -/
def wrReady (mask v : BitVec 64) (s : State) : State :=
  if ones1 mask v 11 then { s with up := { s.up with hold := true } } else s

/-- Port control (R628). -/
def wrPortCtl (p : Port) (mask v : BitVec 64) (s : State) : State :=
  s.modPort p fun x =>
    let w := under mask v (x.pollUs.setWidth 64 ||| (x.maxRate.setWidth 64 <<< 12) ||| (x.hangUs.setWidth 64 <<< 16))
    { x with pollUs := keepIf (1 ≤ fld w 10 0 && fld w 10 0 ≤ 1024) (w.extractLsb' 0 11) x.pollUs,
             maxRate := keepIf (fld w 13 12 ≠ 3) (w.extractLsb' 12 2) x.maxRate, hangUs := w.extractLsb' 16 16 }

/-- `dlb_off` and `host_pad_ns` (R630). -/
def wrMode (mask v : BitVec 64) (s : State) : State :=
  { s with mode := { s.mode with dlbOff := if mask.getLsbD 1 then v.getLsbD 1 else s.mode.dlbOff } }

def wrHostPad (mask v : BitVec 64) (s : State) : State :=
  let n := fld (under mask v (s.mode.hostPad.setWidth 64)) 14 0
  { s with mode := { s.mode with hostPad := keepIf (1000 ≤ n && n ≤ 20000) (BitVec.ofNat 15 n) s.mode.hostPad } }

/-- The stored fields of the function region (R632): `fn_cause` is RW1C. -/
def wrFn (k off : Nat) (mask v same : BitVec 64) (s : State) : State :=
  s.modFn k fun x =>
    match off with
    | 0x00 => { x with cause := x.cause &&& ~~~ (mask &&& v &&& ~~~ same).setWidth 14 }
    | 0x08 => { x with ctxId := (under mask v (x.ctxId.setWidth 64)).setWidth 8 }
    | 0x10 => { x with ctxSel := (under mask v (x.ctxSel.setWidth 64)).setWidth 8 }
    | 0x18 => { x with apCtx := (under mask v (x.apCtx.setWidth 64)).setWidth 8 }
    | 0x20 => { x with abRing := (under mask v (x.abRing.setWidth 64)).setWidth 3 }
    | _ => x

/-! ### Mailbox pages (R507, R508, R510, R636) -/

/-- Bytes of a channel's buffer; while `go` is 1 they are ignored and `wlost` is set and counted (R508, R575). -/
def writeBuf (c : Chan) (off : Nat) (bs : List Byte) (s : State) : State :=
  if (s.chan c).go then (s.modChan c fun x => { x with wlost := true }).bump (errCtr 23)
  else s.modChan c fun x => { x with buf := mput x.buf off bs }

/-- The stored fields of a block control and of a word control (R507, R510). -/
def wrBlockCtl (c : Chan) (mask v same : BitVec 64) (s : State) : State :=
  s.modChan c fun x =>
    { x with done := rw1c mask v same 1 x.done, wlost := rw1c mask v same 5 x.wlost,
             ieDone := if mask.getLsbD 4 then v.getLsbD 4 else x.ieDone }

def wrWordCtl (c : Chan) (mask v same : BitVec 64) (s : State) : State :=
  s.modChan c fun x =>
    { x with inOvf := rw1c mask v same 1 x.inOvf, ieEmpty := if mask.getLsbD 3 then v.getLsbD 3 else x.ieEmpty,
             ieWord := if mask.getLsbD 4 then v.getLsbD 4 else x.ieWord }

/-- A write inside a mailbox page. -/
def wrMailbox (c : Chan) (off : Nat) (mask v same : BitVec 64) (s : State) : State :=
  if off < 0x400 then
    let lo := if mask.getLsbD 0 then 0 else 4
    let n := if mask = BitVec.allOnes 64 then 8 else 4
    writeBuf c (off + lo) ((leBytes 8 v.toNat).drop lo |>.take n) s
  else if off = 0x400 then wrBlockCtl c mask v same s
  else if off = 0x410 then wrWordCtl c mask v same s
  else s

/-! ### Power (R641, R642) -/

/-- The policy as its register word. -/
def policyWord (x : Policy) : BitVec 64 :=
  x.capW.setWidth 64 ||| (x.inCapW.setWidth 64 <<< 16) ||| (x.rampW.setWidth 64 <<< 32) |||
    (x.shedUp.setWidth 64 <<< 40) ||| (x.tjSoft.setWidth 64 <<< 48) ||| (x.coolMax.setWidth 64 <<< 56) |||
    (if x.hintsEn then 1#64 <<< 63 else 0)

/-- A value within bounds. -/
def within (lo hi n : Nat) : Bool := lo ≤ n && n ≤ hi

/-- The power policy: a value outside its range leaves its field (R492). -/
def wrPolicy (mask v : BitVec 64) (s : State) : State :=
  let x := s.pwr.pol
  let w := under mask v (policyWord x)
  let pol : Policy :=
    { capW := keepIf (within 300 1200 (fld w 10 0)) (w.extractLsb' 0 11) x.capW,
      inCapW := keepIf (within 600 1400 (fld w 26 16)) (w.extractLsb' 16 11) x.inCapW,
      rampW := keepIf (within 6 60 (fld w 37 32)) (w.extractLsb' 32 6) x.rampW,
      shedUp := keepIf (within 0 50 (fld w 45 40)) (w.extractLsb' 40 6) x.shedUp,
      tjSoft := keepIf (within 70 95 (fld w 54 48)) (w.extractLsb' 48 7) x.tjSoft,
      coolMax := keepIf (within 25 40 (fld w 61 56)) (w.extractLsb' 56 6) x.coolMax,
      hintsEn := w.getLsbD 63 }
  { s with pwr := { s.pwr with pol := pol } }

def wrShed (mask v same : BitVec 64) (s : State) : State :=
  { s with pwr := { s.pwr with shedNew := rw1c mask v same 0 s.pwr.shedNew } }

/-! ### Counter dump, trace, debug (R643, R644) -/

def wrDump (p : Port) (off : Nat) (mask v same : BitVec 64) (s : State) : State :=
  s.modPort p fun x =>
    match off with
    | 0x00 => { x with cdAddr := under mask v x.cdAddr }
    | 0x08 => { x with cdClr := if mask.getLsbD 1 then v.getLsbD 1 else x.cdClr, cdErr := rw1c mask v same 3 x.cdErr }
    | _ => x

/-- The trace parameters: with tracing on, only `tr_en` may be written, and its clearing is a command of its own (R577,
R582). -/
def wrTrace (off : Nat) (mask v : BitVec 64) (s : State) : State :=
  let t := s.trace
  if t.en then s
  else
    let t := match off with
      | 0x100 => { t with base := under mask v t.base }
      | 0x108 =>
        let cur := (if t.cox then 2#64 else 0) ||| (if t.wrap then 4#64 else 0) ||| (t.ctx.setWidth 64 <<< 8) |||
          (t.size.setWidth 64 <<< 16)
        let w := under mask v cur
        { t with en := w.getLsbD 0, cox := w.getLsbD 1, wrap := w.getLsbD 2, ctx := w.extractLsb' 8 8,
                 size := keepIf (within 16 32 (fld w 21 16)) (w.extractLsb' 16 6) t.size }
      | 0x110 => { t with shells := under mask v t.shells }
      | 0x118 => { t with events := under mask v t.events }
      | _ => t
    { s with trace := t }

/-- The debug registers but for `go` (R644). -/
def wrDebug (off : Nat) (mask v : BitVec 64) (s : State) : State :=
  let d := s.dbg
  let d := match off with
    | 0x00 =>
      let cur := d.act.setWidth 64 ||| (d.ctx.setWidth 64 <<< 4) ||| (d.obj.setWidth 64 <<< 12) |||
        (d.lshell.setWidth 64 <<< 20) ||| (d.vigil.setWidth 64 <<< 26) ||| (if d.die then 1#64 <<< 36 else 0)
      let w := under mask v cur
      { d with act := keepIf (within 1 8 (fld w 3 0)) (w.extractLsb' 0 4) d.act, ctx := w.extractLsb' 4 8,
               obj := w.extractLsb' 12 8, lshell := w.extractLsb' 20 6, vigil := w.extractLsb' 26 10,
               die := w.getLsbD 36 }
    | 0x08 => { d with value := under mask v d.value }
    | 0x10 =>
      let cur := (if d.port then 1#64 else 0) ||| (d.fn.setWidth 64 <<< 1) ||| (d.ring.setWidth 64 <<< 6) |||
        (d.dindex.setWidth 64 <<< 32)
      let w := under mask v cur
      { d with port := w.getLsbD 0, fn := w.extractLsb' 1 5, ring := w.extractLsb' 6 3, dindex := w.extractLsb' 32 32 }
    | _ => d
  { s with dbg := d }

/-! ### Sync role and launch gates (R446, R645, R646) -/

/-- A change of role ends what a follower knew of its master (R448, R449). -/
def wrRole (mask v : BitVec 64) (s : State) : State :=
  let r := (under mask v (s.sync.role.setWidth 64)).extractLsb' 0 2
  if r = 3 || r = s.sync.role then s
  else { s with sync := { s.sync with role := r, locked := false, synced := false, good := 0, missed := 0,
                                      offset := 0, slew := 0 } }

/-- The gate that a disarm by register leaves: the task it held goes on (R450). -/
def disarm (p : Port) (g : Nat) (s : State) : State :=
  let x := tget Gate.reset (s.port p).gates g
  let s := s.modPort p fun y => { y with gates := tset y.gates g { x with arm := false, task := none } }
  match x.task with
  | none => s
  | some tid => s.modTask tid fun t => { t with gate := none }

/-- A launch gate's registers: while `arm` is 1 only `arm` can change (R646). -/
def wrGate (p : Port) (g off : Nat) (mask v same : BitVec 64) (s : State) : State :=
  let x := tget Gate.reset (s.port p).gates g
  if x.arm then
    if off = 0 && mask.getLsbD 0 && !v.getLsbD 0 then disarm p g s else s
  else
    let y :=
      if off = 8 then { x with count := under mask v x.count }
      else
        let cur := (if x.lateAbort then 2#64 else 0) ||| (BitVec.ofNat 64 x.fn <<< 4) ||| (BitVec.ofNat 64 x.ring <<< 9)
        let w := under mask v cur
        { x with lateAbort := w.getLsbD 1, late := rw1c mask v same 2 x.late,
                 conflict := rw1c mask v same 3 x.conflict, fn := fld w 8 4, ring := fld w 11 9 }
    s.modPort p fun z => { z with gates := tset z.gates g y }

/-! ### The selected context (R324, R434, R634, R635) -/

/-- A memory-window entry as its eight register words, without `en` and reserved fields. -/
def winWord (m : MWin) : Nat → BitVec 64
  | 0 => (if m.rd then 2#64 else 0) ||| (if m.wr then 4#64 else 0) ||| (if m.acc then 8#64 else 0) |||
      (m.etype.setWidth 64 <<< 8) ||| (m.logN.setWidth 64 <<< 12) ||| (m.chain.setWidth 64 <<< 17) |||
      (m.chk.setWidth 64 <<< 21) ||| (m.chkShell.setWidth 64 <<< 26)
  | 1 => m.base
  | 2 => m.pages.setWidth 64 ||| (m.land.setWidth 64 <<< 16)
  | 3 => m.peers
  | 4 => m.mmask
  | 5 => m.wseed
  | _ => 0

/-- Reserved bits of a window's register words (R434). -/
def winReserved : Nat → BitVec 64
  | 0 => 0xFFFFFFFF000000F0
  | 2 => 0xFFFFFFFFFF00FC00
  | 6 => 0xFFFFFFFF00000000
  | 7 => 0xFFFFFFFFFFFFFFFF
  | _ => 0

/-- A word of a memory-window entry: every field but `en`, and only while `en` = 0 (R434). -/
def wrWin (u : Nat) (mask v : BitVec 64) (m : MWin) : MWin :=
  if m.en then m
  else
    let w := under mask v (winWord m u)
    let bad := v &&& mask &&& winReserved u ≠ 0
    let m := { m with rsv := (m.rsv &&& ~~~ (1#8 <<< u)) ||| (if bad then 1#8 <<< u else 0) }
    match u with
    | 0 => { m with rd := w.getLsbD 1, wr := w.getLsbD 2, acc := w.getLsbD 3, etype := w.extractLsb' 8 4,
                    logN := w.extractLsb' 12 5, chain := w.extractLsb' 17 4, chk := w.extractLsb' 21 5,
                    chkShell := w.extractLsb' 26 6 }
    | 1 => { m with base := w }
    | 2 => { m with pages := w.extractLsb' 0 10, land := w.extractLsb' 16 8 }
    | 3 => { m with peers := w }
    | 4 => { m with mmask := w }
    | 5 => { m with wseed := w }
    | _ => m

/-- The stored registers of the selected context; `sys` is the PF's alone (R634). -/
def wrCtx (pf : Bool) (off : Nat) (mask v same : BitVec 64) (x : Ctx) : Ctx :=
  let win := fun (w : Nat) (g : MWin → MWin) => { x with mwins := tset x.mwins w (g (tget MWin.reset x.mwins w)) }
  if off = 0x00 then { x with dptRoot := under mask v x.dptRoot &&& ~~~ 0xFFF#64 }
  else if off = 0x08 then
    let cur := x.pasid.setWidth 64 ||| (if x.pasidEn then 1#64 <<< 20 else 0) ||| (if x.hcache then 1#64 <<< 21 else 0) |||
      (if x.sys then 1#64 <<< 22 else 0)
    let w := under mask v cur
    { x with pasid := w.extractLsb' 0 20, pasidEn := w.getLsbD 20, hcache := w.getLsbD 21,
             sys := if pf then w.getLsbD 22 else x.sys }
  else if off = 0x18 then { x with peerCfl := rw1c mask v same 0 x.peerCfl }
  else if 0x100 ≤ off && off < 0x180 then win ((off - 0x100) / 8) fun m => { m with refused := rw1c mask v same 2 m.refused }
  else if 0x400 ≤ off && off < 0x800 then win ((off - 0x400) / 64) (wrWin (off / 8 % 8) mask v)
  else x

/-! ### Rings (R331, R637) -/

/-- A ring's set-up registers; ignored while the ring is active. -/
def wrRing (off : Nat) (mask v : BitVec 64) (x : Ring) : Ring :=
  if x.active then x
  else match off with
    | 0x00 => { x with rbase := under mask v x.rbase }
    | 0x08 => { x with cbase := under mask v x.cbase }
    | 0x10 => { x with dbl := under mask v x.dbl }
    | 0x18 =>
      let cur := x.ctx.setWidth 64 ||| (x.rlog.setWidth 64 <<< 8) ||| (x.clog.setWidth 64 <<< 13) |||
        (x.prioMax.setWidth 64 <<< 18) ||| (if x.ordered then 1#64 <<< 20 else 0) ||| (x.coalCnt.setWidth 64 <<< 32) |||
        (x.coalUs.setWidth 64 <<< 41) ||| (x.vector.setWidth 64 <<< 51)
      let w := under mask v cur
      { x with ctx := w.extractLsb' 0 8, rlog := w.extractLsb' 8 5, clog := w.extractLsb' 13 5,
               prioMax := w.extractLsb' 18 2, ordered := w.getLsbD 20,
               coalCnt := keepIf (within 1 256 (fld w 40 32)) (w.extractLsb' 32 9) x.coalCnt,
               coalUs := w.extractLsb' 41 10, vector := w.extractLsb' 51 3 }
    | 0x20 =>
      let w := under mask v (x.head0.setWidth 64 ||| (x.ctail0.setWidth 64 <<< 32))
      { x with head0 := w.extractLsb' 0 32, ctail0 := w.extractLsb' 32 32 }
    | _ => x

/-! ### Shell pool and MSI-X (R640, R648) -/

def wrShell (off : Nat) (mask v same : BitVec 64) (x : Shell) : Shell :=
  if off = 0x110 then
    { x with regCfl := rw1c mask v same 0 x.regCfl, cacheCfl := rw1c mask v same 8 x.cacheCfl }
  else x

/-- A word of the MSI-X table; an entry that is unmasked sends the message that waits (R640, PCIe 5.0 format). -/
def wrMsix (off : Nat) (mask v : BitVec 64) (x : Fn) : Fn :=
  let e := off / 16
  if 9 ≤ e then x
  else
    let cur := tget msixReset x.msix e
    let hi := off % 16 = 8
    let w := under mask v (if hi then cur.extractLsb' 64 64 else cur.extractLsb' 0 64)
    let w := if hi then w &&& 0x00000001FFFFFFFF#64 else w &&& ~~~ 3#64
    let low := cur.extractLsb' 0 64
    let y : BitVec 128 :=
      if hi then (w.setWidth 128 <<< 64) ||| low.setWidth 128
      else ((cur.extractLsb' 64 64).setWidth 128 <<< 64) ||| w.setWidth 128
    let x := { x with msix := tset x.msix e y }
    if !y.getLsbD 96 && x.pba.getLsbD e then
      { x with pba := x.pba &&& ~~~ (1#9 <<< e), sent := tset x.sent e (tget 0 x.sent e + 1) }
    else x

/-! ### The block as a whole (R621–R623) -/

/-- A PF that holds a semaphore writes; from anyone else nothing happens (R623). -/
def ifHeld (p : Port) (f : Fin 32) (k : Nat) (s x : State) : State := if isPF f && s.holds p k then x else s

/-- The aligned 64-bit word at an offset written under a mask; the RW1C bits in `same` are set by hardware in the same cycle
(R14). -/
def wrWord (p : Port) (f : Fin 32) (off : Nat) (mask v same : BitVec 64) (s : State) : State :=
  let pf := isPF f
  let k := fnKey p f
  let o := off % 0x1000
  match off / 0x1000 with
  | 0x01 =>
    if !pf then s
    else match o with
      | 0x00 => wrReady mask v s
      | 0x18 => wrPortCtl p mask v s
      | 0x40 => ifHeld p f 5 s (wrMode mask v s)
      | 0x48 => ifHeld p f 5 s (wrHostPad mask v s)
      | _ => s
  | 0x02 => wrFn k o mask v same s
  | 0x03 => if pf then wrMailbox (.fn p f true) o mask v same s else s
  | 0x04 => wrMailbox (.fn p f false) o mask v same s
  | 0x05 =>
    match o with
    | 0x00 => ifHeld p f 1 s (wrPolicy mask v s)
    | 0x10 => ifHeld p f 1 s (wrShed mask v same s)
    | _ => s
  | 0x06 => if o < 0x100 then (if pf then wrDump p o mask v same s else s) else ifHeld p f 3 s (wrTrace o mask v s)
  | 0x07 => ifHeld p f 3 s (wrDebug o mask v s)
  | 0x08 =>
    if o = 0 then ifHeld p f 4 s (wrRole mask v s)
    else if 0x100 ≤ o && o < 0x180 then ifHeld p f 4 s (wrGate p ((o - 0x100) / 16) (o % 16) mask v same s)
    else s
  | 0x0A =>
    match selected s p f with
    | none => s
    | some c => s.modCtx c (wrCtx pf o mask v same)
  | 0x30 => s.modFn k (wrMsix o mask v)
  | n =>
    if 0x10 ≤ n && n < 0x14 then s.modRing (ringKey p f ((off - 0x10000) / 0x800)) (wrRing (off % 0x800) mask v)
    else if 0x20 ≤ n && n < 0x28 then s.modShell ((off - 0x20000) / 0x200) (wrShell (off % 0x200) mask v same)
    else s

/-- Registers that are 64 bits wide, so that a half written alone waits for its upper half (R622). -/
def wide (off : Nat) : Bool :=
  let o := off % 0x1000
  match off / 0x1000 with
  | 0x01 => o = 0x00
  | 0x02 => o = 0x20 || 0x100 ≤ o
  | 0x05 => true
  | 0x06 => o ≠ 0x08 && o ≠ 0x108
  | 0x07 => o < 0x18
  | 0x08 => 0x08 ≤ o
  | 0x0A => o = 0x00 || 0x200 ≤ o
  | 0x10 => true
  | 0x11 => true
  | 0x12 => true
  | 0x13 => true
  | n => 0x20 ≤ n && n < 0x28 && off % 0x200 < 0x100

def lowMask : BitVec 64 := 0xFFFFFFFF
def highMask : BitVec 64 := 0xFFFFFFFF00000000

/-- `REGISTER_WRITE`: an aligned 32-bit or 64-bit write of fields that only store; any other size or alignment writes
nothing. The lower half of a 64-bit register is held until its upper half is written (R13, R622). -/
def execRegisterWrite (p : Port) (f : Fin 32) (off : BitVec 18) (size : Nat) (v : RegData) (s : State) : Out :=
  let o := off.toNat
  let k := fnKey p f
  let base := o - o % 8
  if size = 8 && o % 8 = 0 then
    .next (wrWord p f o (BitVec.allOnes 64) v.value v.same (s.modFn k fun x => { x with held := tdel x.held o }))
  else if size = 4 && o % 4 = 0 then
    let lo := v.value.setWidth 32
    if !wide base then
      if o % 8 = 0 then .next (wrWord p f base lowMask (lo.setWidth 64) v.same s)
      else .next (wrWord p f base highMask (lo.setWidth 64 <<< 32) v.same s)
    else if o % 8 = 0 then .next (s.modFn k fun x => { x with held := tset x.held base lo })
    else
      match tfind (s.fn k).held base with
      | none => .next (wrWord p f base highMask (lo.setWidth 64 <<< 32) v.same s)
      | some h =>
        let s := s.modFn k fun x => { x with held := tdel x.held base }
        .next (wrWord p f base (BitVec.allOnes 64) ((lo.setWidth 64 <<< 32) ||| h.setWidth 64) v.same s)
  else .next s

/-! ## Region entries (R187–R189, R214, R649) -/

/-- A region write that was not made (R648). -/
def regRefused (L e why : Nat) (s : State) : State :=
  s.modShell L fun x => { x with regCfl := true, regEnt := e, regWhy := why }

/-- A task of a context is admitted and not done (R649). -/
def ctxAdmitted (s : State) (c : Nat) : Bool :=
  s.tasks.any fun e => e.2.ctx = c && (live e.2 || e.2.st = .preempted || (e.2.st = .ending && e.2.resv))

/-- The function may write entries of a context: its own, or any as a PF with semaphore 5 (R649). -/
def mayRegion (s : State) (p : Port) (f : Fin 32) (c : Nat) : Bool :=
  seesCtx (s.ctx c) p f || (isPF f && s.holds p 5)

/-- A region entry as written (R187). -/
def regionOf (v : BitVec 64) : Region :=
  { base := v.extractLsb' 0 12, len := v.extractLsb' 12 13, scope := v.getLsbD 25, strong := v.getLsbD 26,
    ctx := v.extractLsb' 32 16, task := none, inst := 0 }

/-- `REGION_ENTRY_WRITE` (R649). -/
def execRegionEntryWrite (p : Port) (f : Fin 32) (sh : Fin 64) (e : Fin 32) (v : BitVec 64) (s : State) : Out :=
  let r := regionOf v
  let clash := regionClash (s.shell sh) e r.base.toNat r.len.toNat
  match tfind (s.shell sh).regions e with
  | none =>
    if r.len = 0 || !r.scope then .next s
    else if !mayRegion s p f r.ctx.toNat then .next (regRefused sh e 3 s)
    else if clash then .next (regRefused sh e 1 s)
    else .next (installRegion sh e r s)
  | some o =>
    if !o.scope || (r.len ≠ 0 && !r.scope) then .next s
    else if !mayRegion s p f o.ctx.toNat || (r.len ≠ 0 && !mayRegion s p f r.ctx.toNat) then .next (regRefused sh e 3 s)
    else if { r with inst := o.inst } = o then .next s
    else if ctxAdmitted s o.ctx.toNat then .next (regRefused sh e 2 s)
    else if r.len = 0 then .next (removeRegion sh e s)
    else if clash then .next (regRefused sh e 1 s)
    else .next (installRegion sh e r (removeRegion sh e s))

/-! ## Cache sizes (R200, R204, R205) -/

/-- `CACHE_SIZE_WRITE`: a PF with semaphore 5; values 5 to 7 are reserved (R200, R648). -/
def execCacheSizeWrite (p : Port) (f : Fin 32) (sh : Fin 64) (v : BitVec 3) (s : State) : Out :=
  if isPF f && s.holds p 5 && v.toNat ≤ 4 then .next (s.modShell sh fun x => { x with cacheReq := v }) else .next s

/-- A task admitted on a Shell that has not ended. -/
def shellAdmitted (s : State) (L : Nat) : Bool :=
  s.tasks.any fun e => e.2.shells.getLsbD L && (live e.2 || e.2.st = .preempted || (e.2.st = .ending && e.2.resv))

/-- `CACHE_SIZE_APPLY`: the Shell has no admitted task. A size that would take lines of a region is not made; otherwise the
lines that leave or enter the cache range are zeroed and the cache is invalidated (R189, R204, R205). -/
def execCacheSizeApply (sh : Fin 64) (s : State) : Out :=
  let x := s.shell sh
  if x.cacheReq = x.cacheEff || shellAdmitted s sh then .next s
  else
    let first := cacheFirst x.cacheReq.toNat
    if x.regions.any (fun e => first < e.2.line0 + e.2.lines) || (s.mode.fixed && x.cacheReq ≠ 0) then
      .next (s.modShell sh fun x => { x with cacheCfl := true, cacheReq := x.cacheEff })
    else
      let lo := min first (cacheFirst x.cacheEff.toNat)
      let s := cacheEvent sh s
      .next (zeroLines sh lo (spLines - lo) (s.modShell sh fun x => { x with cacheEff := x.cacheReq }))

/-! ## Peer tables and memory windows (R431, R434–R436) -/

/-- `PEER_TABLE_WRITE`: an entry of the selected context; two valid entries never carry one requester ID (R431). -/
def execPeerTableWrite (p : Port) (f : Fin 32) (e : Fin 64) (v : BitVec 64) (s : State) : Out :=
  match selected s p f with
  | none => .next s
  | some c =>
    let y : Peer := { rid := v.extractLsb' 0 16, v := v.getLsbD 16, rpos := v.extractLsb' 17 6 }
    let dup := (s.ctx c).peers.any fun q => q.1 ≠ e.val && q.2.v && q.2.rid = y.rid
    if y.v && dup then .next (s.modCtx c fun x => { x with peerCfl := true, peerEnt := e })
    else .next (s.modCtx c fun x => { x with peers := tset x.peers e y })

/-- Frames of the other enabled accumulate windows (R435). -/
def accFrames (s : State) (c w : Nat) : List Nat :=
  s.ctxs.flatMap fun x => x.2.mwins.flatMap fun m =>
    if m.2.en && m.2.acc && !(x.1 = c && m.1 = w) then m.2.frames else []

/-- The frames of a window's pages, translated for its writes (R435). -/
def winFrames (c : Nat) (m : MWin) : Act (List Nat) :=
  (List.range m.pages.toNat).mapM fun i => do
    let x ← xlateDev .iod c (m.base.toNat + 2 ^ 21 * i) m.wr
    return frameOf x.addr

/-- The first failing check of R435 after the translations, or none; the window's stack is that of its first page
(log 87). -/
def winReason (s : State) (c w : Nat) (m : MWin) (fs : List Nat) : Nat :=
  let st := fs.headD 0 / 16384
  if m.acc && (!m.wr || fs.any (fun f => f / 16384 ≠ st) || fs.any (fun f => (accFrames s c w).contains f)) then 4
  else
    let r36 := match tfind (s.ctx c).chains m.chain.toNat with
      | none => false
      | some ch => m.logN.toNat ≤ ch.maxLogN && m.mmask ≠ 0 && m.mmask.toNat / 2 ^ ch.mods.length = 0
    if m.etype = 0 && !r36 then 5
    else if m.chk.toNat ≤ 16 && ((s.shell m.chkShell.toNat).vacant || m.chkShell.toNat / 32 ≠ st / 4) then 6 else 0

/-- A reserved field or encoding of a window entry: reason 1 of R435. -/
def mwinBad (m : MWin) : Bool :=
  m.rsv ≠ 0 || !([0, 1, 3, 4].contains m.etype.toNat) || (16 < m.chk.toNat && m.chk ≠ 31) || m.base.toNat % 2 ^ 21 ≠ 0

/-- A window of a context changed. -/
def modWin (c w : Nat) (g : MWin → MWin) (s : State) : State :=
  s.modCtx c fun x => { x with mwins := tset x.mwins w (g (tget MWin.reset x.mwins w)) }

def winRefuse (c w n : Nat) (s : State) : State := modWin c w (fun m => { m with refused := true, reason := n }) s

/-- The moduli that a window's mask names. -/
def winMods (s : State) (c : Nat) (m : MWin) : List Nat :=
  match tfind (s.ctx c).chains m.chain.toNat with
  | none => []
  | some ch => (setBits m.mmask.toNat 64).map fun i => (ch.mods[i]?.map (·.q)).getD 0

/-- `MEMORY_WINDOW_ENABLE`: `en` = 1 is written to a window that is disabled: checked, then enabled with its translations
and moduli (R435). -/
def execMemoryWindowEnable (p : Port) (f : Fin 32) (w : Fin 16) (s : State) : Out :=
  match selected s p f with
  | none => .next s
  | some c =>
    let m := tget MWin.reset (s.ctx c).mwins w
    if m.wstate ≠ 0 then .next s
    else if mwinBad m then .next (winRefuse c w 1 s)
    else if m.pages = 0 then .next (winRefuse c w 2 s)
    else match (winFrames c m).go s with
      | (.error _, s) => .next (winRefuse c w 3 s)
      | (.ok fs, s) =>
        match winReason s c w m fs with
        | 0 =>
          let ms := if m.etype = 0 then winMods s c m else []
          .next (modWin c w (fun m =>
            { m with en := true, wstate := 1, reason := 0, landings := 0, frames := fs, mods := ms }) s)
        | n => .next (winRefuse c w n s)

/-- `MEMORY_WINDOW_DISABLE`: `en` = 0 is written; from now on every access is refused (R436). -/
def execMemoryWindowDisable (p : Port) (f : Fin 32) (w : Fin 16) (s : State) : Out :=
  match selected s p f with
  | none => .next s
  | some c =>
    if (tget MWin.reset (s.ctx c).mwins w).en then .next (modWin c w (fun m => { m with en := false, wstate := 2 }) s)
    else .next s

/-- `MEMORY_WINDOW_CLOSE_DONE`: every admitted access of a closing window has completed (R436). -/
def execMemoryWindowCloseDone (ctx : Fin 256) (w : Fin 16) (s : State) : Out :=
  if (tget MWin.reset (s.ctx ctx).mwins w).wstate = 2 then
    .next (modWin ctx w (fun m => { m with wstate := 0, frames := [], mods := [] }) s)
  else .next s

/-! ## Frames, the Almanac and launch gates (R427, R450–R452, R645–R647) -/

/-- `FRAME_RETIREMENT_ACK`: either PF acknowledges a pending frame, which is out of service from then on (R427, R647). -/
def execFrameRetirementAck (_p : Port) (f : Fin 32) (frame : BitVec 17) (s : State) : Out :=
  let n := frame.toNat
  let x := s.stack (n / 16384)
  if isPF f && x.retired.contains n && !x.acked.contains n then
    .next ({ s with cox := { s.cox with frameQ := s.cox.frameQ.filter (· ≠ n) } }.modStack (n / 16384) fun x =>
      { x with acked := x.acked ++ [n] })
  else .next s

/-- `ALMANAC_SET`: in role 0 or 1, by the PF that holds semaphore 4; the counts are logged (R645). -/
def execAlmanacSet (p : Port) (f : Fin 32) (v : BitVec 64) (s : State) : Out :=
  if !(isPF f && s.holds p 4) || s.sync.role = 2 then .next s
  else
    let s := logEvent 0x0103 0 0 [portNum p, 0, s.clk.alm.toNat, v.toNat] s
    .next { s with clk := { s.clk with alm := v } }

/-- `LAUNCH_GATE_ARM`: refused while another armed gate of the port names the same ring (R646). -/
def execLaunchGateArm (p : Port) (f : Fin 32) (g : Fin 8) (s : State) : Out :=
  let gs := (s.port p).gates
  let x := tget Gate.reset gs g
  if !(isPF f && s.holds p 4) || x.arm then .next s
  else
    let same := gs.any fun y => y.1 ≠ g.val && y.2.arm && y.2.fn = x.fn && y.2.ring = x.ring
    let y := if same then { x with conflict := true } else { x with arm := true }
    .next (s.modPort p fun z => { z with gates := tset z.gates g y })

/-- A late launch is counted, logged and told to the ring's function (R451, R575). -/
def lateLaunch (p : Port) (g fn ns : Nat) (s : State) : State :=
  setCause p fn 10 (logEvent 0x0105 0 0 [g, ns] (s.bump (modCtr 15)))

/-- `LAUNCH_GATE_FIRE`: count c has come for a gate that holds a task: its Shells may start and the gate disarms. A task
that became ready only after c starts late, or ends with 0x41 (R450, R451). -/
def execLaunchGateFire (p : Port) (g : Fin 8) (s : State) : Out :=
  let x := tget Gate.reset (s.port p).gates g
  match x.task with
  | none => .next s
  | some tid =>
    match tfind s.tasks tid with
    | none => .next s
    | some t =>
      if !x.arm || s.clk.alm < x.count then .next s
      else if t.tAdmit ≤ x.count then .next (disarm p g s)
      else
        let ns := min (t.tAdmit - x.count).toNat (2 ^ 32 - 1)
        if x.lateAbort then
          .next (lateLaunch p g x.fn ns (abortTask tid { code := 0x41, detail := 2 } 0 noCmd s))
        else
          let s := disarm p g s
          let y := { tget Gate.reset (s.port p).gates g with late := true, lateNs := BitVec.ofNat 32 ns }
          .next (lateLaunch p g x.fn ns (s.modPort p fun z => { z with gates := tset z.gates g y }))

end Sys2Proof.Machine
end

