-- ==== Sys2Proof/Machine/Tensor.lean ====
section
/-! DEFINITION. Copies, handles, the hardware cache's invalidation, scratchpad windows and the scratchpad's patrol
(07_tensor_layout R239–R244, 09_command_streams R293, R296, 06_shell_and_scratchpad R194, R195, R203, R206–R210). -/

namespace Sys2Proof.Machine

/-! ## `TCOPY` (R239, R296, R365) -/

def encTcopy (form : Nat) : Enc :=
  { op := 0x71,
    used := uCtl 24 16 ||| (if form = 0 then uImm 23 0 else 0) ||| tensorBits form <<< 64 ||| tensorBits form <<< 128,
    fields := [0, 2], tensor := true, parts := [56] }

/-- Elements of one row in logical order (R220, R234). -/
def rowLength (d : TDesc) : Nat := if d.list then d.blk0 else d.n0

/-- The blocks of two block-scaled tensors correspond (R239). -/
def blocksCorrespond (a b : TDesc) : Bool :=
  a.n0 = b.n0 && (rowLength a = rowLength b || (rowLength a % 32 = 0 && rowLength b % 32 = 0))

/-- The type and count rules of R239. -/
def copyRules (src dst : TDesc) : Act Unit := do
  if src.etype ≠ dst.etype || elemCount src ≠ elemCount dst then bad01 3 severalFields
  if dst.smode ≠ 0 && (src.smode = 0 || !blocksCorrespond src dst) then bad01 3 severalFields

/-- A copy by equal logical index, behind the pre-pass on both block lists (R235, R238, R239). -/
def copyOp (L : Nat) (src dst : TDesc) : Act CopyOp := do
  let es ← readList L src false
  let ds ← readList L dst true
  return { src := src, dst := dst, from_ := places src es, fromScale := if src.smode ≠ 0 then scalePlaces src es else [],
           dest := places dst ds, destScale := if dst.smode ≠ 0 then scalePlaces dst ds else [] }

/-- Every element moves from the source to the place of equal logical index, destination line by destination line. -/
def moveElems (L c cls : Nat) (src dst : TDesc) : Act Unit := do
  let k ← copyOp L src dst
  (List.range k.lines.length).forM (k.unit L c cls)

/-- A copy is inbound when its destination is the executing Shell's own scratchpad (R365). -/
def inbound (L : Nat) (d : TDesc) : Bool := d.space = 0 && addrShell d.base = L

/-- Asynchronous copies that a direction holds (R365). -/
def copyMax : Nat := 8

/-- The queue of a direction. -/
def copyQueue (x : Shell) (inward : Bool) : List AsyncCopy := if inward then x.asyncIn else x.asyncOut

def setCopyQueue (inward : Bool) (q : List AsyncCopy) (x : Shell) : Shell :=
  if inward then { x with asyncIn := q } else { x with asyncOut := q }

/-- A zero size in a descriptor line of a command with two tensors (R224, R306). -/
def tensorsQuiet (L tid : Nat) (t : Task) (w : Cmd) (s : State) : Bool :=
  lineQuiet L tid t.ctx w.form.toNat w.opa.toNat s || lineQuiet L tid t.ctx w.form.toNat w.opb.toNat s

/-- `TCOPY` (R239, R296): a synchronous copy moves its elements, destination line by line (R243), and reads its block lists
again when it resumes (R236); an asynchronous one enters its direction's queue, or is not issued while that is full
(R365). -/
def natTcopy (sh : Fin 64) (w : Cmd) : Native :=
  native (encTcopy w.form.toNat) (w.form = 0 && immF w 23 0 = 0) (quiet := tensorsQuiet sh) fun tid t w => do
    let L := sh.val
    let form := w.form.toNat
    let n := immF w 23 0
    let a ← takeOperand L tid t.ctx form w.opa.toNat n 8 false
    checkOperand L tid t.ctx a false true [0, 1, 2]
    let b ← takeOperand L tid t.ctx form w.opb.toNat n 16 true
    checkOperand L tid t.ctx b true true [0, 1, 2]
    copyRules a.d b.d
    overlapRule b.d a.d
    if cf w 16 16 = 0 then
      let k ← copyOp L a.d b.d
      return ← units L k.lines.length (k.unit L t.ctx 0)
    claimCounter tid t.ctx (cf w 24 17)
    let s ← get
    let q := copyQueue (s.shell L) (inbound L b.d)
    if copyMax ≤ q.length then return .hold
    let x : AsyncCopy :=
      { cnt := cf w 24 17, src := a.d, dst := b.d, cmd := (s.shell L).stroke.idx, stamp := s.clk.alm }
    set (s.modShell L (setCopyQueue (inbound L b.d) (q ++ [x])))
    return .done

/-- `TCOPY`. -/
def execTcopy (sh : Fin 64) (w : Cmd) (s : State) : Out := .next (issue sh (natTcopy sh w) w s)

/-- An asynchronous copy is done: its elements have moved, every write is acknowledged, and 1 is on its way to its sync
counter (R296, R366, R367). A copy that fails aborts its task (R390). -/
def execAsyncCopySignal (sh : Fin 64) (outbound : Bool) (i : Fin 8) (s : State) : Out :=
  let L := sh.val
  let q := copyQueue (s.shell L) (!outbound)
  match q[i.val]?, (s.shell L).holder with
  | some x, some tid =>
    match tfind s.tasks tid with
    | none => .next s
    | some t =>
      let s := s.modShell L (setCopyQueue (!outbound) (q.eraseIdx i.val))
      match (moveElems L t.ctx 1 x.src x.dst).go s with
      | (.ok _, s) =>
        .next { s with inbox := s.inbox ++ [{ ctx := t.ctx, cnt := x.cnt, src := .copy L, set := false, v := 1 }] }
      | (.error f, s) => .next (abortTask tid f L x.cmd s)
  | _, _ => .next s

/-! ## `TPERM` (R240, R241) -/

def encTperm (form : Nat) : Enc :=
  { op := 0x72, used := uImm 7 0 ||| tensorBits form <<< 64 ||| tensorBits form <<< 128, fields := [0, 2],
    tensor := true }

/-- The permutation π of a command: four 2-bit fields (R240). -/
def permOf (w : Cmd) : List Nat := (List.range 4).map fun d => immF w (2 * d + 1) (2 * d)

/-- The source coordinates i with i_(π(d)) = j_d (R240). -/
def permCoords (p : List Nat) (j : Nat × Nat × Nat × Nat) : Nat × Nat × Nat × Nat :=
  let js := [j.1, j.2.1, j.2.2.1, j.2.2.2]
  let at_ := fun k => js.getD (p.idxOf k) 0
  (at_ 0, at_ 1, at_ 2, at_ 3)

/-- The rules of R240 on two operands. -/
def permRules (p : List Nat) (src dst : TDesc) : Act Unit := do
  if !(List.range 4).all p.contains then bad01 1 4
  if src.list || dst.list then bad01 1 severalFields
  let ns := (dims src).map (·.1)
  if (dims dst).map (·.1) ≠ p.map (fun k => ns.getD k 0) then bad01 1 severalFields
  if src.etype ≠ dst.etype then bad01 1 severalFields
  if (src.smode ≠ 0 || dst.smode ≠ 0) && p.headD 0 ≠ 0 then bad01 1 4
  if dst.smode ≠ 0 && src.smode = 0 then bad01 1 severalFields

/-- How many dimensions a permutation moves. -/
def permMoved (p : List Nat) : Nat := (p.zipIdx.filter fun z => z.1 ≠ z.2).length

/-- The pairs of places that an in-place `TPERM` exchanges, each once, in ascending logical index (R241): Shell, width and the
two places; the values first, then a separate array's scales. -/
def permPairs (sh w : Nat) (ps qs : List Nat) : List (Nat × Nat × Nat × Nat) :=
  ((ps.zip qs).foldl (fun (acc : List (Nat × Nat × Nat × Nat)) z =>
    if z.1 = z.2 || acc.any (fun e => (e.2.2.1 = z.1 && e.2.2.2 = z.2) || (e.2.2.1 = z.2 && e.2.2.2 = z.1)) then acc
    else (sh, w, z.1, z.2) :: acc) []).reverse

/-- An action that changes all it stores, or nothing of it; what it counted stays. -/
def whole {α : Type} (a : Act α) : Act α := fun s =>
  match a.go s with
  | (.ok x, u) => (.ok x, u)
  | (.error f, u) => (.error f, { s with ctr := u.ctr })

/-- One pair exchanged as one step: swapped or untouched (R241, R243). -/
def swapPair (L c space : Nat) (z : Nat × Nat × Nat × Nat) : Act Unit := whole do
  let (sh, w, p, q) := z
  let vs ← readFields L c space sh 0 w [p, q]
  writeFields L c space sh w [(p, vs.getD 1 0), (q, vs.getD 0 0)]

/-- A `TPERM` as a copy: element j of the destination comes from the source's element i with i_(π(d)) = j_d (R240). -/
def permOp (p : List Nat) (src dst : TDesc) : CopyOp :=
  let js := (coords dst []).map (permCoords p)
  { src := src, dst := dst, from_ := js.map fun i => bitAt src (offsetAt src i),
    fromScale := if src.smode ≠ 0 then js.map (scaleBit src) else [], dest := places dst [],
    destScale := if dst.smode ≠ 0 then scalePlaces dst [] else [] }

/-- The exchanges of an in-place `TPERM`, in order. -/
def permSwaps (k : CopyOp) : List (Nat × Nat × Nat × Nat) :=
  permPairs k.src.shell (elemWidth k.src.etype) (k.dest.map Int.toNat) (k.from_.map Int.toNat) ++
    permPairs k.src.scaleShell 8 k.destScale k.fromScale

/-- `TPERM` (R240, R241): destination line by destination line, or pair by pair in place (R243). -/
def natTperm (sh : Fin 64) (w : Cmd) : Native :=
  native (encTperm w.form.toNat) false (quiet := tensorsQuiet sh) fun tid t w => do
    let L := sh.val
    let form := w.form.toNat
    if form = 0 then bad01 1 1
    let a ← takeOperand L tid t.ctx form w.opa.toNat 0 8 false
    checkOperand L tid t.ctx a false true [0, 1]
    let b ← takeOperand L tid t.ctx form w.opb.toNat 0 16 true
    checkOperand L tid t.ctx b true true [0, 1]
    let p := permOf w
    permRules p a.d b.d
    overlapRule b.d a.d
    if coincide b.d a.d && 2 < permMoved p then
      throw { code := 0x03, detail := (shareAddr b.d a.d).getD 0 }
    let k := permOp p a.d b.d
    if coincide b.d a.d then
      needPlaces a.d.shell k.dest
      let zs := permSwaps k
      return ← units L zs.length fun i => swapPair L t.ctx a.d.space (zs.getD i (0, 0, 0, 0))
    units L k.lines.length (k.unit L t.ctx 0)

/-- `TPERM`. -/
def execTperm (sh : Fin 64) (w : Cmd) (s : State) : Out := .next (issue sh (natTperm sh w) w s)

/-! ## Handles (R223, R228, R292, R293) -/

def encTdescCreate : Enc := { op := 0x73, used := uCtl 23 16 ||| uAf 0, fields := [0], tensor := false }
def encTdescFree : Enc := { op := 0x74, used := uCtl 23 16, fields := [], tensor := false }

/-- The installations of the regions that validate a descriptor's own footprint (R228). -/
def validators (x : Shell) (L tid c : Nat) (d : TDesc) : List Nat :=
  (footprint d).filterMap fun z =>
    if z.space = 0 && z.shell = L then (regionAt x tid c (z.lo.toNat / 72)).map (·.inst) else none

/-- `TDESC_CREATE`: fills a handle in maintenance state (R223, R292, R293). -/
def natTdescCreate (sh : Fin 64) (_ : Cmd) : Native :=
  native encTdescCreate false fun tid t w => plain do
    let L := sh.val
    let h := cf w 23 16
    if !((← get).shell L).maint then bad01 1 0
    if (tfind ((← get).shell L).handles h).isSome then bad01 1 2
    inRange L tid t.ctx (afOf w 0) 1
    let v := leNat (← spRead L (addrLine (afOf w 0)) 1)
    let d := descOf v
    checkDesc L tid t.ctx (some v) d d.wr true [0, 1, 2]
    upd fun s => s.modShell L fun x =>
      { x with handles := tset x.handles h { ctx := t.ctx, d := d, regs := validators x L tid t.ctx d } }

/-- `TDESC_CREATE`. -/
def execTdescCreate (sh : Fin 64) (w : Cmd) (s : State) : Out := .next (issue sh (natTdescCreate sh w) w s)

/-- `TDESC_FREE`: empties a handle in maintenance state; an empty one stays so (R292, R293). -/
def natTdescFree (sh : Fin 64) (_ : Cmd) : Native :=
  native encTdescFree false fun _ _ w => plain do
    if !((← get).shell sh).maint then bad01 1 0
    upd fun s => s.modShell sh fun x => { x with handles := tdel x.handles (cf w 23 16) }

/-- `TDESC_FREE`. -/
def execTdescFree (sh : Fin 64) (w : Cmd) (s : State) : Out := .next (issue sh (natTdescFree sh w) w s)

/-! ## `SCACHE_INV` (R203) -/

def encScacheInv (range : Bool) : Enc :=
  { op := 0x75, used := if range then uCtl 18 16 ||| uOpa 63 0 ||| uOpb 63 0 else uCtl 16 16, fields := [],
    tensor := false, parts := [17] }

/-- Where a virtual page lies at present, without any effect on the state. -/
def peekPage (L c space va : Nat) (s : State) : Option Nat :=
  match (xlate (.shell L) c space va false).go s with
  | (.ok x, _) => some x.addr
  | (.error _, _) => none

/-- The cached lines of an address range leave the cache; a page that does not translate holds none. -/
def cacheDropRange (L c space va n : Nat) (s : State) : State :=
  let port := if space = 1 then .A else (s.ctx c).port
  (pieces (pageSize space) va n).foldl (fun s z =>
    match peekPage L c space z.1 s with
    | none => s
    | some a => s.modShell L fun x =>
        { x with tags := x.tags.filter fun e =>
            !(e.2.space = space && e.2.port = port && a < 64 * (e.2.line + 1) && 64 * e.2.line < a + z.2) }) s

/-- `SCACHE_INV`: the whole cache, or the lines of an address range (R203). -/
def natScacheInv (sh : Fin 64) (w : Cmd) : Native :=
  let range := cf w 16 16 = 1
  native (encScacheInv range) (range && w.opb = 0) fun _ t w => plain do
    let space := cf w 18 17
    if range then
      if space ≠ 1 && space ≠ 2 then bad01 1 2
      let top := if space = 1 then 2 ^ 39 else 2 ^ 57
      let a := w.opa.toNat
      upd fun s => (cacheDropRange sh t.ctx space a (min (a + w.opb.toNat) top - a) s).bump (shellCtr sh 89)
    else upd fun s => (cacheDrop sh s).bump (shellCtr sh 89)

/-- `SCACHE_INV`. -/
def execScacheInv (sh : Fin 64) (w : Cmd) (s : State) : Out := .next (issue sh (natScacheInv sh w) w s)

/-! ## Windows (R206–R211) -/

def encWinOpen : Enc := { op := 0x76, used := uAf 0, fields := [0], tensor := false }
def encWinClose : Enc := { op := 0x77, used := uCtl 19 16, fields := [], tensor := false }

/-- Window entries that a `BOOT` reserves (R212). -/
def bootEntry (x : Shell) (k : Nat) : Bool := x.bootWin.isSome && (k = 14 || k = 15)

/-- The byte offset of what R207 row 1 rejects in a window descriptor. -/
def winBad (x : Shell) (v : Nat) : Option Nat :=
  match reservedAt v (ones 31 0 ||| ones 191 64) 576 [32, 192, 256] with
  | some b => some b
  | none =>
    if !v.testBit 25 && !v.testBit 26 then some severalFields
    else if (tfind x.windows (bits v 31 28)).isSome || bootEntry x (bits v 31 28) then some 3
    else none

/-- A window of no group makes the command a no-op (R206, R306). -/
def winQuiet (L tid : Nat) (t : Task) (w : Cmd) (s : State) : Bool :=
  let line : Act Nat := do
    inRange L tid t.ctx (afOf w 0) 1
    return leNat (← spRead L (addrLine (afOf w 0)) 1)
  match (line.go s).1 with
  | .ok v => bits v 24 12 = 0
  | .error _ => false

/-- `WIN_OPEN` (R206, R207). -/
def natWinOpen (sh : Fin 64) (_ : Cmd) : Native :=
  native encWinOpen false (quiet := winQuiet sh) fun tid t w => plain do
    let L := sh.val
    inRange L tid t.ctx (afOf w 0) 1
    let v := leNat (← spRead L (addrLine (afOf w 0)) 1)
    let base := bits v 11 0
    let len := bits v 24 12
    match winBad ((← get).shell L) v with
    | some b => throw { code := 0x01, detail := detail01 9 1 b }
    | none => pure ()
    spanInRegion L tid t.ctx { space := 0, shell := L, lo := 72 * 64 * base, hi := 72 * 64 * (base + len) }
    match regionAt ((← get).shell L) tid t.ctx (64 * base) with
    | none => throw { code := 0x02, detail := spAddr L (64 * base) }
    | some r =>
      if v.testBit 27 && !r.scope then throw { code := 0x01, detail := detail01 9 3 3 }
      let win : Window :=
        { base := base, len := len, rd := v.testBit 25, wr := v.testBit 26, keep := v.testBit 27,
          shells := BitVec.ofNat 64 (bits v 127 64), peers := BitVec.ofNat 64 (bits v 191 128), task := tid,
          ctx := t.ctx, inst := r.inst }
      upd fun s => s.modShell L fun x => { x with windows := tset x.windows (bits v 31 28) win }

/-- `WIN_OPEN`. -/
def execWinOpen (sh : Fin 64) (w : Cmd) (s : State) : Out := .next (issue sh (natWinOpen sh w) w s)

/-- `WIN_CLOSE` (R210, R212). -/
def natWinClose (sh : Fin 64) (_ : Cmd) : Native :=
  native encWinClose false fun tid t w => plain do
    let L := sh.val
    let k := cf w 19 16
    let x := (← get).shell L
    if !bootEntry x k then
      match tfind x.windows k with
      | none => pure ()
      | some win =>
        if win.task = tid || (win.keep && win.ctx = t.ctx) then
          upd fun s => s.modShell L fun x => { x with windows := tdel x.windows k }
        else throw { code := 0x11, detail := k }

/-- `WIN_CLOSE`. -/
def execWinClose (sh : Fin 64) (w : Cmd) (s : State) : Out := .next (issue sh (natWinClose sh w) w s)

/-- The lines that the window bytes [off, off + n) of a window lie in: line, byte within the line, length (R208). -/
def winPieces (base off n : Nat) : List (Nat × Nat × Nat) :=
  (pieces 72 off n).map fun z => (64 * base + z.1 / 72, z.1 % 72, z.2)

/-- What an access through a window does on each line it meets (R186, R194, R208). -/
def winAccess (L src c : Nat) (ls : List (Nat × Nat × Nat)) (acc : Access) : Act Unit := do
  let write := match acc with
    | .read _ => false
    | .write _ => true
  ls.forM fun z => do
    if spLines ≤ z.1 then throw { code := 0x11, detail := spAddr L z.1 }
    crossCheck src L c z.1 write
  match acc with
  | .read _ => ls.forM fun z => discard <| spRead L z.1 1
  | .write bs =>
    discard <| ls.foldlM (fun (bs : List Byte) z => do
      spWrite L (72 * z.1 + z.2.1) (bs.take z.2.2)
      return bs.drop z.2.2) bs

/-- The length of an access. -/
def accLen : Access → Nat
  | .read n => n
  | .write bs => bs.length

/-- An access of a Shell of this module through a window (R206, R208, R209): refused, or failing on the line, it aborts
the requester's task and leaves the owner's alone. -/
def execWindowAccess (q : WinReq) (s : State) : Out :=
  match (s.shell q.src).holder.bind fun tid => (tfind s.tasks tid).map fun t => (tid, t) with
  | none => .next s
  | some (tid, t) =>
    let act : Act Unit := do
      match tfind (s.shell q.owner).windows q.win with
      | none =>
        upd fun s => s.bump (shellCtr q.owner 90)
        throw { code := 0x11, detail := spAddr q.owner 0 }
      | some win => winAccess q.owner q.src t.ctx (winPieces win.base q.off (accLen q.acc)) q.acc
    match act.go s with
    | (.ok _, s) => .next s
    | (.error f, s) => .next (abortTask tid f q.src (s.shell q.src).stroke.idx s)

/-! ## Errors of lines (R194, R195) -/

/-- The corrected line is written back in a free cycle of its bank (R194). -/
def execCorrectedWriteback (sh : Fin 64) (line : Fin 262144) (s : State) : Out :=
  if (s.shell sh).wbPending.contains line.val then
    .next (s.modShell sh fun x =>
      { x with wbPending := x.wbPending.filter (· ≠ line.val),
               lineErr := x.lineErr.filter fun e => !(e.1 = line.val && lineClass x e ≠ .unc) })
  else .next s

/-- The next group of an installed region at or after a group, or the first one (R195). -/
def patrolGroup (x : Shell) : Option Nat :=
  let ins := fun g => x.regions.any fun e => e.2.base.toNat ≤ g && g < e.2.base.toNat + e.2.len.toNat
  match ((List.range 4096).drop x.patrolGrp).find? ins with
  | some g => some g
  | none => (List.range 4096).find? ins

/-- What the patrol does with one marked line: a correctable error is corrected and written back, an uncorrectable one
logged and counted; no task is faulted (R195). -/
def patrolLine (L : Nat) (s : State) (e : Nat × LineErr) : State :=
  match lineClass (s.shell L) e with
  | .clean => s
  | .corr =>
    (countCorr L e.1 s).modShell L fun x =>
      { x with lineErr := tdel x.lineErr e.1, wbPending := x.wbPending.filter (· ≠ e.1) }
  | .unc => logEvent 0x0202 2 0 [spAddr L e.1] (s.bump (shellCtr L 86))

/-- The patrol reader visits the next group of an installed region (R195). -/
def execScratchPatrol (sh : Fin 64) (s : State) : Out :=
  match patrolGroup (s.shell sh) with
  | none => .next s
  | some g =>
    .next ((markedIn (s.shell sh) (64 * g) 64).foldl (patrolLine sh)
      (s.modShell sh fun x => { x with patrolGrp := (g + 1) % 4096 }))

end Sys2Proof.Machine
end

