-- ==== Sys2Proof/Machine/Multi.lean ====
section
/-! DEFINITION. Several modules (13_multi_device_and_determinism R429–R449): the peer aperture, landings, the sampled check, and the
SYNC wires. -/

namespace Sys2Proof.Machine

/-! ## The peer aperture (R429–R432, R437, R440) -/

/-- The context that a function's aperture is bound to (R429). -/
def apertureCtx (s : State) (p : Port) (f : Nat) : Option Nat :=
  let c := (s.fn (fnKey p f)).apCtx.toNat
  if c ≠ 0 && seesCtx (s.ctx c) p f then some c else none

/-- A valid peer-table entry with the requester's ID stands in a mask (R432). -/
def peerIn (x : Ctx) (rid : BitVec 16) (mask : BitVec 64) : Bool :=
  x.peers.any fun e => e.2.v && e.2.rid = rid && mask.getLsbD e.1

/-- The window offset of the fence word (R440). -/
def fenceOff : Nat := 0x7FFFF000

/-- A write access. -/
def isWrite : Access → Bool
  | .read _ => false
  | .write _ => true

/-- A refused peer access: a read receives a completer abort, a write is discarded, and it is counted (R209, R432). -/
def refusePeer (p : Port) (a : Access) (s : State) : State :=
  let s := s.bump (portCtr p 11)
  if isWrite a then s else s.modPort p fun x => { x with answer := .abort }

/-- What an admitted access answers: a read its data, a failing read an abort; a failing write is discarded. -/
def answerPeer (p : Port) (a : Access) (act : Act (List Byte)) (s : State) : State :=
  match act.go (s.bump (portCtr p 10)) with
  | (.ok bs, s) => if isWrite a then s else s.modPort p fun x => { x with answer := .data bs }
  | (.error _, s) => if isWrite a then s else s.modPort p fun x => { x with answer := .abort }

/-- A scratchpad window that admits a peer in a direction (R206, R432); none does in maintenance state (R522). -/
def peerWindow (x : Shell) (cx : Ctx) (c : Nat) (rid : BitVec 16) (w : Window) (write : Bool) : Bool :=
  !x.maint && !x.vacant && !x.pw.parked && w.ctx = c && peerIn cx rid w.peers && (if write then w.wr else w.rd)

/-- A peer access to a scratchpad window (R208, R430, R432): the target window itself must admit it. A Shell that is powered
down answers with an error (R50). A refusal counts at the port and at the Shell (R199, R209). -/
def peerScratch (p : Port) (c : Nat) (rid : BitVec 16) (L w off : Nat) (a : Access) (s : State) : State :=
  let refuse := fun (s : State) => refusePeer p a (s.bump (shellCtr L 90))
  match tfind (s.shell L).windows w with
  | none => refuse s
  | some win =>
    let n := accessLen a
    let ls := winPieces win.base off n
    if 4608 * win.len < off + n || 3 ≤ s.pwr.stage || !peerWindow (s.shell L) (s.ctx c) c rid win (isWrite a) then
      refuse s
    else
      let lo := 4608 * win.base + off
      answerPeer p a (match a with
        | .read n => do
          upd fun s => s.readMsg .iod (.shell L) n
          spReadBytes L lo n
        | .write bs => do
          upd fun s => s.writeMsg .iod (.shell L) bs.length
          ls.forM fun z => spWrite L (72 * z.1 + z.2.1) ((bs.drop (72 * z.1 + z.2.1 - lo)).take z.2.2)
          return []) s

/-- A landing (R440): counted in the entry, and 1 goes to the window's sync counter, ranked with the copy signals. -/
def landing (c w : Nat) (m : MWin) (s : State) : State :=
  let s := modWin c w (fun m => { m with landings := m.landings + 1 }) s
  { s with inbox := s.inbox ++ [{ ctx := c, cnt := m.land.toNat, src := .landing, set := false, v := 1 }] }

/-- A window that takes an access of a peer in its direction (R432). -/
def winTakes (m : MWin) (cx : Ctx) (rid : BitVec 16) (write : Bool) : Bool :=
  m.en && (if write then m.wr else m.rd) && peerIn cx rid m.peers

/-- A peer access to a memory window (R430, R437, R438); the fence word takes 8-byte aligned writes alone (R440). In the
check state every write is discarded and counted (R444); in S3 accesses are held (R483). -/
def peerMemory (p : Port) (c : Nat) (rid : BitVec 16) (w off : Nat) (a : Access) (s : State) : State :=
  let m := tget MWin.reset (s.ctx c).mwins w
  let n := accessLen a
  let st := m.frames.headD 0 / 16384
  if !winTakes m (s.ctx c) rid (isWrite a) then refusePeer p a s
  else if off = fenceOff && n = 8 && isWrite a then
    let s := s.bump (portCtr p 10)
    if m.wstate = 3 then s.bump (stackCtr st 22) else landing c w m s
  else if 2 ^ 21 * m.pages.toNat < off + n || (off < fenceOff + 8 && fenceOff < off + n) then refusePeer p a s
  else if isWrite a && m.wstate = 3 then (s.bump (portCtr p 10)).bump (stackCtr st 22)
  else if 3 ≤ s.pwr.stage then
    (s.bump (portCtr p 10)).modPort p fun x =>
      { x with heldAcc := x.heldAcc ++ [{ parts := accPieces m off n, acc := a, since := s.clk.now }] }
  else
    let ps := accPieces m off n
    answerPeer p a (match a with
      | .read _ => do
        let bs ← ps.mapM fun z => stackRead .iod 2 z.1 z.2
        return bs.flatten
      | .write bs => do
        storeParts .iod (partsOf ps bs)
        return []) s

/-- `APERTURE_ACCESS`: a peer's access at BAR4 of a function, admitted or refused (R430, R432). -/
def execApertureAccess (p : Port) (f : Fin 32) (rid : BitVec 16) (off : BitVec 36) (a : Access) (s : State) : Out :=
  let o := off.toNat
  match apertureCtx s p f with
  | none => .next (refusePeer p a s)
  | some c =>
    if o < 2 ^ 35 then .next (peerScratch p c rid (bits o 34 29) (bits o 28 25) (bits o 24 0) a s)
    else .next (peerMemory p c rid (bits o 34 31) (bits o 30 0) a s)

/-- `FENCE_LANDING`: a peer's write to the fence word, whose earlier writes are all acknowledged (R440, R441). -/
def execFenceLanding (p : Port) (f : Fin 32) (rid : BitVec 16) (w : Fin 16) (s : State) : Out :=
  match apertureCtx s p f with
  | none => .next (refusePeer p (.write []) s)
  | some c =>
    let m := tget MWin.reset (s.ctx c).mwins w
    if !winTakes m (s.ctx c) rid true then .next (refusePeer p (.write []) s)
    else
      let s := s.bump (portCtr p 10)
      .next (if m.wstate = 3 then s.bump (stackCtr (m.frames.headD 0 / 16384) 22) else landing c w m s)

/-! ## The sampled dual-path check (R444, R445) -/

/-- What the adder of the check Shell makes of a sample. -/
def sampleSum (x : Sample) : Nat :=
  accAdd { MWin.reset with etype := BitVec.ofNat 4 x.etype, mods := [x.modulus] } 0 x.old x.inp

/-- A sample that differs: the task that holds the window's counter aborts, or the event is logged; the window enters the
check state, and the function's error vector is raised (R444). -/
def checkFails (sh : Nat) (x : Sample) (s : State) : State :=
  let m := tget MWin.reset (s.ctx x.ctx).mwins x.win
  let d := x.win + 16 * (x.elem % 2 ^ 32)
  let s := match (tget { v := 0, holder := none } (s.ctx x.ctx).cnt m.land.toNat).holder with
    | some tid => abortTask tid { code := 0x32, detail := d } sh noCmd s
    | none => logEvent 0x0101 3 x.ctx [0x32, 0, 0, sh, noCmd, d] s
  let s := if m.en then modWin x.ctx x.win (fun m => { m with wstate := 3 }) s else s
  setCause (s.ctx x.ctx).port (s.ctx x.ctx).fn 12 s

/-- `SAMPLED_CHECK`: the check Shell takes its oldest sample and recomputes it; the sender says what came out of the
Shell's adder where that was not the sum (R444). -/
def execSampledCheck (sh : Fin 64) (recomputed : Option Nat) (s : State) : Out :=
  match (s.shell sh).checkQ with
  | [] => .next s
  | x :: q =>
    let s := s.modShell sh fun y => { y with checkQ := q }
    if recomputed.getD (sampleSum x) = x.new then .next s else .next (checkFails sh x s)

/-! ## The SYNC wires (R446–R449) -/

/-- `SYNC_MEASURE`: a master's load and round trip; out of range it sends no frames (R446). -/
def execSyncMeasure (load rtt : Nat) (s : State) : Out :=
  if s.sync.role ≠ 1 then .next s
  else .next { s with sync := { s.sync with load := load, rtt := rtt, range := 8 < load || 800 < rtt } }

/-- The bits [91:0] of a frame (R447). -/
def frameBody (s : State) : Nat :=
  s.clk.alm.toNat + 2 ^ 64 * (s.sync.rtt % 2 ^ 16) + 2 ^ 80 * (s.sync.load % 16) + 2 ^ 84 * (s.sync.seq % 256)

/-- `SYNC_FRAME_SEND`: the master's frame of this 125 µs (R447). -/
def execSyncFrameSend (s : State) : Out :=
  if s.sync.role ≠ 1 || s.sync.range then .next s
  else
    let v := frameBody s
    .next { s with sync := { s.sync with out := BitVec.ofNat 100 (v + 2 ^ 92 * (crc8 v 92 0).toNat),
                                         seq := (s.sync.seq + 1) % 256 } }

/-- An integer divided by 8, rounded to the nearest, halves up. -/
def round8 (i : Int) : Int := (i + 4) / 8

/-- A change of lock is logged with the offset (R571). -/
def lockLog (was now : Bool) (off : Int) (s : State) : State :=
  if was = now then s else logEvent 0x0604 0 0 [unsigned 64 off] s

/-- `SYNC_FRAME_RECEIVE`: a follower's frame, captured at its own count `td`, with its reflection `reflQ` quarter ns later.
A bad CRC or an unexpected number is ignored and counted; the first good frame, and the first after lock is lost, sets the
Almanac, later ones slew it (R448, R449). -/
def execSyncFrameReceive (fr : BitVec 100) (td : BitVec 64) (reflQ : Nat) (s : State) : Out :=
  let x := s.sync
  if x.role ≠ 2 then .next s
  else
    let v := fr.toNat
    let seq := bits v 91 84
    let ok := crc8 (bits v 91 0) 92 0 = BitVec.ofNat 8 (bits v 99 92)
    if !ok || (x.synced && seq ≠ (x.lastSeq + 1) % 256) then
      .next ({ s with sync := { x with missed := x.missed + 1 } }.bump (modCtr 13))
    else
      let target := BitVec.ofNat 64 (bits v 63 0) + BitVec.ofInt 64 (round8 ((bits v 79 64 : Nat) - (reflQ : Int)))
      let off := (td - target).toInt
      if !x.synced then
        .next { s with clk := { s.clk with alm := s.clk.alm + (target - td) },
                       sync := { x with synced := true, lastSeq := seq, good := 0, missed := 0, offset := 0, slew := 0 } }
      else
        let good := if -2 ≤ off && off ≤ 2 then min 8 (x.good + 1) else 0
        let lost := x.locked && good ≠ 8
        let y := { x with synced := !lost, lastSeq := seq, good := good, missed := 0, offset := off,
                          slew := if lost then 0 else -off, locked := good = 8 }
        .next (lockLog x.locked (decide (good = 8)) off { s with sync := y })

/-- `FOLLOWER_UNLOCK`: 4 frames without a good frame: the follower counts on its own reference (R449). -/
def execFollowerUnlock (s : State) : Out :=
  let x := s.sync
  if x.role ≠ 2 || !x.synced then .next s
  else
    let y := { x with locked := false, synced := false, good := 0, missed := 0, slew := 0 }
    .next (logEvent 0x0604 0 0 [unsigned 64 x.offset] ({ s with sync := y }.bump (modCtr 14)))

/-- A follower's Almanac slews by one count in a thousand, never backward (R448; log 1): once in 1,000 ns it counts one
more, or one less. -/
def slewTick (s : State) : State :=
  let x := s.sync
  if x.role ≠ 2 || x.slew = 0 || s.clk.now % 1000 ≠ 0 then s
  else if 0 < x.slew then
    { s with clk := { s.clk with alm := s.clk.alm + 1 }, sync := { x with slew := x.slew - 1 } }
  else { s with clk := { s.clk with alm := s.clk.alm - 1 }, sync := { x with slew := x.slew + 1 } }

end Sys2Proof.Machine
end

