-- ==== Sys2Proof/Machine/Identity.lean ====
section
/-! DEFINITION. The device keys and what is public of them (16_security_engines R533–R535, R552): the derivation from the unit
secret, the identity tree's key and its digest, and the key-agreement key. -/

namespace Sys2Proof.Machine

/-- The labels of R534. -/
def labelIdentity : List Byte := [0x50, 0x4C, 0x2D, 0x49, 0x44, 0x2D, 0x4C, 0x4D, 0x53]
def labelAgreement : List Byte := [0x50, 0x4C, 0x2D, 0x49, 0x44, 0x2D, 0x4B, 0x41]
def labelRecords : List Byte := [0x50, 0x4C, 0x2D, 0x52, 0x45, 0x43]
def labelRpmb : List Byte := [0x50, 0x4C, 0x2D, 0x52, 0x50, 0x4D, 0x42]

/-- n bytes of the key under a label: HMAC-SHA-256 over the label, a zero byte and a block counter from 1 on (R534). -/
def deviceKey (label : List Byte) (n : Nat) : List Byte :=
  ((List.range ((n + 31) / 32)).flatMap fun i =>
    hmacSha256 Config.unitSecret (label ++ [0, BitVec.ofNat 8 (i + 1)])).take n

/-- Identifier I and SEED of the identity tree, 48 bytes (R534). -/
def identityKey : List Byte := deviceKey labelIdentity 48

/-- The identity LMS public key: type LMS_SHA256_M32_H20, LMOTS_SHA256_N32_W8, I and root, 56 bytes (R535, R552; the type numbers
are the standard's, log 16). -/
def identityPublic : List Byte :=
  let i := identityKey.take 16
  beBytes 4 8 ++ beBytes 4 4 ++ i ++ (Config.lmsRoot i (identityKey.drop 16) ++ List.replicate 32 0).take 32

/-- The device identity digest (R535). -/
def identityDigest : List Byte := sha256 identityPublic

/-- The order of P-384 (log 16). -/
def curveOrder : Nat :=
  0xFFFFFFFFFFFFFFFFFFFFFFFFFFFFFFFFFFFFFFFFFFFFFFFFC7634D81F4372DDF581A0DB248B0A77AECEC196ACCC52973

/-- The key-agreement scalar: 64 bytes as an integer modulo n − 1, plus 1 (R534); most significant byte first (R10, log 12). -/
def agreementScalar : Nat := beNat (deviceKey labelAgreement 64) % (curveOrder - 1) + 1

/-- The key-agreement public key (R553). -/
def agreementKey : List Byte := Config.curvePoint agreementScalar

/-- The HMAC key of the records that Cox writes, and the key of the replay-protected partition (R520, R534). -/
def recordKey : List Byte := deviceKey labelRecords 32
def rpmbKey : List Byte := deviceKey labelRpmb 32

end Sys2Proof.Machine
end

