-- ==== Sys2Proof/Machine/Service.lean ====
section
/-! DEFINITION. Management and live service (15_management_and_live_service R494–R532): the operations of R515 but the
key store's, the management pass and what Cox does at its own times, and the guard of powered-down domains. -/

namespace Sys2Proof.Machine

/-! ## Counters of the replay-protected region, firmware slots -/

/-- A counter of R538. -/
def rpmbOf (s : State) (i : Nat) : BitVec 32 := tget 0 s.sec.rpmb i

/-- A counter is raised; at or below its value it stays. Each write counts in the partition's write counter (R537,
R538). -/
def raiseCounter (i : Nat) (v : Nat) (s : State) : State :=
  if v ≤ (rpmbOf s i).toNat || 2 ^ 32 ≤ v then s
  else { s with sec := { s.sec with
    rpmb := tset s.sec.rpmb i (BitVec.ofNat 32 v), rpmbWrites := s.sec.rpmbWrites + 1 } }

def Cox.slot (x : Cox) (b : Bool) : FwSlot := if b then x.slotB else x.slotA

def Cox.setSlot (x : Cox) (b : Bool) (f : FwSlot) : Cox := if b then { x with slotB := f } else { x with slotA := f }

/-- The image of a slot as its bytes. -/
def FwSlot.bytes (f : FwSlot) : List Byte := mslice f.image 0 f.len

/-- The version of a slot's image. -/
def slotVersion (s : State) (b : Bool) : Nat := (Config.imageVersion (s.cox.slot b).bytes).toNat

/-- The slot that does not run (R527). -/
def inactive (s : State) : Bool := !s.cox.running

/-! ## Reading (R499, R504, R512, R515) -/

def numOf (b : Bool) : Nat := if b then 1 else 0

/-- The readiness code (R596). -/
def readyCode : Ready → Nat
  | .start => 1
  | .recovery => 2
  | .ready => 3
  | .fatal => 4

/-- The heartbeats of the senders other than one: channel, word and Almanac count (R510). -/
def heartbeats (s : State) (c : Chan) : List Nat :=
  s.chans.foldl (fun l e =>
    match e.2.heart with
    | some (w, t) => if e.1 = chanKey c then l else l ++ [e.1, w.toNat, t.toNat]
    | none => l) []

/-- What `STATUS` reports (R510, R515, R536, R554, R589). -/
def statusNumbers (s : State) (c : Chan) : List Nat :=
  [readyCode s.up.ready, s.pwr.stage, numOf s.mode.fixed, slotVersion s false, slotVersion s true,
   numOf s.cox.running, numOf s.cox.committed, numOf s.cox.trial.isSome, numOf s.up.idLess,
   numOf s.up.fwRecovery, numOf s.up.recordsOk, numOf (2 ^ 20 ≤ (rpmbOf s 5).toNat)] ++ heartbeats s c

/-- `STATUS` (R515). -/
def execStatus (c : Chan) (s : State) : Out :=
  .next <| mailOp c mbStatus false none (s := s) fun s =>
    { st := stOk, pl := Config.payload mbStatus (statusNumbers s c), s := s }

/-- A reading as numbers: whether it is valid, and its value. -/
def readingNumbers : Reading → List Nat
  | .ok v => [1, v]
  | .bad => [0, 0]

/-- Compute-die and IOD hotspots, by sensor number (R499). -/
def hotspots : Nat := 104

/-- A snapshot: the Almanac count, and the quantities in the order of the table of R499, each with whether it is valid; of the
sensors that have readings of their own the last one (R499). -/
def snapshotOf (s : State) (r : Readings) : List Nat :=
  let kept := fun (n v : Nat) => [numOf !(s.pwr.invalid.contains n), v]
  let link := fun (p : PortSt) => [numOf p.linkUp, p.pmode, p.width, p.rate]
  [s.clk.alm.toNat] ++
    ([r.feedA, r.feedB, r.vin, r.curA, r.curB, r.auxV, r.auxI, r.power] ++ r.regs).flatMap readingNumbers ++
    (List.range hotspots).flatMap (fun k => kept k (tget 0 s.pwr.sensors k)) ++
    (List.range 8).flatMap (fun k => kept (104 + k) (s.stack k).temp) ++
    readingNumbers r.coolant ++ [s.sync.load, s.sync.rtt] ++ link s.portA ++ link s.portB

/-- Averages over the last second: package power and the two feed currents (R512). -/
def averages (s : State) : List Nat :=
  let l := s.cox.recent
  let n := max 1 l.length
  [(l.map (·.1)).sum / n, (l.map (·.2.1)).sum / n, (l.map (·.2.2)).sum / n]

/-- A PF's channels and the SMBus channels (R512). -/
def seesSnapshot : Chan → Bool
  | .fn _ f _ => isPF f
  | .bmc _ => true
  | .uart => false

/-- `SENSOR_READ` (R512). -/
def execSensorRead (c : Chan) (s : State) : Out :=
  .next <| mailOp c mbSensorRead false none (s := s) fun s =>
    if seesSnapshot c then
      match s.cox.snapshot with
      | none => answer stRefused s
      | some x => { st := stOk, pl := Config.payload mbSensorRead x, s := s }
    else { st := stOk, pl := Config.payload mbSensorRead (averages s), s := s }

/-- An event-log record as its 64 bytes; the CRC covers bytes 0–59 (R501). -/
def recordBytes (r : LogRec) : List Byte :=
  let body := leBytes 8 r.alm.toNat ++ leBytes 4 r.seq.toNat ++ leBytes 2 r.boot.toNat ++ leBytes 1 r.sev ++
    [Config.logSource r.type r.payload] ++ leBytes 2 r.type ++ leBytes 2 r.ctx ++
    (Config.logPayload r.type r.payload ++ List.replicate 40 0).take 40
  body ++ leBytes 4 (crc32 body).toNat

/-- The records a channel may see (R504). -/
def seesRecord (s : State) (c : Chan) (r : LogRec) : Bool :=
  match c with
  | .fn p f _ => isPF f || seesCtx (s.ctx r.ctx) p f
  | .bmc _ => true
  | .uart => true

/-- Records of one answer at most (R504). -/
def logBlock : Nat := 15

/-- `LOG_READ`: records in ascending `seq` from a given one, of flash and of the RAM buffer (R504). -/
def execLogRead (c : Chan) (seq : BitVec 32) (s : State) : Out :=
  .next <| mailOp c mbLogRead false none (s := s) fun s =>
    let rs := ((s.cox.log ++ s.cox.logBuf).filter fun r => seq.toNat ≤ r.seq.toNat && seesRecord s c r).take logBlock
    let last := match rs.getLast? with
      | some r => if s.cox.lastRead.toNat ≤ r.seq.toNat then r.seq + 1 else s.cox.lastRead
      | none => s.cox.lastRead
    { st := stOk, pl := rs.flatMap recordBytes, s := { s with cox := { s.cox with lastRead := last } } }

/-! ## Configuration records (R518, R519) -/

def recType (r : List Byte) : Nat := (r.getD 2 0).toNat
def recCounter (r : List Byte) : Nat := leNat ((r.drop 8).take 4)
def recLength (r : List Byte) : Nat := leNat ((r.drop 12).take 4)
def recBinding (r : List Byte) : List Byte := (r.drop 16).take 16

/-- A record of the form of R518. -/
def recForm (r : List Byte) : Bool :=
  64 ≤ r.length && leNat (r.take 2) = 0x4743 && 1 ≤ recType r && recType r ≤ 4 &&
    leNat ((r.drop 3).take 5) = 0 && leNat ((r.drop 32).take 32) = 0 && 1 ≤ recLength r && recLength r ≤ 65536 &&
    64 + recLength r ≤ r.length

/-- Types that a zero binding is allowed for (R518). -/
def zeroBinding (ty : Nat) : Bool := ty ≠ 2

/-- Whether a record's binding is this unit's, or a zero one its type allows; in identity-less state no other matches
(R519, R536). -/
def bindingOk (s : State) (r : List Byte) : Bool :=
  if leNat (recBinding r) = 0 then zeroBinding (recType r)
  else !s.up.idLess && recBinding r = identityDigest.take 16

/-- What R519 says of a record: `OK`, `AUTH_FAIL` or `ROLLBACK`. -/
def recVerdict (s : State) (r : List Byte) : Nat :=
  if !Config.signatureOk r || !bindingOk s r then stAuthFail
  else if recCounter r < (rpmbOf s (recType r)).toNat then stRollback
  else stOk

/-- `CFG_READ`: the record of a type without its signature; an answer holds its first 1,008 bytes (R506, R515). -/
def execCfgRead (c : Chan) (ty : BitVec 8) (s : State) : Out :=
  .next <| mailOp c mbCfgRead false none (s := s) fun s =>
    if ty.toNat = 0 || 4 < ty.toNat then answer stBadArg s
    else match tfind s.cox.config ty.toNat with
      | none => answer stOk s
      | some c => match c.take (fun _ => true) with
        | none => answer stOk s
        | some r => { st := stOk, pl := (r.take (64 + recLength r)).take payloadMax, s := s }

/-- `CFG_WRITE`: an accepted record is written and its counter raised. Power limits are in force from then on, and a start
that waits for a product record goes on with it (R518, R519, R589). -/
def execCfgWrite (c : Chan) (rec : List Byte) (s : State) : Out :=
  .next <| mailOp c mbCfgWrite true (some 0) (s := s) fun s =>
    if !recForm rec then answer stBadArg s
    else match recVerdict s rec with
      | 0 =>
        let ty := recType rec
        let s := raiseCounter ty (recCounter rec) s
        let waits := ty = 1 && !s.up.recordsOk
        let now := ty = 4 || waits
        let cox := { s.cox with config := tset s.cox.config ty ((tget TwoCopy.none s.cox.config ty).put rec),
                                inForce := if now then tset s.cox.inForce ty rec else s.cox.inForce }
        answer stOk { s with cox := cox, up := { s.up with recordsOk := s.up.recordsOk || waits } }
      | n => answer n s

/-! ## Firmware (R527–R530) -/

/-- Bytes of a firmware slot (R497). -/
def slotBytes : Nat := 16777216

/-- `FW_STAGE`: payload bytes 0–7 give the offset, the others are written into the inactive slot, which is erased on the
first stage after a commit or an activation; a verification is cancelled (R515, R527). -/
def execFwStage (c : Chan) (s : State) : Out :=
  .next <| mailOp c mbFwStage true (some 0) (s := s) fun s =>
    let pl := blkPayload (s.chan c)
    let off := leNat (pl.take 8)
    let bs := pl.drop 8
    if pl.length < 8 || slotBytes < off + bs.length then answer stBadArg s
    else
      let b := inactive s
      let old : FwSlot := if s.cox.erased then s.cox.slot b else { image := [], len := 0 }
      let new : FwSlot := { image := mput old.image off bs, len := max old.len (off + bs.length) }
      answer stOk { s with cox := { s.cox.setSlot b new with verified := false, erased := true } }

/-- `FW_VERIFY`: signature and version of the staged image (R527, R540). -/
def execFwVerify (c : Chan) (s : State) : Out :=
  .next <| mailOp c mbFwVerify true (some 0) (s := s) fun s =>
    let b := inactive s
    if !Config.signatureOk (s.cox.slot b).bytes then answer stAuthFail s
    else if slotVersion s b < (rpmbOf s 0).toNat then answer stRollback s
    else answer stOk { s with cox := { s.cox with verified := true } }

/-- A drain, unit reset or port reset is in progress (R528). -/
def repairBusy (s : State) : Bool :=
  !s.cox.unitReset.isEmpty || s.shells.any (fun e => e.2.drain ≠ .none) ||
    s.cox.longOps.any fun o => match o.act with
      | .portReset _ => true
      | _ => false

/-- What stands against an activation; recovery state leaves out supply stage and repair (R528, R542, R599). -/
def activateRefused (s : State) : Bool :=
  !s.cox.verified || s.cox.trial.isSome ||
    (!s.up.fwRecovery && (!isReady s || s.pwr.stage ≠ 0 || repairBusy s))

/-- A load task that runs is asked to yield, at its next SPC operation (R282, R528). -/
def yieldLoads (s : State) : State :=
  s.tasks.foldl (fun s e => if e.2.kind = 2 && e.2.save ≠ 0 then requestPreempt e.1 s else s) s

/-- `FW_ACTIVATE`: the hand-over begins; a running load task yields, and Cox serves nothing until the hand-over ends
(R528). -/
def execFwActivate (c : Chan) (s : State) : Out :=
  .next <| mailOp c mbFwActivate true (some 0) (s := s) fun s =>
    if activateRefused s then answer stRefused s
    else
      let a := accept c mbFwActivate .activate s
      { a with s := yieldLoads { a.s with cox := { a.s.cox with handover := true } } }

/-- A hand-over ends: the new image serves, on trial; it is logged and both PFs are told (R528, R529, R532). -/
def endActivate (o : LongOp) (s : State) : State :=
  let new := inactive s
  let old := slotVersion s s.cox.running
  let v := slotVersion s new
  let s := { s with
    cox := { s.cox with handover := false, running := new, trial := some new, verified := false, erased := false },
    up := { s.up with fwRecovery := false, coxUp := true } }
  endOp o stOk (setCauseBoth 9 (logEvent 0x0504 0 0 [old, v, 0] s))

/-- `FW_ACTIVATE_REVERT`: the watchdog restarts the old image; the activation answers `REVERTED` (R529, R532). -/
def execFwActivateRevert (s : State) : Out :=
  if !s.cox.handover then .next s
  else
    let s := { s with cox := { s.cox with handover := false } }
    let s := logEvent 0x0504 0 0 [slotVersion s s.cox.running, slotVersion s (inactive s), 1] s
    .next (endLong .activate stReverted (setCauseBoth 9 s))

/-- `FW_COMMIT`: the trial slot becomes the committed slot and the rollback counter rises to its version (R529). -/
def execFwCommit (c : Chan) (s : State) : Out :=
  .next <| mailOp c mbFwCommit true (some 0) (s := s) fun s =>
    match s.cox.trial with
    | none => answer stRefused s
    | some b =>
      let v := slotVersion s b
      answer stOk (raiseCounter 0 v { s with cox := { s.cox with committed := b, trial := none, erased := false } })

/-! ## Draining a Shell (R522–R524) -/

/-- A task that holds a Shell: it was admitted and has not ended, a pre-empted one among them (R522). -/
def holdsShell (t : Task) (L : Nat) : Bool := t.shells.getLsbD L && t.st ≠ .waiting && t.st ≠ .done

/-- `SHELL_DRAIN` (R522 steps 1 and 2). -/
def execShellDrain (c : Chan) (L : Fin 64) (o : DrainOpts) (s : State) : Out :=
  .next <| mailOp c mbShellDrain true (some 5) (s := s) fun s =>
    let x := s.shell L
    if !isReady s || x.vacant || x.drain ≠ .none || (o.replace && s.mode.fixed) then answer stRefused s
    else
      let s := s.modShell L fun x => { x with drain := .marked o }
      let s := if o.abort then abortWhere (fun _ t => holdsShell t L && t.st ≠ .ending) { code := 0x41, detail := 1 } s else s
      accept c mbShellDrain (.drain L) s

/-- A drain that meets supply stage S2 holds at its step 3 until the module is back in S0 (R524). -/
def drainHeld (s : State) : Bool :=
  2 ≤ s.pwr.stage || (s.pwr.stage ≠ 0 && match s.pwr.dip with
    | some d => 2 ≤ d.deepest
    | none => false)

/-- `SHELL_DRAIN_PROCEED`: no task holds the Shell any longer, and nothing waits to leave it (R50); it enters maintenance state, is reloaded and, where asked,
tested; a failed test or `replace` marks it for the next management pass (R26, R522 steps 3–6). -/
def execShellDrainProceed (L : Fin 64) (testPassed : Bool) (s : State) : Out :=
  match (s.shell L).drain with
  | .marked o =>
    if drainHeld s || s.tasks.any (fun e => holdsShell e.2 L) || !drained s L then .next s
    else
      let s := s.modShell L fun x => { x with maint := true }
      let failed := o.test && !testPassed
      let s := if failed then s.modPhys (34 * dieOf L + (s.shell L).phys) fun x => { x with failedTest := true } else s
      if failed || o.replace then
        let s := s.modShell L fun x => { x with drain := .remap }
        .next { s with cox := { s.cox with marked := s.cox.marked ++ [L.val] } }
      else .next (endLong (.drain L) stOk (s.modShell L fun x => { x with drain := .drained }))
  | .none => .next s
  | .remap => .next s
  | .drained => .next s

/-- `SHELL_REJOIN`: a drained Shell leaves maintenance state, and its handle table is cleared (R293, R523). -/
def execShellRejoin (c : Chan) (L : Fin 64) (s : State) : Out :=
  .next <| mailOp c mbShellRejoin true (some 5) (s := s) fun s =>
    if (s.shell L).drain ≠ .drained then answer stRefused s
    else answer stOk (s.modShell L fun x => { x with drain := .none, maint := false, handles := [] })

/-! ## The management pass (R26, R28, R218, R523) -/

/-- The spares of a die that may still be assigned, lowest first: free, and not found failing (R26, R593). -/
def freeSpares (s : State) (d : Nat) : List Nat :=
  [32, 33].filter fun p =>
    let k := 34 * d + p
    let x := s.physOf k
    !x.used && !x.failedRec && !x.failedTest && !s.cox.spareFailed.contains k

/-- A byte or line of a scratchpad that a context-scoped region covers (R218). -/
def inContextRegion (x : Shell) (line : Nat) : Bool :=
  x.regions.any fun e => e.2.scope && e.2.line0 ≤ line && line < e.2.line0 + e.2.lines

/-- What a Shell is on its new physical Shell: its context-scoped regions and the windows with `keep` = 1; a correctable
line was corrected by the copy (R218). -/
def moveShell (p : Nat) (x : Shell) : Shell :=
  { Shell.reset 0 with
      phys := p, maint := false, cacheReq := x.cacheReq, cacheEff := x.cacheEff,
      regCfl := x.regCfl, regEnt := x.regEnt, regWhy := x.regWhy, cacheCfl := x.cacheCfl,
      regions := x.regions.filter fun e => e.2.scope,
      windows := x.windows.filter fun e => e.2.keep,
      sp := x.sp.filter fun e => inContextRegion x (e.1 / 72),
      lineErr := (x.lineErr.filter fun e => inContextRegion x e.1 && lineClass x e = .unc).map fun e => (e.1, forcedErr),
      checkQ := x.checkQ, pw := x.pw }

/-- The contexts whose regions a Shell holds. -/
def regionContexts (x : Shell) : List Nat := ((x.regions.filter fun e => e.2.scope).map fun e => e.2.ctx.toNat).eraseDups

/-- A Shell without a spare becomes vacant: its regions and windows are lost (R28, R523). -/
def vacate (x : Shell) : Shell := { Shell.reset 0 with vacant := true, maint := false, phys := x.phys, pw := x.pw }

/-- A marked Shell takes the lowest free spare of its die, or becomes vacant; the end is logged, both PFs are told, and
the drain is announced (R26, R28, R523, R532). -/
def serveMarked (L : Nat) (s : State) : State :=
  let d := dieOf L
  let old := (s.shell L).phys
  let s := match freeSpares s d with
    | p :: _ =>
      let s := s.modPhys (34 * d + p) fun x => { x with used := true }
      logEvent 0x0207 4 0 [L, old, p] (s.modShell L (moveShell p))
    | [] =>
      let lost := regionContexts (s.shell L)
      logEvent 0x0207 4 0 ([L, old, 34] ++ lost) (s.modShell L vacate)
  endLong (.drain L) stOk (setCauseBoth 9 s)

/-- The calibration record is rewritten with the scale folded into the weights, which take effect at the next 10 µs boundary
(R531). -/
def recalibrate (s : State) : State :=
  let w := s.cox.calWeights * s.pwr.scale / 64
  { s with cox := { s.cox with calNext := some w, cal := s.cox.cal.put w } }

/-- `MANAGEMENT_PASS`: the Shells marked since the last pass are served in ascending logical order, all decided before the first takes effect (R26); after a remap the
calibration record is rewritten (R531). -/
def execManagementPass (s : State) : Out :=
  if !coxRuns s || s.cox.marked.isEmpty then .next s
  else
    let ls := (List.range 64).filter s.cox.marked.contains
    let olds := ls.map fun L => 34 * dieOf L + (s.shell L).phys
    let s := ls.foldl (fun s L => serveMarked L s) { s with cox := { s.cox with marked := [] } }
    .next (recalibrate (olds.foldl (fun s k => s.modPhys k fun x => { x with used := false }) s))

/-- `SPARE_SELF_TEST`: a spare that fails is recorded and never used (R523). -/
def execSpareSelfTest (failed : List (Fin 68)) (s : State) : Out :=
  if !(coxRuns s && mainOn s) then .next s
  else .next ((failed.map fun k => k.val).foldl (fun s (k : Nat) =>
    if k % 34 < 32 || (s.physOf k).used || s.cox.spareFailed.contains k then s
    else logEvent 0x0208 4 0 [k] { s with cox := { s.cox with spareFailed := s.cox.spareFailed ++ [k] } }) s)

/-! ## Units, ports, calibration (R525, R526, R531) -/

/-- `UNIT_RESET`: a key streamer (0–7) or a key expander (8–15) takes no new stream (R525). -/
def execUnitReset (c : Chan) (u : Fin 16) (s : State) : Out :=
  .next <| mailOp c mbUnitReset true (some 5) (s := s) fun s =>
    if !mainOn s then answer stDomainOff s
    else if (tfind s.cox.unitReset u).isSome then answer stRefused s
    else accept c mbUnitReset (.unitReset u)
      { s with cox := { s.cox with unitReset := tset s.cox.unitReset u s.clk.now } }

/-- The streams that are open on a unit (R525). -/
def unitStreams (s : State) (u : Nat) : Tab KStream :=
  s.streams.filter fun e => if u < 8 then e.2.streamer = some u else e.2.crew = u - 8 && needsUniform e.2

/-- Nanoseconds that open streams are allowed to close (R525). -/
def unitGrace : Nat := 10000000

/-- The task of a stream that is still open aborts; the fault names the command that opened it (R525, R569). -/
def abortStream (detail : Nat) (s : State) (e : Nat × KStream) : State :=
  match e.2.members with
  | [] => s
  | m :: _ => abortTask e.2.task { code := 0xFF, detail := detail } m.sh m.cmd s

/-- A key stream command that waits for a unit that is now out of service aborts (R525). -/
def abortWaiting (u : Nat) (s : State) : State :=
  s.streams.foldl (fun s e =>
    if !e.2.started && (if u < 8 then e.2.streamer = some u else e.2.crew = u - 8 && needsUniform e.2) then
      abortStream 0x0208 s e
    else s) s

/-- `UNIT_RESET_TIMEOUT`: the streams have closed, or 10 ms are over and the tasks of those still open abort; the unit is
reset and tested (R525, R532). -/
def execUnitResetTimeout (u : Fin 16) (testPassed : Bool) (s : State) : Out :=
  match tfind s.cox.unitReset u with
  | none => .next s
  | some t =>
    let mine := unitStreams s u
    if !mine.isEmpty && s.since t < unitGrace then .next s
    else
      let s := { s with cox := { s.cox with unitReset := tdel s.cox.unitReset u } }
      if testPassed then
        .next (endLong (.unitReset u) stOk (mine.foldl (abortStream 0x0101) s))
      else
        let s := abortWaiting u (mine.foldl (abortStream 0x0208) s)
        let s := { s with up := { s.up with keyUnitOut := s.up.keyUnitOut ||| (1#16 <<< u.val) } }
        .next (endLong (.unitReset u) stOk (setCauseBoth 9 (logEvent 0x0208 4 0 [68 + u.val] s)))

/-- A port reset is in progress. -/
def portResetBusy (s : State) : Bool := s.cox.longOps.any fun o => match o.act with
  | .portReset _ => true
  | _ => false

/-- The sender's own port, where it has one. -/
def senderPort : Chan → Option Port
  | .fn p _ _ => some p
  | .bmc _ => none
  | .uart => none

/-- `PORT_RESET`: the port is reset as R321 says; its contexts and semaphores stay (R526). -/
def execPortReset (c : Chan) (q : Port) (s : State) : Out :=
  .next <| mailOp c mbPortReset true none (s := s) fun s =>
    if !mainOn s then answer stDomainOff s
    else if senderPort c = some q || (senderPort c).any (fun p => (s.port p).resetting) || portResetBusy s then
      answer stRefused s
    else
      let a := accept c mbPortReset (.portReset q) s
      let t := if (a.s.port q).linkUp then takeLinkDown q a.s else a.s
      { a with s := t.modPort q fun x => { x with resetting := true, training := true } }

/-- `CALIB_RUN` (R531); refused until readiness (R599). -/
def execCalibRun (c : Chan) (s : State) : Out :=
  .next <| mailOp c mbCalibRun true (some 1) (s := s) fun s =>
    if !isReady s then answer stRefused s else accept c mbCalibRun .calib s

/-- `CALIBRATION_DAILY`: the record is rewritten when the scale has moved more than 1/32 from 1 (R531). -/
def execCalibrationDaily (s : State) : Out :=
  if coxRuns s && (s.pwr.scale < 62 || 66 < s.pwr.scale) then .next (recalibrate s) else .next s

/-! ## Cox at its own times (R496, R499, R502, R503, R564) -/

/-- Snapshots of one second (R499, R512). -/
def perSecond : Nat := 1000

/-- The three averaged quantities of a snapshot, where all are valid. -/
def averaged (r : Readings) : List (Nat × Nat × Nat) :=
  match r.power, r.curA, r.curB with
  | .ok p, .ok a, .ok b => [(p, a, b)]
  | _, _, _ => []

/-- Readings outside their range are invalid sensors, each logged once (R500); `n` is the first's number. -/
def snapshotInvalid (n : Nat) (rs : List Reading) (s : State) : State :=
  rs.zipIdx.foldl (fun s z => if z.1 = .bad then sensorInvalid (n + z.2) s else s) s

/-- `SENSOR_SNAPSHOT`: Cox publishes a snapshot, stamped with the Almanac (R499). -/
def execSensorSnapshot (x : Readings) (s : State) : Out :=
  if !coxRuns s then .next s
  else
    let s := { s with cox := { s.cox with
      snapshot := some (snapshotOf s x), recent := (averaged x ++ s.cox.recent).take perSecond } }
    .next (snapshotInvalid 112 ([x.coolant, x.feedA, x.feedB, x.vin, x.curA, x.curB, x.auxV, x.auxI, x.power] ++ x.regs) s)

/-- Records that flash holds, and of one erase block (R497, R501, R503). -/
def logCapacity : Nat := 2097152
def logErase : Nat := 2048

/-- `LOG_FLUSH`: the buffered records are written to flash; when the log wraps, the block with the oldest records is erased
and a log-wrap record is written (R502, R503, R532). -/
def execLogFlush (s : State) : Out :=
  if !coxRuns s then .next s
  else
    let b := s.cox.logBuf
    let wraps := logCapacity < s.cox.log.length + b.length
    let old := if wraps then s.cox.log.drop logErase else s.cox.log
    let blk := ceilDiv s.cox.logAt logErase % (logCapacity / logErase)
    let s := { s with cox := { s.cox with log := old ++ b, logAt := s.cox.logAt + b.length, logBuf := [] } }
    .next (if wraps then setCauseBoth 9 (logEvent 0x0501 0 0 [blk] s) else s)

/-- `CORRECTED_SUMMARY`: one record for each source of the second's corrected events (R564). -/
def execCorrectedSummary (s : State) : Out :=
  if !coxRuns s then .next s
  else
    let l := s.cox.corr
    .next (l.foldl (fun s e => logEvent 0x0201 1 0 [e.1, e.2.1, e.2.2] s) { s with cox := { s.cox with corr := [] } })

/-- What a Cox restart leaves of the long operations: they are announced `RESTARTED`; a drain that has not reached
maintenance state and the resets of units and ports end with them. -/
def endLongOps (s : State) : State :=
  let ops := s.cox.longOps
  let s := { s with cox := { s.cox with unitReset := [] } }
  ops.foldl (fun s o =>
    let s := match o.act with
      | .drain L => s.modShell L fun x => match x.drain with
        | .marked _ => { x with drain := .none }
        | .none => x
        | .remap => x
        | .drained => x
      | .portReset q => s.modPort q fun x => { x with resetting := false }
      | _ => s
    endOp o stRestarted s) s

/-- `COX_WATCHDOG`: a missed kick restarts Cox from the committed slot; the blocks that it had taken are answered
`RESTARTED`, and the restart is logged (R496, R532). -/
def execCoxWatchdog (pc : BitVec 32) (s : State) : Out :=
  if !coxRuns s then .next s
  else
    let taken := (s.chans.filter fun e => e.2.busy).map fun e => senderOf e.1
    let s := taken.foldl (fun s c => respond c stRestarted [] s) s
    let s := endLongOps s
    let s := { s with cox := { s.cox with running := s.cox.committed, trial := none, verified := false } }
    .next (setCauseBoth 9 (logEvent 0x0503 4 0 [pc.toNat] s))

/-! ## Powered-down domains (R516) -/

/-- `DOMAIN_GUARD_RESPONSE`: the guard at a powered-down domain's edge answers (R516). -/
def execDomainGuardResponse (q : GuardReq) (s : State) : Out :=
  match q with
  | .task sh addr =>
    match (s.shell sh).holder with
    | none => .next s
    | some tid => .next (abortTask tid { code := 0x11, detail := addr.toNat } sh (s.shell sh).stroke.idx s)
  | .peer p read => .next (refusePeer p (if read then .read 0 else .write []) s)
  | .hostRead p f => .next ((setCause p f 7 s).modPort p fun x => { x with answer := .data (List.replicate 8 0) })
  | .hostWrite p f => .next (setCause p f 7 s)
  | .mailbox c => if (s.chan c).go && serves s c then .next (respond c stDomainOff [] s) else .next s
  | .cox => .next (logEvent (Config.unlistedEvent 0).1 (Config.unlistedEvent 0).2 0 [] s)

end Sys2Proof.Machine
end

