-- ==== Sys2Proof/Machine/Security.lean ====
section
/-! DEFINITION. The key store, identity and big-number engine (16_security_engines R544–R562), and the end of the long
mailbox operations (R510). -/

namespace Sys2Proof.Machine

/-! ## Staging buffers (R549) -/

def stagingSize : Nat := 4096

/-- A channel's staging buffer. -/
def staging (s : State) (c : Chan) : Mem := tget [] s.sec.staging (chanKey c)

def setStaging (c : Chan) (m : Mem) (s : State) : State :=
  { s with sec := { s.sec with staging := tset s.sec.staging (chanKey c) m } }

/-- A long operation of this chapter runs for a channel (R561). -/
def stagingBusy (s : State) (c : Chan) : Bool := s.cox.longOps.any fun o => o.ch = c && 0x80 ≤ o.opcode

/-- `STAGE_WRITE`: payload bytes 8 onward at the offset of bytes 0–7 (R549, R561). -/
def execStageWrite (c : Chan) (s : State) : Out :=
  .next <| mailOp c mbStageWrite true (some 2) (s := s) fun s =>
    let pl := blkPayload (s.chan c)
    let off := leNat (pl.take 8)
    let bs := pl.drop 8
    if pl.length < 8 || stagingSize < off + bs.length then answer stBadArg s
    else if stagingBusy s c then answer stRefused s
    else answer stOk (setStaging c (mput (staging s c) off bs) s)

/-- `STAGE_READ`: up to 1,000 bytes from an offset (R549). -/
def execStageRead (c : Chan) (off n : Nat) (s : State) : Out :=
  .next <| mailOp c mbStageRead true (some 2) (s := s) fun s =>
    if 1000 < n || stagingSize < off + n then answer stBadArg s
    else { st := stOk, pl := mslice (staging s c) off n, s := s }

/-! ## The key store (R544–R548) -/

/-- Fields of an attribute block (R544). -/
def ksKind (a : BitVec 256) : Nat := (a.extractLsb' 0 4).toNat
def ksCurve (a : BitVec 256) : Nat := (a.extractLsb' 4 4).toNat
def ksWords (a : BitVec 256) : Nat := (a.extractLsb' 8 8).toNat
def ksGen (a : BitVec 256) : BitVec 32 := a.extractLsb' 64 32

/-- An attribute block that an import accepts: a listed kind with its curve or length, usage bits its kind gives a meaning,
`gen` and reserved fields zero (R544, R545). -/
def attrOk (a : BitVec 256) : Bool :=
  let k := ksKind a
  1 ≤ k && k ≤ 3 &&
    (if k = 2 then 1 ≤ ksCurve a && ksCurve a ≤ 3 else ksCurve a = 0) &&
    (if k = 3 then 8 ≤ ksWords a && ksWords a ≤ 128 else ksWords a = 0) &&
    (!a.getLsbD 16 || k = 1) && (!a.getLsbD 17 || 2 ≤ k) && (!a.getLsbD 18 || k = 2) && (!a.getLsbD 19 || k = 3) &&
    a.extractLsb' 20 4 = 0 && a.extractLsb' 33 31 = 0 && ksGen a = 0

/-- The key store works: the unit secret is there (R536). -/
def ksWorks (s : State) : Bool := s.sec.secret && !s.up.idLess

/-- Slots of one answer of `KS_INFO` (R561). -/
def ksInfoMax : Nat := 31

/-- The attributes of a slot; an empty one reads zero (R544). -/
def ksAttr (s : State) (k : Nat) : BitVec 256 := match tfind s.sec.ks k with
  | none => 0
  | some x => x.attr

/-- `KS_INFO` (R544, R561). -/
def execKsInfo (c : Chan) (slot : Fin 64) (s : State) : Out :=
  .next <| mailOp c mbKsInfo true (some 2) (s := s) fun s =>
    if !ksWorks s then answer stRefused s
    else
      let n := min ksInfoMax (64 - slot.val)
      { st := stOk, pl := (List.range n).flatMap fun i => leBytes 32 (ksAttr s (slot.val + i)).toNat, s := s }

/-- An import or a roll that is not accepted: the staging buffer is zeroed, unless an operation of the channel still runs
(R549, R561). -/
def importRefused (c : Chan) (st : Nat) (s : State) : Answer :=
  answer st (if stagingBusy s c then s else setStaging c [] s)

/-- `KS_IMPORT` is accepted for an empty slot (R545, R546). -/
def execKsImport (c : Chan) (slot : Fin 64) (attr : BitVec 256) (s : State) : Out :=
  .next <| mailOp c mbKsImport true (some 2) (s := s) fun s =>
    if !ksWorks s then importRefused c stRefused s
    else if !attrOk attr then importRefused c stBadArg s
    else if (tfind s.sec.ks slot).isSome then importRefused c stRefused s
    else accept c mbKsImport (.ksImport slot attr) s

/-- `KS_ERASE`: the slot is empty; an operation that referenced its secret keeps it (R547). -/
def execKsErase (c : Chan) (slot : Fin 64) (s : State) : Out :=
  .next <| mailOp c mbKsErase true (some 2) (s := s) fun s =>
    if !ksWorks s then answer stRefused s
    else answer stOk { s with sec := { s.sec with ks := tdel s.sec.ks slot } }

/-- A new secret of the kind, curve and length of the old (R547). -/
def sameKind (a b : BitVec 256) : Bool := ksKind a = ksKind b && ksCurve a = ksCurve b && ksWords a = ksWords b

/-- `KS_ROLL` is accepted for a full slot and a block of the same kind (R547). -/
def execKsRoll (c : Chan) (slot : Fin 64) (attr : BitVec 256) (s : State) : Out :=
  .next <| mailOp c mbKsRoll true (some 2) (s := s) fun s =>
    if !ksWorks s then importRefused c stRefused s
    else match tfind s.sec.ks slot with
      | none => importRefused c stRefused s
      | some x =>
        if !attrOk attr || !sameKind attr x.attr then importRefused c stBadArg s
        else accept c mbKsRoll (.ksRoll slot attr) s

/-- The secret that the staging buffer holds wrapped, opened; a locked engine opens none (R545, R546, R560). -/
def unwrapped (s : State) (c : Chan) (attr : BitVec 256) : Option (List Byte) :=
  if s.sec.bnLocked then none else Config.unwrapSecret attr.toNat (mslice (staging s c) 0 stagingSize)

/-- Payload byte 0 after a failed import (R546). -/
def importByte (s : State) (c : Chan) (attr : BitVec 256) : Byte :=
  if s.sec.bnLocked || Config.unwrapPkFail attr.toNat (mslice (staging s c) 0 stagingSize) then 0x60 else 0x00

/-- An import or a roll fails: the slot is unchanged, the staging buffer zeroed, and payload byte 0 of the channel's block
says whether the engine rejected an input; a block submitted meanwhile is left (R546, R549). -/
def failImport (o : LongOp) (attr : BitVec 256) (s : State) : State :=
  let c := o.ch
  let b := importByte s c attr
  let s := s.modChan c fun x => if x.go then x else { x with buf := mput x.buf 16 [b] }
  endOp o stAuthFail (setStaging c [] s)

/-- An import or a roll ends (R546, R547, R549). -/
def endImport (o : LongOp) (slot : Nat) (attr : BitVec 256) (roll : Bool) (s : State) : State :=
  let c := o.ch
  let old := tfind s.sec.ks slot
  if old.isSome ≠ roll then endOp o stRefused (setStaging c [] s)
  else match unwrapped s c attr with
    | none => failImport o attr s
    | some x =>
      let gen : BitVec 32 := match old with
        | none => 0
        | some y => ksGen y.attr + 1
      let attr := attr ||| (gen.setWidth 256 <<< 64)
      let s := setStaging c [] s
      endOp o stOk { s with sec := { s.sec with ks := tset s.sec.ks slot { attr := attr, secret := x } } }

/-! ## The big-number engine (R555–R560) -/

/-- Operations by number. -/
def pkNum : PkOp → Nat
  | .rsaPrivate => 0
  | .rsaPublic => 1
  | .ecdsaSign => 2
  | .ecdsaVerify => 3
  | .ecdh => 4

/-- Whether a slot's usage bits permit an operation that uses a secret (R544, R557). -/
def pkPermits (op : PkOp) (a : BitVec 256) : Bool :=
  match op with
  | .rsaPrivate => ksKind a = 3 && (a.getLsbD 17 || a.getLsbD 19)
  | .ecdsaSign => ksKind a = 2 && a.getLsbD 17
  | .ecdh => ksKind a = 2 && a.getLsbD 18
  | .rsaPublic => true
  | .ecdsaVerify => true

/-- Operations on host-supplied operands alone (R557). -/
def pkPublic : PkOp → Bool
  | .rsaPublic => true
  | .ecdsaVerify => true
  | .rsaPrivate => false
  | .ecdsaSign => false
  | .ecdh => false

/-- A slot's port and context cover a sender: its port, and any context of a function of it or the one bound (R544, R550,
R557). -/
def pkCovers (s : State) (c : Chan) (k : KsSlot) : Bool :=
  match c with
  | .fn p f _ => k.port = p && (k.ctx = 0 || seesCtx (s.ctx k.ctx) p f)
  | .bmc _ => false
  | .uart => false

/-- The secret a request references; none where the slot does not give it (R547, R557). -/
def pkSecret (s : State) (c : Chan) (q : PkReq) : Option (List Byte) :=
  if pkPublic q.op then some []
  else match tfind s.sec.ks q.slot with
    | none => none
    | some k => if pkPermits q.op k.attr && pkCovers s c k then some k.secret else none

/-- `PK_RUN` is accepted with a reference to its secret (R547, R557). -/
def execPkRun (c : Chan) (q : PkReq) (s : State) : Out :=
  .next <| mailOp c mbPkRun true (some 2) (s := s) fun s =>
    if !ksWorks s then answer stRefused s
    else if stagingSize < q.src + q.len || stagingSize ≤ q.dst then answer stBadArg s
    else match pkSecret s c q with
      | none => answer stNotOwner s
      | some x => accept c mbPkRun (.pkRun q x) s

/-- Nanoseconds in an hour, and the final-check failures that lock the engine (R560). -/
def hourNs : Nat := 3600000000000
def bnLimit : Nat := 16

/-- A final-check failure is counted and logged; sixteen within one hour lock the engine (R560). -/
def noteFailure (s : State) : State :=
  let l := s.clk.now :: s.sec.bnFails.filter fun t => s.since t < hourNs
  logEvent 0x0603 4 0 [l.length]
    { s with sec := { s.sec with bnFails := l, bnLocked := s.sec.bnLocked || bnLimit ≤ l.length } }

/-- An engine run ends: status byte and result go to the staging buffer (R556–R558). -/
def endPkRun (o : LongOp) (q : PkReq) (secret : List Byte) (s : State) : State :=
  let c := o.ch
  let ops := mslice (staging s c) q.src q.len
  let (draw, s) := s.drawFree
  let failed := !s.sec.bnLocked && Config.pkFinalCheckFailed (pkNum q.op) secret ops draw
  let res := if s.sec.bnLocked || failed then none else Config.pkResult (pkNum q.op) secret ops draw
  let bs := match res with
    | none => [0x60]
    | some bs => 0x00 :: bs
  let s := if failed then noteFailure s else s
  endOp o stOk (setStaging c (mput (staging s c) q.dst (bs.take (stagingSize - q.dst))) s)

/-! ## Identity and attestation (R552–R554) -/

/-- Identity signatures of the tree (R552). -/
def idTree : Nat := 1048576

/-- A field of n bytes. -/
def fit (n : Nat) (bs : List Byte) : List Byte := (bs ++ List.replicate n 0).take n

/-- The mask of failed physical Shells that the signed Shell map gives (R518, R553). -/
def shellMapBytes (s : State) : List Byte := fit 9 ((configBody s 0x02).getD [])

/-- Bytes 0–255 of a report (R553). -/
def reportBody (s : State) (nonce : BitVec 256) (q : Nat) : List Byte :=
  leBytes 4 1 ++ leBytes 32 nonce.toNat ++ fit 32 identityDigest ++ fit 97 agreementKey ++ [0] ++
    leBytes 8 s.clk.alm.toNat ++ sha256 (s.cox.slot s.cox.running).bytes ++
    leBytes 4 (slotVersion s s.cox.running) ++ leBytes 4 (slotVersion s s.cox.committed) ++
    leBytes 1 (numOf s.cox.trial.isSome) ++ (List.range 5).flatMap (fun i => leBytes 4 (rpmbOf s i).toNat) ++
    shellMapBytes s ++ leBytes 4 (idTree - q - 1) ++ List.replicate 8 0

/-- The warnings of R554 on the signatures that remain. -/
def warnIdentity (left : Nat) (s : State) : State :=
  if left = 0 then logEvent 0x0602 4 0 [0] s
  else if left = 65535 || left = 4096 then logEvent 0x0602 0 0 [left] s
  else s

/-- `ATTEST` is accepted while the tree has signatures left (R553, R554). -/
def execAttest (c : Chan) (nonce : BitVec 256) (s : State) : Out :=
  .next <| mailOp c mbAttest true (some 2) (s := s) fun s =>
    if !ksWorks s || idTree ≤ (rpmbOf s 5).toNat then answer stRefused s
    else accept c mbAttest (.attest nonce) s

/-- The report is placed in the staging buffer; counter 5 is raised before its signature leaves Cox (R552, R553). -/
def endAttest (o : LongOp) (nonce : BitVec 256) (s : State) : State :=
  let c := o.ch
  let q := (rpmbOf s 5).toNat
  if idTree ≤ q then endOp o stRefused s
  else
    let body := reportBody s nonce q
    let s := raiseCounter 5 (q + 1) s
    let s := warnIdentity (idTree - q - 1) s
    endOp o stOk (setStaging c (mput (staging s c) 0 (body ++ fit 1772 (Config.identitySign identityKey q body))) s)

/-- Identity public key, key-agreement public key and endorsement (R535, R561). -/
def idContent (s : State) : List Byte :=
  Config.identityBlob identityPublic agreementKey ((configBody s 1).getD [])

/-- `ID_READ` (R561). -/
def execIdRead (c : Chan) (s : State) : Out :=
  .next <| mailOp c mbIdRead true (some 2) (s := s) fun s =>
    if !ksWorks s then answer stRefused s
    else { st := stOk, pl := (idContent s).take payloadMax, s := s }

/-! ## The end of a long operation (R510) -/

/-- Drains and unit resets end by their own events. -/
def endsItself : LongAct → Bool
  | .drain _ => true
  | .unitReset _ => true
  | _ => false

/-- What a long operation does at its end. -/
def finishLong (o : LongOp) (s : State) : State :=
  match o.act with
  | .ksImport slot attr => endImport o slot attr false s
  | .ksRoll slot attr => endImport o slot attr true s
  | .pkRun q x => endPkRun o q x s
  | .attest nonce => endAttest o nonce s
  | .calib => endOp o stOk (recalibrate s)
  | .activate => endActivate o s
  | .portReset q => endOp o stOk (s.modPort q fun x => { x with resetting := false })
  | .drain _ => s
  | .unitReset _ => s

/-- `LONG_OPERATION_END`: the channel's oldest long operation ends and is announced; during a hand-over only the hand-over
itself does (R510, R528). -/
def execLongOperationEnd (c : Chan) (s : State) : Out :=
  match s.cox.longOps.find? fun o => o.ch = c && !endsItself o.act && (!s.cox.handover || o.act = .activate) with
  | none => .next s
  | some o => .next (finishLong o s)

end Sys2Proof.Machine
end

