-- ==== Sys2Proof/Machine/Wires.lean ====
section
/-! DEFINITION. The service ports (R517, R585, R586, R610): the SMBus target, the management UART and the test port. -/

namespace Sys2Proof.Machine

/-! ## SMBus (R517) -/

/-- A transaction that the target takes: it runs on auxiliary power, and the PEC passes; one whose PEC fails is ignored
and counted (R517). -/
def smbus (pec : Bool) (f : State → State) (s : State) : State :=
  if !s.up.aux then s else if pec then f s else s.bump (errCtr 24)

/-- The selected channel. -/
def smbChan (s : State) : Chan := .bmc s.svc.smbSecure

def smbAnswer (bs : List Byte) (s : State) : State := { s with svc := { s.svc with smbResp := bs } }

/-- Log records newer than the last read (R517). -/
def newerRecords (s : State) : Bool := (s.cox.log ++ s.cox.logBuf).any fun r => s.cox.lastRead.toNat ≤ r.seq.toNat

/-- The status byte of code 0x00. -/
def statusByte (s : State) : Byte :=
  BitVec.ofNat 8 (numOf s.up.pwrGood + 2 * numOf (isReady s) + 4 * numOf s.pwr.alert + 8 * numOf (newerRecords s) +
    16 * (s.pwr.stage % 8))

/-- `SMB_STATUS_BYTE`. -/
def execSmbStatusByte (pec : Bool) (s : State) : Out :=
  .next (smbus pec (fun s => smbAnswer [statusByte s] s) s)

/-- `SMB_SENSOR_BLOCK_READ`: the first 32 bytes of the snapshot. -/
def execSmbSensorBlockRead (pec : Bool) (s : State) : Out :=
  .next <| smbus pec (s := s) fun s =>
    match s.cox.snapshot with
    | none => smbAnswer [] s
    | some x => smbAnswer ((Config.payload mbSensorRead x).take 32) s

/-- `SMB_SELECT_CHANNEL`: [15] the set, [9:0] the byte offset. -/
def execSmbSelectChannel (pec : Bool) (w : BitVec 16) (s : State) : Out :=
  .next <| smbus pec (s := s) fun s =>
    { s with svc := { s.svc with smbSecure := w.getLsbD 15, smbOff := w.setWidth 10 } }

/-- Bytes of one block transaction at most. -/
def smbMax : Nat := 32

/-- Bytes written from an offset on; the offset is 10 bits wide. -/
def wrapPut : Nat → List Byte → Mem → Mem
  | _, [], m => m
  | off, b :: bs, m => wrapPut (off + 1) bs (mput m (off % 1024) [b])

/-- `SMB_BLOCK_WRITE`: up to 32 bytes into the selected block; while `go` is 1 the write is ignored (R508). -/
def execSmbBlockWrite (pec : Bool) (bs : List Byte) (s : State) : Out :=
  .next <| smbus pec (s := s) fun s =>
    if smbMax < bs.length then s
    else
      let c := smbChan s
      let off := s.svc.smbOff
      let s := if (s.chan c).go then (s.modChan c fun x => { x with wlost := true }).bump (errCtr 23)
        else s.modChan c fun x => { x with buf := wrapPut off.toNat bs x.buf }
      { s with svc := { s.svc with smbOff := off + BitVec.ofNat 10 bs.length } }

/-- `SMB_BLOCK_READ`: up to 32 bytes from the selected block. -/
def execSmbBlockRead (pec : Bool) (n : Nat) (s : State) : Out :=
  .next <| smbus pec (s := s) fun s =>
    let n := min n smbMax
    let off := s.svc.smbOff
    let bs := (List.range n).map fun i => mget (s.chan (smbChan s)).buf ((off.toNat + i) % 1024)
    { s with svc := { s.svc with smbResp := bs, smbOff := off + BitVec.ofNat 10 n } }

/-- A block channel's control register as it reads (R507). -/
def ctlByte (x : Channel) : Byte :=
  BitVec.ofNat 8 (numOf x.go + 2 * numOf x.done + 4 * numOf x.busy + 16 * numOf x.ieDone + 32 * numOf x.wlost)

/-- A control register written: the stored fields, then `abort`, then `go` (R507, R508). -/
def writeCtl (c : Chan) (w : Byte) (s : State) : State :=
  let s := wrBlockCtl c 0xFF#64 (w.setWidth 64) 0 s
  let s := if w.getLsbD 3 then abortBlock c s else s
  if w.getLsbD 0 then submit c s else s

/-- `SMB_CONTROL_ACCESS`: the selected channel's control register, read or written. -/
def execSmbControlAccess (pec : Bool) (w : Option Byte) (s : State) : Out :=
  .next <| smbus pec (s := s) fun s =>
    match w with
    | none => smbAnswer [ctlByte (s.chan (smbChan s))] s
    | some w => writeCtl (smbChan s) w s

/-! ## UART (R585) -/

/-- A frame's length (R585). -/
def frameLength (n : Nat) : Bool := 16 ≤ n && n ≤ 1024

/-- `UART_FRAME`: a complete frame submits its block. One with a bad CRC, or one that arrives while a block is outstanding,
is discarded and counted; after a length out of range the receiver waits for a silence (R585). -/
def execUartFrame (block : List Byte) (crc : BitVec 32) (s : State) : Out :=
  if !s.up.aux || s.svc.uartIn then .next s
  else if !frameLength block.length then .next ({ s with svc := { s.svc with uartIn := true } }.bump (errCtr 25))
  else if crc32 block ≠ crc || (s.chan .uart).go then .next (s.bump (errCtr 25))
  else .next (submit .uart (s.modChan .uart fun x => { x with buf := mput x.buf 0 block }))

/-- `UART_ABORT_FRAME`: a frame of length 0 (R585). -/
def execUartAbortFrame (s : State) : Out :=
  if !s.up.aux || s.svc.uartIn then .next s else .next (abortBlock .uart s)

/-- `UART_SILENCE_TIMEOUT`: the receiver waits for 0x7E again (R585). -/
def execUartSilenceTimeout (s : State) : Out := .next { s with svc := { s.svc with uartIn := false } }

/-! ## Test port (R586, R610) -/

def irIdcode : Nat := 0
def irBypass : Nat := 1
def irSample : Nat := 2
def irExtest : Nat := 3

/-- The one-bit register between TDI and TDO; the pins are the module's. -/
def shiftBypass (tdi : Bool) (s : State) : State :=
  { s with svc := { s.svc with ir := irBypass, tdo := BitVec.ofNat 32 (numOf s.svc.bypass), bypass := tdi, driven := [] } }

/-- `JTAG_BYPASS`. The test port is inactive while TRST# is low (R610). -/
def execJtagBypass (tdi : Bool) (s : State) : Out := .next (if s.svc.trst then shiftBypass tdi s else s)

/-- The identification word: version 1, part 0x4816, manufacturer 0x337 (R586). -/
def idCode : BitVec 32 := 0x1481666F#32

/-- `JTAG_IDCODE`. -/
def execJtagIdcode (s : State) : Out :=
  .next (if s.svc.trst then { s with svc := { s.svc with ir := irIdcode, tdo := idCode, driven := [] } } else s)

/-- `JTAG_SAMPLE_PRELOAD`: the boundary cells sample the pins and are loaded. -/
def execJtagSamplePreload (pins cells : List Bool) (s : State) : Out :=
  .next (if s.svc.trst then
    { s with svc := { s.svc with ir := irSample, sampled := pins, cells := cells, driven := [] } } else s)

/-- `JTAG_EXTEST`: only while the main domains are down; otherwise it acts as BYPASS (R586). -/
def execJtagExtest (tdi : Bool) (s : State) : Out :=
  .next (if !s.svc.trst then s
    else if mainOn s then shiftBypass tdi s
    else { s with svc := { s.svc with ir := irExtest, driven := s.svc.cells } })

/-- `TRST`: low, the test port is inactive (R610). -/
def execTrst (high : Bool) (s : State) : Out :=
  if high then .next { s with svc := { s.svc with trst := true } }
  else .next { s with svc := { s.svc with trst := false, ir := irIdcode, bypass := false, driven := [] } }

end Sys2Proof.Machine
end

