-- ==== Sys2Proof/Machine/Startup.lean ====
section
/-! DEFINITION. Start-up and the resets (18_startup_and_reset R587–R603, 16_security_engines R533–R542,
10_host_interface_and_queues R352, 17_debug_counters_errors R566): the phases of a cold start, reset requests, function-level and port resets, and
the fatal state. -/

namespace Sys2Proof.Machine

/-! ## Phases 1 to 3 (R533, R536, R539–R542, R587) -/

/-- P3V3_AUX within 3.3 V ± 5 % (R458). -/
def auxInRange (mv : Nat) : Bool := 3135 ≤ mv && mv ≤ 3465

/-- A feed carries V_in at 44.0 V or more (R459). -/
def feedsHold (s : State) : Bool := feedOk s.pwr.feedA || feedOk s.pwr.feedB

/-- Every sensor is at least 20 °C below its trip threshold (R478). -/
def cooled (s : State) : Bool :=
  ((List.range 3).all fun g => tget 0 s.pwr.hot g ≤ 380) && s.stackTab.all fun e => e.2.temp ≤ 360

/-- Why a cold start begins now (R484, R596, R601): P3V3_AUX power-up, a pending cold request, or the supplies' return at the
reset level; after a trip only a request does, once the sensors allow it (R478). -/
def coldCause (s : State) : Option Nat :=
  if !s.up.aux then some 0
  else if s.up.coldPending then (if !s.pwr.tripped || cooled s then some s.up.cause else none)
  else if s.up.resetLevel && !s.pwr.tripped && feedsHold s then some 1
  else none

/-- `COLD_START`: phase 1; the unit secret is reconstructed, or the module is identity-less (R533, R536, R587). The engine of
R560 is unlocked, and the start is counted (R501). -/
def execColdStart (mv : Nat) (extractorOk : Bool) (s : State) : Out :=
  if !auxInRange mv then .next s
  else match coldCause s with
    | none => .next s
    | some k => .next
        { s with
          up := { StartUp.reset with aux := true, secretDone := true, idLess := !extractorOk, cause := k },
          pwr := { s.pwr with auxMv := mv, tripped := false, stage := 0 },
          sec := { s.sec with secret := extractorOk, bnFails := [], bnLocked := false },
          cox := { s.cox with boot := s.cox.boot + 1 } }

/-- Whether a firmware slot passes: signature, and version at least counter 0 (R541). -/
def slotPasses (s : State) (b : Bool) : Bool :=
  Config.signatureOk (s.cox.slot b).bytes && (rpmbOf s 0).toNat ≤ slotVersion s b

/-- The slot that the boot ROM tries first (R541). -/
def firstSlot (s : State) : Bool := s.cox.trial.getD s.cox.committed

/-- After a loss of P3V3_AUX the sequence goes on from the last record found in flash, and a gap record names it (R503). -/
def gapRecord (s : State) : State :=
  match s.cox.log.getLast? with
  | some r =>
    if s.up.cause = 0 then logEvent 0x0502 0 0 [r.seq.toNat] { s with cox := { s.cox with seq := r.seq + 1 } } else s
  | none => s

/-- Cox starts from a slot (R541); a shedding record not yet written is written (R486), and identity-less state is logged
(R536). -/
def startCox (b failedFirst : Bool) (s : State) : State :=
  let s := { s with up := { s.up with coxUp := true },
                    cox := { s.cox with running := b, trial := if s.cox.trial = some b then some b else none } }
  let s := gapRecord s
  let s := if failedFirst then logEvent (Config.unlistedEvent 1).1 (Config.unlistedEvent 1).2 0 [numOf b] s else s
  let s := if s.up.idLess then logEvent 0x0601 4 0 [] s else s
  writeDip s

/-- `FIRMWARE_BOOT`: phase 2; the boot ROM tries the selected slot and then the other; when neither passes the module is in
recovery state (R541, R542). -/
def execFirmwareBoot (s : State) : Out :=
  if !s.up.secretDone || s.up.coxUp || s.up.fwRecovery then .next s
  else
    let b := firstSlot s
    if slotPasses s b then .next (startCox b false s)
    else if slotPasses s (!b) then .next (startCox (!b) true s)
    else .next { s with up := { s.up with fwRecovery := true } }

/-- The verdict on a stored record of a type (R519). -/
def storedVerdict (s : State) (ty : Nat) (r : List Byte) : Nat :=
  if recForm r && recType r = ty then recVerdict s r else stAuthFail

/-- The newer copy of a stored record that is accepted is in force; where none is, the record is treated as absent and
logged with what its newer copy failed, and both PFs are told (R498, R519, R532). -/
def takeRecord (s : State) (e : Nat × TwoCopy (List Byte)) : State :=
  match e.2.take (fun r => storedVerdict s e.1 r = stOk) with
  | some r => { s with cox := { s.cox with inForce := tset s.cox.inForce e.1 r } }
  | none =>
    if !e.2.written then s
    else
      let v := ((e.2.take fun _ => true).map (storedVerdict s e.1)).getD stAuthFail
      setCauseBoth 9 (logEvent 0x0505 4 0 [e.1, v] s)

/-- Numbers by which the log names the calibration and the memory-repair record. -/
def calRecord : Nat := 5
def repairRecord : Nat := 6

/-- Cox's own records authenticate under the identity-derived key, which identity-less state lacks (R520, R536). -/
def ownRecord {α : Type} (s : State) (c : TwoCopy α) : Option α := c.take fun _ => !s.up.idLess

/-- A record of Cox's that does not authenticate is logged, and both PFs are told (R520, R532). -/
def ownRejected {α : Type} (n : Nat) (c : TwoCopy α) (s : State) : State :=
  if (c.written || s.up.idLess) && (ownRecord s c).isNone then setCauseBoth 9 (logEvent 0x0505 4 0 [n, stAuthFail] s) else s

/-- What a controller loads of the memory-repair record; a stack out of service is wholly out (R396, R423, R425, R427). -/
def loadRepair (r : Option StackRepair) (x : Stack) : Stack :=
  match r with
  | none => { x with chmap := [], spareUsed := 0, rowMap := [], retired := [], acked := [], out := false }
  | some r =>
    { x with chmap := if r.out then (List.range 64).map fun l => (l, lostChan) else r.chmap, spareUsed := r.spareUsed,
             rowMap := r.rowMap, retired := r.retired, acked := r.retired, out := r.out }

/-- The calibration record's weights, or the factory's, and the repair tables, or empty ones (R520). -/
def loadRecords (s : State) : State :=
  let s := ownRejected repairRecord s.cox.repair (ownRejected calRecord s.cox.cal s)
  let rep := (ownRecord s s.cox.repair).getD []
  (List.range 8).foldl (fun s k =>
      if (tfind s.stackTab k).isSome || (tfind rep k).isSome then s.modStack k (loadRepair (tfind rep k)) else s)
    { s with cox := { s.cox with calWeights := (ownRecord s s.cox.cal).getD 64, frameQ := [] } }

/-- `RECORD_AUTHENTICATION`: phase 3; the records are authenticated, and counter 0 is reconciled with the committed slot's
version (R519, R520, R539). -/
def execRecordAuthentication (s : State) : Out :=
  if !s.up.coxUp || s.up.mainUp || s.up.recordsOk then .next s
  else
    let s := { s with cox := { s.cox with inForce := [] } }
    let s := loadRecords (s.cox.config.foldl takeRecord s)
    let s := raiseCounter 0 (slotVersion s s.cox.committed) s
    .next { s with up := { s.up with recordsOk := (tfind s.cox.inForce 1).isSome } }

/-! ## Phases 4 and 5 (R588–R597) -/

/-- What phase 4 waits for (R459, R588, R589). -/
def mayStart (s : State) : Bool :=
  s.up.coxUp && s.up.recordsOk && !s.up.mainUp && !s.up.resetLevel && !s.up.coldPending && feedsHold s &&
    (s.clk.refA || s.clk.refB)

/-- `MAIN_DOMAIN_START`: the PLLs lock, the Almanac starts at zero, PWR_GOOD is asserted; the test port gives the pins back
(R46, R586, R588). -/
def execMainDomainStart (s : State) : Out :=
  if !mayStart s then .next s
  else
    let svc := if s.svc.ir = irExtest then { s.svc with ir := irBypass, driven := [] } else s.svc
    let clk := { s.clk with pll := true, alm := 0, coreRef := some (if s.clk.refA then .A else .B) }
    .next { s with clk := clk, svc := svc, ctrSince := 0,
                   up := { s.up with mainUp := true, pwrGood := true, goodSince := s.clk.now } }

/-- A Shell as a start leaves it: every line zero, no region, window or handle, no cache (R217, R595). -/
def freshShell (x : Shell) : Shell := { Shell.reset 0 with phys := x.phys, vacant := x.vacant, maint := x.maint, pw := x.pw }

/-- Every Shell of the module changed. -/
def allShells (f : Shell → Shell) (s : State) : State := (List.range 64).foldl (fun s L => s.modShell L f) s

/-- Phases 4 and 5 are complete: `READY`, or `RECOVERY` when `hold` = 1, where the Shells stay in maintenance state
(R292, R597, R600). Every line is zero, no region or window is installed and no Shell has a cache (R217; log 153). -/
def settle (s : State) : State :=
  if !(s.up.memDone && s.up.shellDone && s.up.ready = .start) then s
  else if s.up.hold then allShells freshShell { s with up := { s.up with ready := .recovery } }
  else allShells (fun x => { freshShell x with maint := false }) { s with up := { s.up with ready := .ready } }

/-- A channel that failed its training takes its half's spare, without a copy; without a spare that trained, the stack is
out of service (R423, R590). -/
def failChannel (failed : List (Nat × Nat)) (s : State) (e : Nat × Nat) : State :=
  let (st, ch) := e
  let x := s.stack st
  match (List.range 64).find? fun l => physChan x l = ch with
  | none => s
  | some l =>
    let h := l / 32
    if x.spareUsed.getLsbD h || failed.contains (st, 64 + h) then loseChannel st l s
    else logEvent 0x0205 4 0 [st, l, 64 + h]
      ((s.modStack st fun x => { x with chmap := tset x.chmap l (64 + h), spareUsed := x.spareUsed ||| (1#2 <<< h) }).bump
        (stackCtr st 15))

/-- `MEMORY_TRAINING_DONE`: every stack in service is trained and zeroed; host accesses are served (R590, R591). -/
def execMemoryTrainingDone (failed : List (Fin 8 × Fin 66)) (s : State) : Out :=
  if !s.up.mainUp || s.up.memDone || 3 ≤ s.pwr.stage then .next s
  else
    let fs := failed.map fun e => (e.1.val, e.2.val)
    let s := fs.foldl (failChannel fs) s
    let s := { s with mem := [], stackTab := tmap (fun _ x => { x with lineErr := [], wcb := [], refresh := [], refBase := s.clk.now }) s.stackTab,
                      up := { s.up with memDone := true } }
    let s := [Port.A, Port.B].foldl (fun s p => s.modPort p fun x => { x with memActive := true }) s
    .next (settle (serveHeld .B (serveHeld .A s)))

/-- Bit 34·d + p of the signed Shell map's body (R518). -/
def mapLists (s : State) (k : Nat) : Bool := (leNat ((configBody s 0x02).getD [])).testBit k

/-- A physical Shell that the record lists, or that failed its test (R593). -/
def unusable (s : State) (k : Nat) : Bool := (s.physOf k).failedRec || (s.physOf k).failedTest

/-- A logical Shell takes its default physical Shell, a spare, or becomes vacant (R25, R26, R28, R593). -/
def mapShell (s : State) (L : Nat) : State :=
  let d := dieOf L
  let p := L % 32
  let s := s.modShell L fun x => { freshShell x with vacant := false, phys := p, maint := true }
  if !unusable s (34 * d + p) then s
  else
    let s := s.modPhys (34 * d + p) fun x => { x with used := false }
    match freeSpares s d with
    | q :: _ =>
      let s := s.modPhys (34 * d + q) fun x => { x with used := true }
      setCauseBoth 9 (logEvent 0x0207 4 0 [L, p, q] (s.modShell L fun x => { x with phys := q }))
    | [] => setCauseBoth 9 (logEvent 0x0207 4 0 [L, p, 34] (s.modShell L vacate))

/-- A task whose first fault was raised at an Almanac count (R567). -/
def sameCount (now : BitVec 64) (t : Task) : Bool :=
  t.tState = now && t.fault.any fun g => ofShell g.code.toNat

/-- The module is out of service until a cold reset: admission stops, every task that has not ended aborts with the event's
type, and the event is logged and both PFs are told (R566). A task that holds its first fault keeps it, unless a Shell met that at
this Almanac count (R567); one that is ending without a fault takes this one. -/
def goFatal (ty : Nat) (s : State) : State :=
  let s := { s with up := { s.up with ready := .fatal } }
  let f : Flt := { code := 0xFF, detail := ty }
  let s := abortWhere (fun _ t => t.st ≠ .done && t.st ≠ .ending) f s
  let s := { s with tasks := tmap (fun _ t =>
    if t.st = .ending && (t.fault.isNone || sameCount s.clk.alm t) then { t with fault := some (faultOf f) } else t) s.tasks }
  logEvent ty 6 0 [] ((setCauseBoth 9 s).bump (errCtr 26))

/-- `FATAL_ERROR` (R566). -/
def execFatalError (ty : BitVec 16) (s : State) : Out :=
  if !s.up.mainUp then .next s else .next (goFatal ty.toNat s)

/-- Results of phase 5 noted by physical Shell and unit; failed spares and units are logged (R592–R594). -/
def noteTests (x : SelfTest) (s : State) : State :=
  let s := (List.range 68).foldl (fun s k => if mapLists s k then s.modPhys k fun y => { y with failedRec := true } else s) s
  let s := (x.shells.map fun k => k.val).foldl (fun s (k : Nat) =>
    if (s.physOf k).failedRec then s
    else
      let s := s.modPhys k fun y => { y with failedTest := true }
      if k % 34 < 32 then s
      else logEvent 0x0208 4 0 [k] { s with cox := { s.cox with
        spareFailed := if s.cox.spareFailed.contains k then s.cox.spareFailed else s.cox.spareFailed ++ [k] } }) s
  (x.units.map fun u => u.val).foldl (fun s (u : Nat) =>
    setCauseBoth 9 (logEvent 0x0208 4 0 [68 + u]
      { s with up := { s.up with keyUnitOut := s.up.keyUnitOut ||| (1#16 <<< u) } })) s

/-- `SHELL_MAP_BUILD`: phase 5 ends; the map is built anew from the default of R25, also where phase 5 began again (R603), every Shell is zeroed and cleared, and a failure without live
replacement is fatal (R592–R597). -/
def execShellMapBuild (x : SelfTest) (s : State) : Out :=
  if !s.up.mainUp || s.up.shellDone || 3 ≤ s.pwr.stage then .next s
  else
    let s := (List.range 64).foldl mapShell (noteTests x { s with phys := [] })
    let s := { s with up := { s.up with shellDone := true } }
    .next (if x.fatal then goFatal 0x0701 s else settle s)

/-! ## Recovery and module resets (R600–R603) -/

/-- `RECOVERY_RELEASE`: in `RECOVERY` a PF writes `release`; ignored while a task has not ended (R596, R600). -/
def execRecoveryRelease (_ : Port) (f : Fin 32) (s : State) : Out :=
  if !isPF f || s.up.ready ≠ .recovery || s.tasks.any (fun e => e.2.st ≠ .done) then .next s
  else .next (allShells (fun x => { freshShell x with maint := false }) { s with up := { s.up with ready := .ready } })

/-- A cold reset is requested: the main domains go down, Cox stops, and the start begins again at phase 1 (R601–R603). -/
def requestCold (cause : Nat) (s : State) : State :=
  let s := mainDown s
  let stage := if s.up.resetLevel then 4 else 0
  { s with
    up := { StartUp.reset with aux := s.up.aux, coldPending := true, cause := cause, resetLevel := s.up.resetLevel },
    pwr := { s.pwr with stage := stage },
    sec := { s.sec with secret := false },
    cox := { s.cox with handover := false, verified := false } }

/-- `COLD_RESET_REQUEST`: a PF writes 0xC01D; it is accepted in every state (R601, R603). -/
def execColdResetRequest (_ : Port) (f : Fin 32) (s : State) : Out :=
  if !isPF f || !s.up.aux then .next s else .next (requestCold 2 s)

/-- A hand-over in progress completes (R603). -/
def finishHandover (s : State) : State :=
  match s.cox.longOps.find? fun o => o.act = .activate with
  | none => s
  | some o => endActivate o s

/-- `WARM_RESET_REQUEST`: a PF writes 0x3A2E; ignored in `START` and `FATAL`. Cox, its slot and `hold` are kept, and the start
begins again at phase 4 (R601–R603). -/
def execWarmResetRequest (_ : Port) (f : Fin 32) (s : State) : Out :=
  if !isPF f || s.up.ready = .start || s.up.ready = .fatal then .next s
  else
    let s := mainDown (finishHandover s)
    .next { s with up := { s.up with
      mainUp := false, ready := .start, memDone := false, shellDone := false, cause := 3, keyUnitOut := 0,
      pwrGood := false, goodSince := 0 } }

/-! ## Function and port resets (R352, R548, R549, R601, R612) -/

/-- A task ends without a completion entry (R352). -/
def dropTask (s : State) (tid : Nat) : State :=
  let s := abortWhere (fun i t => i = tid && t.st ≠ .ending) { code := 0x41, detail := 0 } s
  match tfind s.tasks tid with
  | none => s
  | some t =>
    let s := (setBits (t.shells &&& ~~~ t.reported).toNat 64).foldl (fun s L => endShell L tid t s) s
    (setTaskState tid .done (freeSync tid t s)).modTask tid fun t => { t with resv := false }

/-- A function is reset: its tasks end, its rings are disabled, its contexts destroyed, its blocks dropped and its staging
buffer zeroed (R352, R509, R549). -/
def resetFn (p : Port) (s : State) (f : Nat) : State :=
  let mine := (s.tasks.filter fun e => e.2.ref.port = p && e.2.ref.fn.val = f && e.2.st ≠ .done).map (·.1)
  let s := mine.foldl dropTask s
  let k := fnKey p f
  let s := (List.range 8).foldl (fun s r =>
    s.modRing (8 * k + r) fun x => { x with en := false, active := false, notified := false }) s
  let s := ((s.ctxs.filter fun e => seesCtx e.2 p f).map (·.1)).foldl (fun s c => destroyCtx c s) s
  let s := dropBlocks (fun i => i = k) s
  { s with sec := { s.sec with staging := s.sec.staging.filter fun e => e.1 / 2 ≠ k } }

/-- A function-level reset; that of a PF takes its VFs with it, releases its port's semaphores and erases the port's
key-store slots bound to no context (R352, R363, R548). -/
def resetFunction (p : Port) (f : Fin 32) (s : State) : State :=
  if !isPF f then resetFn p s f
  else
    let s := (List.range 32).foldl (resetFn p) s
    let s := (List.range 6).foldl (fun s k => if s.holds p k then forceSem k relFlr s else s) s
    eraseSlots (fun x => x.ctx = 0 && x.port = p) s

/-- `FUNCTION_LEVEL_RESET` (R352). -/
def execFunctionLevelReset (p : Port) (f : Fin 32) (s : State) : Out := .next (resetFunction p f s)

/-- A port conventional reset: its functions as under R352, and its link trains again (R601). -/
def resetPort (p : Port) (s : State) : State :=
  let s := resetFunction p 0 s
  let s := if (s.port p).linkUp then takeLinkDown p s else s
  s.modPort p fun x => { x with training := true, resetting := true }

/-- Microseconds of PERST# that reset a port, and on both ports at the reset level request a cold reset (R601, R612). -/
def perstMin : Nat := 100
def perstPair : Nat := 100000

/-- `PERST_ASSERT`: PERST# has been asserted on a port for so many microseconds (R601, R612). -/
def execPerstAssert (p : Port) (us : Nat) (s : State) : Out :=
  let x := s.port p
  let resets := perstMin ≤ us && !(x.perst && perstMin ≤ x.perstUs)
  let s := if resets then resetPort p s else s
  let s := s.modPort p fun x => { x with perst := true, perstUs := us, perstHold := false }
  let y := s.port (otherPort p)
  if s.up.aux && s.up.resetLevel && !s.up.coldPending && perstPair ≤ us && y.perst && perstPair ≤ y.perstUs then
    .next (requestCold 4 s)
  else .next s

/-- `PERST_DEASSERT`: one earlier than 100 ms after PWR_GOOD is held until then; WAKE# is released (R610, R612). -/
def execPerstDeassert (p : Port) (s : State) : Out :=
  let early := !s.up.pwrGood || s.since s.up.goodSince < perstEarliest
  .next (s.modPort p fun x => { x with perst := false, perstUs := 0, perstHold := early, wake := false })

/-- `HOT_RESET`: a hot reset or link disable from the port's partner (R601). -/
def execHotReset (p : Port) (s : State) : Out :=
  if (s.port p).linkUp then .next (resetPort p s) else .next s

end Sys2Proof.Machine
end

