-- ==== Sys2Proof/Machine/Vector.lean ====
section
/-! DEFINITION. The vector engine (08_vector_engine_and_clear_training R245–R263): the operand cache, the vector commands, reductions, weight
updates, seeds and the forerunner mode. -/

namespace Sys2Proof.Machine

/-! ## The operand cache (R247, R248) -/

/-- Bytes cut into n numbers of k bytes. -/
def chunkNums (k : Nat) : Nat → List Byte → List Nat
  | 0, _ => []
  | n + 1, bs => leNat (bs.take k) :: chunkNums k n (bs.drop k)

/-- n elements of w bits from a row on. -/
def cacheGet (v : Vec) (row w n : Nat) : List Nat := chunkNums (w / 8) n (mslice v.rows (1024 * row) (w / 8 * n))

/-- Elements of w bits written from a row on; the rest of the rows keeps its content (R246). -/
def cachePut (row w : Nat) (xs : List Nat) (v : Vec) : Vec :=
  { v with rows := mput v.rows (1024 * row) (xs.flatMap (leBytes (w / 8))) }

/-- A cache operand: row and type (R310). -/
structure CacheOp where
  row : Nat
  type : Nat
  deriving DecidableEq, Repr

/-- Cache operand k of `opa`: 0 destination, 1 a, 2 b, 3 c. -/
def cacheOp (w : Cmd) (k : Nat) : CacheOp :=
  { row := opaF w (16 * k + 7) (16 * k), type := opaF w (16 * k + 11) (16 * k + 8) }

/-- A type that a cache operand may name (R248), and in forerunner mode (R263). -/
def cacheType (fore : Bool) (t : Nat) : Bool :=
  if fore then t = tI16 || t = tE8M7 else t = tI32 || t = tI16 || t = tE9M6 || t = tE8M7 || t = tW32

/-- Rows that n elements take. -/
def rowsOf (t n : Nat) : Nat := ceilDiv n (8192 / typeBits t)

/-- Operand bits of a cache operand (R310). -/
def uCache (k : Nat) : Nat := uOpa (16 * k + 11) (16 * k)

/-- The types of the cache operands a command uses are valid (R310, R263). -/
def cacheTypes (fore : Bool) (w : Cmd) (ks : List Nat) : Act Unit :=
  ks.forM fun k => if cacheType fore (cacheOp w k).type then pure () else bad01 1 (9 + 2 * k)

/-- An operand of n elements lies within the 256 rows (R247, R568). -/
def cacheRange (w : Cmd) (k n : Nat) : Act Unit :=
  let o := cacheOp w k
  need (o.row + rowsOf o.type n ≤ 256) 0x02 (o.row + 256 * k)

/-- A destination of n elements against another operand of m elements (R249). -/
def cacheOverlap (w : Cmd) (k n j m : Nat) : Act Unit :=
  let d := cacheOp w k
  let s := cacheOp w j
  if d.row = s.row && typeBits d.type = typeBits s.type && n = m then pure ()
  else if d.row < s.row + rowsOf s.type m && s.row < d.row + rowsOf d.type n then
    throw { code := 0x03, detail := max d.row s.row }
  else pure ()

/-! ## Lanes and random draws (R245, R258, R259) -/

/-- Lanes of a command: 256 when any cache operand is 32 bits wide (R245). -/
def lanesOf (w : Cmd) (ks : List Nat) : Nat := if ks.any (fun k => typeBits (cacheOp w k).type = 32) then 256 else 512

/-- The next random word of the lane that element i runs on. -/
def drawWord (L lanes i : Nat) (v : Vec) : Rnd × Vec :=
  if v.fore then
    let n := i % 128
    let s := foreStep (tget (foreInit v.seed n) v.gens n)
    (.stoch 8 (s.toNat % 256), { v with gens := tset v.gens n s })
  else
    let n := i % lanes
    let k := tget 0 v.lanes n
    (.stoch 16 ((laneWord v.seed L n k.toNat).toNat / 2 ^ 48), { v with lanes := tset v.lanes n (k + 1) })

/-- A command's elements in order, each with its rounding; a command that draws takes one word for each (R258). -/
def mapElems {α : Type} (draw : Bool) (L lanes : Nat) (f : α → Rnd → Nat) : Nat → List α → Vec → List Nat × Vec
  | _, [], v => ([], v)
  | i, x :: r, v =>
    let (rnd, v) := if draw then drawWord L lanes i v else (.near, v)
    let (ys, v) := mapElems draw L lanes f (i + 1) r v
    (f x rnd :: ys, v)

/-! ## Encodings (R310) -/

def uRound : Nat := uCtl 17 16
def uCount : Nat := uImm 13 0

def encVec (op used : Nat) (fields : List Nat := []) (tensor : Bool := false) : Enc :=
  { op := op, used := used, fields := fields, tensor := tensor, parts := [18, 19, 21, 22, 48, 56, 80, 96, 112] }

/-- The element count of a command. -/
def vcount (w : Cmd) : Nat := immF w 13 0

/-- Stochastic rounding is asked for (R257). -/
def stochastic (w : Cmd) : Bool := cf w 17 16 = 1

/-- The checks that every counted vector command shares: the count, the rounding mode, the operand types (R246, R257,
R310). -/
def vecHead (fore : Bool) (w : Cmd) (ks : List Nat) : Act Unit := do
  if 8192 < vcount w then bad01 1 4
  if 1 < cf w 17 16 then bad01 1 2
  cacheTypes fore w ks

/-- The vector engine of a Shell changed, with its passes counted. -/
def vecDo (L lanes n : Nat) (f : Vec → Vec) : Act Unit :=
  upd fun s => (s.modShell L fun x => { x with vec := f x.vec }).bump (shellCtr L 76) (ceilDiv n lanes)

/-! ## Element-wise commands (R251–R253) -/

/-- The element-wise operations. -/
inductive VOp where
  | add
  | sub
  | mul
  | fma
  | max
  | min
  | neg
  | abs
  deriving DecidableEq, Repr

/-- Source operands of an operation by number (1 a, 2 b, 3 c). -/
def VOp.srcs : VOp → List Nat
  | .fma => [1, 2, 3]
  | .neg => [1]
  | .abs => [1]
  | _ => [1, 2]

/-- An operation that draws nothing in either mode (R258). -/
def VOp.exact : VOp → Bool
  | .max => true
  | .min => true
  | .neg => true
  | .abs => true
  | _ => false

/-- The exact result on values; `mid` rounds the product of `VFMA` where the mode has two roundings (R263). -/
def VOp.val (o : VOp) (mid : Val → Val) (a b c : Val) : Val :=
  match o with
  | .add => a.add b
  | .sub => a.add b.negate
  | .mul => a.mul b
  | .fma => (mid (a.mul b)).add c
  | .max => a.pick true b
  | .min => a.pick false b
  | .neg => a.negate
  | .abs => a.abs

/-- The result on integers, before it wraps (R252). -/
def VOp.int (o : VOp) (a b : Int) : Int :=
  match o with
  | .add => a + b
  | .sub => a - b
  | .mul => a * b
  | .fma => a * b
  | .max => if a < b then b else a
  | .min => if b < a then b else a
  | .neg => -a
  | .abs => a.natAbs

/-- One element: integer operands wrap, floating-point operands round once, or twice for the forerunner's `VFMA`. -/
def VOp.elem (o : VOp) (fore : Bool) (td : Nat) (ts xs : List Nat) (r : Rnd) : Nat :=
  if isFloat td then
    let g := fun (i : Nat) => valOf fore (ts.getD i td) (xs.getD i 0)
    let mid := fun (v : Val) => if fore then valOf fore td (bitsOf fore r td v) else v
    bitsOf fore r td (o.val mid (g 0) (g 1) (g 2))
  else
    let w := typeBits td
    unsigned w (o.int (signed w (xs.getD 0 0)) (signed w (xs.getD 1 0)))

/-- The operands fit the row of R253: one integer type throughout, or floating-point types only (R252). -/
def kindsFit (ts : List Nat) (ints : Bool) : Bool :=
  ts.all isFloat || (ints && ts.all (fun t => t = ts.headD 0 && !isFloat t))

/-- The i-th elements of several rows. -/
def zipRows : List (List Nat) → List (List Nat)
  | [] => []
  | [a] => a.map (fun x => [x])
  | a :: r => (a.zip (zipRows r)).map (fun z => z.1 :: z.2)

/-- The engine after an element-wise command: its n elements in order, written over the destination's rows. -/
def opRun (sh : Nat) (o : VOp) (w : Cmd) (v : Vec) : Vec :=
  let ks := 0 :: o.srcs
  let n := vcount w
  let td := (cacheOp w 0).type
  let ts := o.srcs.map fun k => (cacheOp w k).type
  let draw := stochastic w && isFloat td && !o.exact
  let src := zipRows (o.srcs.map fun k => cacheGet v (cacheOp w k).row (typeBits (cacheOp w k).type) n)
  let (ys, v) := mapElems draw sh (lanesOf w ks) (o.elem v.fore td ts) 0 src v
  cachePut (cacheOp w 0).row (typeBits td) ys v

/-- An element-wise command. -/
def vecOp (sh op : Nat) (o : VOp) (w : Cmd) : Native :=
  let ks := 0 :: o.srcs
  native (encVec op (uRound ||| uCount ||| ks.foldl (fun m k => m ||| uCache k) 0)) (vcount w = 0)
    fun _ _ w => plain do
      let fore := ((← get).shell sh).vec.fore
      let n := vcount w
      vecHead fore w ks
      let td := (cacheOp w 0).type
      let ts := o.srcs.map fun k => (cacheOp w k).type
      if !kindsFit (td :: ts) (o ≠ .fma) then bad01 1 9
      ks.forM fun k => cacheRange w k n
      o.srcs.forM fun k => cacheOverlap w 0 n k n
      vecDo sh (lanesOf w ks) n (opRun sh o w)

/-- `VADD` (R253). -/
def natVadd (sh : Fin 64) (w : Cmd) : Native := vecOp sh 0x62 .add w

/-- `VADD`. -/
def execVadd (sh : Fin 64) (w : Cmd) (s : State) : Out := .next (issue sh (natVadd sh w) w s)

/-- `VSUB` (R253). -/
def natVsub (sh : Fin 64) (w : Cmd) : Native := vecOp sh 0x63 .sub w

/-- `VSUB`. -/
def execVsub (sh : Fin 64) (w : Cmd) (s : State) : Out := .next (issue sh (natVsub sh w) w s)

/-- `VMUL` (R253). -/
def natVmul (sh : Fin 64) (w : Cmd) : Native := vecOp sh 0x64 .mul w

/-- `VMUL`. -/
def execVmul (sh : Fin 64) (w : Cmd) (s : State) : Out := .next (issue sh (natVmul sh w) w s)

/-- `VFMA` (R253). -/
def natVfma (sh : Fin 64) (w : Cmd) : Native := vecOp sh 0x65 .fma w

/-- `VFMA`. -/
def execVfma (sh : Fin 64) (w : Cmd) (s : State) : Out := .next (issue sh (natVfma sh w) w s)

/-- `VMAX` (R251, R253). -/
def natVmax (sh : Fin 64) (w : Cmd) : Native := vecOp sh 0x66 .max w

/-- `VMAX`. -/
def execVmax (sh : Fin 64) (w : Cmd) (s : State) : Out := .next (issue sh (natVmax sh w) w s)

/-- `VMIN` (R251, R253). -/
def natVmin (sh : Fin 64) (w : Cmd) : Native := vecOp sh 0x67 .min w

/-- `VMIN`. -/
def execVmin (sh : Fin 64) (w : Cmd) (s : State) : Out := .next (issue sh (natVmin sh w) w s)

/-- `VNEG` (R253). -/
def natVneg (sh : Fin 64) (w : Cmd) : Native := vecOp sh 0x68 .neg w

/-- `VNEG`. -/
def execVneg (sh : Fin 64) (w : Cmd) (s : State) : Out := .next (issue sh (natVneg sh w) w s)

/-- `VABS` (R253). -/
def natVabs (sh : Fin 64) (w : Cmd) : Native := vecOp sh 0x69 .abs w

/-- `VABS`. -/
def execVabs (sh : Fin 64) (w : Cmd) (s : State) : Out := .next (issue sh (natVabs sh w) w s)

/-- The engine after a conversion. -/
def cvtRun (sh : Nat) (w : Cmd) (v : Vec) : Vec :=
  let td := (cacheOp w 0).type
  let ta := (cacheOp w 1).type
  let src := cacheGet v (cacheOp w 1).row (typeBits ta) (vcount w)
  let (ys, v) := mapElems (stochastic w && !holdsAll ta td) sh (lanesOf w [0, 1])
    (fun x r => bitsOf v.fore r td (valOf v.fore ta x)) 0 src v
  cachePut (cacheOp w 0).row (typeBits td) ys v

/-- `VCVT`: a converted to the destination's type (R252, R253). -/
def natVcvt (sh : Fin 64) (w : Cmd) : Native :=
  native (encVec 0x6A (uRound ||| uCount ||| uCache 0 ||| uCache 1)) (vcount w = 0)
    fun _ _ w => plain do
      let fore := ((← get).shell sh).vec.fore
      let n := vcount w
      vecHead fore w [0, 1]
      cacheRange w 0 n
      cacheRange w 1 n
      cacheOverlap w 0 n 1 n
      vecDo sh (lanesOf w [0, 1]) n (cvtRun sh w)

/-- `VCVT`. -/
def execVcvt (sh : Fin 64) (w : Cmd) (s : State) : Out := .next (issue sh (natVcvt sh w) w s)

/-! ## `VLOAD` and `VSTORE` (R254, R255) -/

/-- The cache type whose values a tensor element has (R254), by element type. -/
def loadType : Nat → Nat
  | 1 => tI32
  | 3 => tE9M6
  | 4 => tE8M7
  | _ => tI16

/-- The bits of an element as a value of that type: `I8` and `I4` sign-extended, `U8` zero-extended. -/
def loadBits (etype x : Nat) : Nat :=
  if etype = 5 || etype = 7 then unsigned 16 (signed (elemWidth etype) x) else x

/-- Element types that the forerunner mode takes (R263). -/
def foreTensor (etype : Nat) : Bool := etype = 2 || etype = 4 || etype = 5

/-- The tensor operand of `VLOAD` or `VSTORE`: its counts and its type (R253, R254). -/
def vecTensor (d : TDesc) (n : Nat) (fore : Bool) : Act Unit := do
  if d.etype = 0 || (fore && !foreTensor d.etype) then bad01 1 16
  if 8192 < elemCount d || elemCount d < n then bad01 1 16

/-- The first n coordinates of a tensor. -/
def firstElems (d : TDesc) (es : List (Nat × Nat × Nat × Nat)) (n : Nat) : List (Nat × Nat × Nat × Nat) :=
  (coords d es).take n

/-- The forerunner counts an `E8M7` subnormal as a zero of its sign, where its bits pass unchanged too (R263). -/
def flushed (fore : Bool) (t x : Nat) : Nat := if fore && t = tE8M7 && x / 2 ^ 7 % 2 ^ 8 = 0 then x / 2 ^ 15 * 2 ^ 15 else x

/-- An element of type `etype` with its block scale as a cache element of type `tc` (R254). -/
def loadElem (fore deq : Bool) (etype tc : Nat) (xexp : Int) (z : Nat × Nat) (r : Rnd) : Nat :=
  let tv := loadType etype
  if deq then
    let x := signed (elemWidth etype) z.1
    bitsOf fore r tc (.fin (x < 0) x.natAbs ((z.2 : Int) - 127 + xexp))
  else if tv = tc then flushed fore tc (loadBits etype z.1)
  else bitsOf fore r tc (valOf fore tv (loadBits etype z.1))

/-- The engine after the elements `xs` of a tensor, with their scales, have been loaded. -/
def loadRun (sh : Nat) (w : Cmd) (etype : Nat) (xs us : List Nat) (v : Vec) : Vec :=
  let tc := (cacheOp w 0).type
  let deq : Bool := cf w 18 18 = 1
  let (ys, v) := mapElems (stochastic w && (deq || !holdsAll (loadType etype) tc)) sh (lanesOf w [0])
    (loadElem v.fore deq etype tc (signed 8 (immF w 23 16))) 0 (xs.zip us) v
  cachePut (cacheOp w 0).row (typeBits tc) ys v

/-- `VLOAD` (R254). -/
def natVload (sh : Fin 64) (w : Cmd) : Native :=
  let used := uRound ||| uCtl 18 18 ||| uCount ||| uImm 23 16 ||| uCache 0 ||| tensorBits w.form.toNat <<< 128
  native (encVec 0x60 used [2] true) (vcount w = 0)
      (quiet := fun tid t w s => lineQuiet sh tid t.ctx w.form.toNat w.opb.toNat s) fun tid t w => plain do
    let L := sh.val
    let fore := ((← get).shell L).vec.fore
    let n := vcount w
    vecHead fore w [0]
    let tc := (cacheOp w 0).type
    let deq := cf w 18 18 = 1
    let o ← takeOperand L tid t.ctx w.form.toNat w.opb.toNat n 16 false
    checkOperand L tid t.ctx o false false (if deq then [2] else [0, 1])
    vecTensor o.d n fore
    if deq && !isFloat tc then bad01 1 2
    cacheRange w 0 n
    let es ← readList L o.d false
    let cs := firstElems o.d es n
    let ps := cs.map fun i => (bitAt o.d (offsetAt o.d i)).toNat
    let xs ← readFields L t.ctx o.d.space o.d.shell 0 (elemWidth o.d.etype) ps
    let us ← if deq then readFields L t.ctx o.d.space o.d.shell 0 8 (cs.map (scaleBit o.d)) else pure (xs.map fun _ => 0)
    vecDo L (lanesOf w [0]) n (loadRun L w o.d.etype xs us)

/-- `VLOAD`. -/
def execVload (sh : Fin 64) (w : Cmd) (s : State) : Out := .next (issue sh (natVload sh w) w s)

/-- A cache element converted to a tensor's element type; the narrow integers saturate (R252, R253). -/
def storeBits (fore : Bool) (etype tc : Nat) (r : Rnd) (x : Nat) : Nat :=
  let sat := fun (lo hi : Int) => unsigned (elemWidth etype) (toInt r lo hi (valOf fore tc x))
  match etype with
  | 5 => sat (-128) 127
  | 6 => sat 0 255
  | 7 => sat (-8) 7
  | _ => if etype = tc then flushed fore tc x else bitsOf fore r etype (valOf fore tc x)

/-- The elements that a store writes, and the engine after its draws. -/
def storeRun (sh : Nat) (w : Cmd) (etype : Nat) (v : Vec) : List Nat × Vec :=
  let tc := (cacheOp w 1).type
  mapElems (stochastic w && !holdsAll tc (loadType etype)) sh (lanesOf w [1])
    (fun x r => storeBits v.fore etype tc r x) 0 (cacheGet v (cacheOp w 1).row (typeBits tc) (vcount w)) v

/-- `VSTORE` (R253, R232). -/
def natVstore (sh : Fin 64) (w : Cmd) : Native :=
  let used := uRound ||| uCount ||| uCache 1 ||| tensorBits w.form.toNat <<< 128
  native (encVec 0x61 used [2] true) (vcount w = 0)
      (quiet := fun tid t w s => lineQuiet sh tid t.ctx w.form.toNat w.opb.toNat s) fun tid t w => plain do
    let L := sh.val
    let fore := ((← get).shell L).vec.fore
    let n := vcount w
    vecHead fore w [1]
    let o ← takeOperand L tid t.ctx w.form.toNat w.opb.toNat n 16 true
    checkOperand L tid t.ctx o true false [0]
    vecTensor o.d n fore
    cacheRange w 1 n
    let es ← readList L o.d true
    let (ys, v) := storeRun L w o.d.etype ((← get).shell L).vec
    let cs := firstElems o.d es n
    writeFields L t.ctx o.d.space o.d.shell (elemWidth o.d.etype)
      ((cs.zip ys).map fun z => ((bitAt o.d (offsetAt o.d z.1)).toNat, z.2))
    vecDo L (lanesOf w [1]) n fun _ => v

/-- `VSTORE`. -/
def execVstore (sh : Fin 64) (w : Cmd) (s : State) : Out := .next (issue sh (natVstore sh w) w s)

/-! ## Reductions (R256) -/

/-- A value rounded to `W32` to nearest. -/
def toW32 (v : Val) : Val := valOf false tW32 (bitsOf false .near tW32 v)

/-- Two neighbours of a tree level; a lane left out is `none`. -/
def pairUp (f : Val → Val → Val) : List (Option Val) → List (Option Val)
  | a :: b :: r =>
    (match a, b with
     | some x, some y => some (f x y)
     | some x, none => some x
     | none, y => y) :: pairUp f r
  | l => l

/-- The root of a tree of 2^n lanes. -/
def treeRoot (f : Val → Val → Val) : Nat → List (Option Val) → Option Val
  | 0, l => l.head?.bind id
  | n + 1, l => treeRoot f n (pairUp f l)

/-- The passes of a command, each padded to its lanes. -/
def passes (lanes : Nat) (pad : Option Val) (vs : List Val) : List (List (Option Val)) :=
  (List.range (ceilDiv vs.length lanes)).map fun p =>
    let l := ((vs.drop (lanes * p)).take lanes).map some
    l ++ List.replicate (lanes - l.length) pad

/-- The adder tree over all passes (R256): 0 sum, 1 max, 2 min. -/
def treeReduce (red lanes : Nat) (vs : List Val) : Val :=
  let f := fun x y => if red = 0 then toW32 (Val.add x y) else Val.pick (red = 1) x y
  let pad := if red = 0 then some (.fin false 0 0) else none
  let roots := (passes lanes pad vs).filterMap (treeRoot f (Nat.log2 lanes))
  match roots with
  | [] => .fin false 0 0
  | r :: rest => rest.foldl f r

/-- Integer reductions: exact, and taken modulo 2^w (R256). -/
def intReduce (red w : Nat) (xs : List Int) : Nat :=
  match xs with
  | [] => 0
  | x :: r =>
    unsigned w (if red = 0 then r.foldl (· + ·) x
      else r.foldl (fun a b => if red = 1 then (if a < b then b else a) else (if b < a then b else a)) x)

/-- The forerunner's sum: in ascending order, rounded to the destination type at each step (R263); `first` says that the
first element itself is rounded. -/
def foreSum (draw first : Bool) (L : Nat) (td : Nat) (vs : List Val) (v : Vec) : Nat × Vec :=
  match vs with
  | [] => (0, v)
  | x :: rest =>
    let step := fun (z : Nat × Nat × Vec) (y : Val) =>
      let (r, v) := if draw then drawWord L 512 z.1 z.2.2 else (.near, z.2.2)
      (z.1 + 1, bitsOf true r td ((valOf true td z.2.1).add y), v)
    let (r, v) := if draw && first then drawWord L 512 0 v else (.near, v)
    let z := rest.foldl step (1, bitsOf true r td x, v)
    (z.2.1, z.2.2)

/-- The result of a floating-point reduction and the engine after its draws (R256, R258, R263). -/
def floatReduce (L red lanes td : Nat) (stoch product fore : Bool) (vs : List Val) (v : Vec) : Nat × Vec :=
  if fore && red = 0 then foreSum stoch product L td vs v
  else
    let acc := treeReduce red lanes vs
    let draw := stoch && td ≠ tW32 && !fore
    let (r, v) := if draw then drawWord L lanes 0 v else (.near, v)
    (bitsOf fore r td acc, v)

/-- The engine after a reduction of the operands `ks`, one for a sum, maximum or minimum, two for a product. -/
def reduceRun (L red : Nat) (w : Cmd) (ks : List Nat) (v : Vec) : Vec :=
  let td := (cacheOp w 0).type
  let ts := ks.map fun k => (cacheOp w k).type
  let product : Bool := ks.length = 2
  let src := zipRows (ks.map fun k => cacheGet v (cacheOp w k).row (typeBits (cacheOp w k).type) (vcount w))
  let g := fun (xs : List Nat) (i : Nat) => valOf v.fore (ts.getD i td) (xs.getD i 0)
  let (y, v) :=
    if isFloat td then
      let vs := src.map fun xs => if product then toW32 ((g xs 0).mul (g xs 1)) else g xs 0
      floatReduce L red (lanesOf w (0 :: ks)) td (stochastic w) product v.fore vs v
    else
      let tw := typeBits td
      let sx := fun (xs : List Nat) (i : Nat) => signed tw (xs.getD i 0)
      (intReduce red tw (src.map fun xs => if product then sx xs 0 * sx xs 1 else sx xs 0), v)
  cachePut (cacheOp w 0).row (typeBits td) [y] v

/-- A reduction on a Shell (R256). -/
def reduce (L red : Nat) (w : Cmd) (ks : List Nat) : Act Unit := do
  let fore := ((← get).shell L).vec.fore
  let n := vcount w
  vecHead fore w (0 :: ks)
  let td := (cacheOp w 0).type
  let ts := ks.map fun k => (cacheOp w k).type
  if !kindsFit (td :: ts) true then bad01 1 9
  cacheRange w 0 1
  ks.forM fun k => cacheRange w k n
  ks.forM fun k => cacheOverlap w 0 1 k n
  vecDo L (lanesOf w (0 :: ks)) n (reduceRun L red w ks)

/-- `VRED` (R256). -/
def natVred (sh : Fin 64) (w : Cmd) : Native :=
  native (encVec 0x6B (uRound ||| uCtl 20 19 ||| uCount ||| uCache 0 ||| uCache 1)) (vcount w = 0)
    fun _ _ w => plain do
      if cf w 20 19 = 3 then bad01 1 2
      reduce sh (cf w 20 19) w [1]

/-- `VRED`. -/
def execVred (sh : Fin 64) (w : Cmd) (s : State) : Out := .next (issue sh (natVred sh w) w s)

/-- `VDOT` (R256). -/
def natVdot (sh : Fin 64) (w : Cmd) : Native :=
  native (encVec 0x6C (uRound ||| uCount ||| uCache 0 ||| uCache 1 ||| uCache 2)) (vcount w = 0)
    fun _ _ w => plain (reduce sh 0 w [1, 2])

/-- `VDOT`. -/
def execVdot (sh : Fin 64) (w : Cmd) (s : State) : Out := .next (issue sh (natVdot sh w) w s)

/-! ## Weight updates (R260, R261) -/

/-- One weight and its remainder updated: the new weight, and the new remainder as a byte (R261). A remainder of zero
leaves the sign of a zero sum to w and δ (R251). -/
def updElem (fore : Bool) (tw td w d rho : Nat) (rem : Bool) (r : Rnd) : Nat × Nat :=
  match fmtOf tw with
  | none => (w, rho)
  | some f =>
    let x := decodeVal f fore w
    let s := if rem then signed 8 (rho % 256) else 0
    let y := match x with
      | .fin _ _ _ =>
        let y := x.add (valOf fore td d)
        if s = 0 then y else y.add (.fin (s < 0) s.natAbs (ulpExp f w - 8))
      | _ => x
    let w' := encodeVal f fore .near y
    match decodeVal f fore w', y with
    | .fin a m e, .fin b n g =>
      let d := (Val.fin b n g).add (.fin (!a) m e)
      let k := match d with
        | .fin c k h => let u : Int := roundUnits r k (h + 8 - ulpExp f w') 0; if c then -u else u
        | _ => 0
      (w', unsigned 8 (min 127 k))
    | _, _ => (w', 0)

/-- The new weight in bits [15:0] and the new remainder above. -/
def updOne (fore : Bool) (tw td : Nat) (rem : Bool) (z : List Nat) (r : Rnd) : Nat :=
  let p := updElem fore tw td (z.getD 0 0) (z.getD 1 0) (z.getD 2 0) rem r
  p.1 + 2 ^ 16 * p.2

/-- Operands of a weight update: weights, updates and, unless `ctl` says otherwise, remainders (R261). -/
def updOps (w : Cmd) : List Nat := if cf w 21 21 = 0 then [1, 2, 3] else [1, 2]

/-- The engine after a weight update. -/
def updRun (sh : Nat) (w : Cmd) (v : Vec) : Vec :=
  let rem : Bool := cf w 21 21 = 0
  let src := zipRows ((updOps w).map fun k =>
    cacheGet v (cacheOp w k).row (typeBits (cacheOp w k).type) (vcount w))
  let (ys, v) := mapElems (stochastic w) sh (lanesOf w (updOps w))
    (updOne v.fore (cacheOp w 1).type (cacheOp w 2).type rem) 0 src v
  let v := cachePut (cacheOp w 1).row 16 (ys.map (· % 2 ^ 16)) v
  if rem then cachePut (cacheOp w 3).row 16 (ys.map (· / 2 ^ 16)) v else v

/-- `VUPD`: weights a updated by b with remainders c (R260, R261); the weight is always rounded to nearest, and one word
is drawn for each element under stochastic rounding (R258). -/
def natVupd (sh : Fin 64) (w : Cmd) : Native :=
  let rem : Bool := cf w 21 21 = 0
  let ks := updOps w
  let used := uRound ||| uCtl 21 21 ||| uCount ||| ks.foldl (fun m k => m ||| uCache k) 0
  native (encVec 0x6D used) (vcount w = 0) fun _ _ w => plain do
    let fore := ((← get).shell sh).vec.fore
    let n := vcount w
    vecHead fore w ks
    let tw := (cacheOp w 1).type
    let td := (cacheOp w 2).type
    if tw ≠ tE9M6 && tw ≠ tE8M7 then bad01 1 11
    if !isFloat td then bad01 1 13
    if rem && ((cacheOp w 3).type ≠ tI16 || fore) then bad01 1 15
    ks.forM fun k => cacheRange w k n
    cacheOverlap w 1 n 2 n
    if rem then
      let d := cacheOp w 1
      let c := cacheOp w 3
      if d.row < c.row + rowsOf tI16 n && c.row < d.row + rowsOf tw n then
        throw { code := 0x03, detail := max d.row c.row }
      cacheOverlap w 3 n 2 n
    vecDo sh (lanesOf w ks) n (updRun sh w)

/-- `VUPD`. -/
def execVupd (sh : Fin 64) (w : Cmd) (s : State) : Out := .next (issue sh (natVupd sh w) w s)

/-! ## `VSEED` and `VMODE` (R259, R263) -/

/-- `VSEED`: a new seed; every counter and generator starts again (R259, R263). -/
def natVseed (sh : Fin 64) (_ : Cmd) : Native :=
  native (encVec 0x6E (uOpc 63 0)) false fun _ _ w => plain do
    upd fun s => s.modShell sh fun x => { x with vec := { x.vec with seed := w.opc, lanes := [], gens := [] } }

/-- `VSEED`. -/
def execVseed (sh : Fin 64) (w : Cmd) (s : State) : Out := .next (issue sh (natVseed sh w) w s)

/-- `VMODE` (R263). -/
def natVmode (sh : Fin 64) (_ : Cmd) : Native :=
  native (encVec 0x6F (uImm 7 0)) false fun _ _ w => plain do
    if 1 < immF w 7 0 then bad01 1 4
    upd fun s => s.modShell sh fun x => { x with vec := { x.vec with fore := immF w 7 0 = 1 } }

/-- `VMODE`. -/
def execVmode (sh : Fin 64) (w : Cmd) (s : State) : Out := .next (issue sh (natVmode sh w) w s)

end Sys2Proof.Machine
end

