-- ==== Sys2Proof/Machine/Dispatch.lean ====
section
/-! DEFINITION. The effect of a command on everything but the queue: one arm per constructor, each a call of that
command's own meaning. -/

namespace Sys2Proof.Machine

/-- The effect of a command. -/
def exec (i : Instr) (s : State) : Host.Outcome State Fault Refusal :=
  match i with
  | .nop sh w => Sys2Proof.Machine.execNop sh w s
  | .endStream sh w => Sys2Proof.Machine.execEndStream sh w s
  | .loop sh w => Sys2Proof.Machine.execLoop sh w s
  | .lend sh w => Sys2Proof.Machine.execLend sh w s
  | .lset sh w => Sys2Proof.Machine.execLset sh w s
  | .hint sh w => Sys2Proof.Machine.execHint sh w s
  | .ptest sh w => Sys2Proof.Machine.execPtest sh w s
  | .skip sh w => Sys2Proof.Machine.execSkip sh w s
  | .muladd sh w => Sys2Proof.Machine.execMuladd sh w s
  | .mul sh w => Sys2Proof.Machine.execMul sh w s
  | .add sh w => Sys2Proof.Machine.execAdd sh w s
  | .sub sh w => Sys2Proof.Machine.execSub sh w s
  | .neg sh w => Sys2Proof.Machine.execNeg sh w s
  | .mov sh w => Sys2Proof.Machine.execMov sh w s
  | .ntt sh w => Sys2Proof.Machine.execNtt sh w s
  | .intt sh w => Sys2Proof.Machine.execIntt sh w s
  | .auto sh w => Sys2Proof.Machine.execAuto sh w s
  | .bconv sh w => Sys2Proof.Machine.execBconv sh w s
  | .chainSet sh w => Sys2Proof.Machine.execChainSet sh w s
  | .chainDrop sh w => Sys2Proof.Machine.execChainDrop sh w s
  | .keyInstall sh w => Sys2Proof.Machine.execKeyInstall sh w s
  | .keyDrop sh w => Sys2Proof.Machine.execKeyDrop sh w s
  | .keyOpen sh w => Sys2Proof.Machine.execKeyOpen sh w s
  | .keyPin sh w => Sys2Proof.Machine.execKeyPin sh w s
  | .kip sh w => Sys2Proof.Machine.execKip sh w s
  | .keyClose sh w => Sys2Proof.Machine.execKeyClose sh w s
  | .hadd sh w => Sys2Proof.Machine.execHadd sh w s
  | .hsub sh w => Sys2Proof.Machine.execHsub sh w s
  | .hneg sh w => Sys2Proof.Machine.execHneg sh w s
  | .hmulc sh w => Sys2Proof.Machine.execHmulc sh w s
  | .hmulp sh w => Sys2Proof.Machine.execHmulp sh w s
  | .hmul sh w => Sys2Proof.Machine.execHmul sh w s
  | .relin sh w => Sys2Proof.Machine.execRelin sh w s
  | .rotate sh w => Sys2Proof.Machine.execRotate sh w s
  | .kswitch sh w => Sys2Proof.Machine.execKswitch sh w s
  | .rescale sh w => Sys2Proof.Machine.execRescale sh w s
  | .lvldrop sh w => Sys2Proof.Machine.execLvldrop sh w s
  | .boot sh w => Sys2Proof.Machine.execBoot sh w s
  | .sadd sh w => Sys2Proof.Machine.execSadd sh w s
  | .ssub sh w => Sys2Proof.Machine.execSsub sh w s
  | .sneg sh w => Sys2Proof.Machine.execSneg sh w s
  | .smulc sh w => Sys2Proof.Machine.execSmulc sh w s
  | .smulp sh w => Sys2Proof.Machine.execSmulp sh w s
  | .smul sh w => Sys2Proof.Machine.execSmul sh w s
  | .sbeaver sh w => Sys2Proof.Machine.execSbeaver sh w s
  | .vload sh w => Sys2Proof.Machine.execVload sh w s
  | .vstore sh w => Sys2Proof.Machine.execVstore sh w s
  | .vadd sh w => Sys2Proof.Machine.execVadd sh w s
  | .vsub sh w => Sys2Proof.Machine.execVsub sh w s
  | .vmul sh w => Sys2Proof.Machine.execVmul sh w s
  | .vfma sh w => Sys2Proof.Machine.execVfma sh w s
  | .vmax sh w => Sys2Proof.Machine.execVmax sh w s
  | .vmin sh w => Sys2Proof.Machine.execVmin sh w s
  | .vneg sh w => Sys2Proof.Machine.execVneg sh w s
  | .vabs sh w => Sys2Proof.Machine.execVabs sh w s
  | .vcvt sh w => Sys2Proof.Machine.execVcvt sh w s
  | .vred sh w => Sys2Proof.Machine.execVred sh w s
  | .vdot sh w => Sys2Proof.Machine.execVdot sh w s
  | .vupd sh w => Sys2Proof.Machine.execVupd sh w s
  | .vseed sh w => Sys2Proof.Machine.execVseed sh w s
  | .vmode sh w => Sys2Proof.Machine.execVmode sh w s
  | .encode sh w => Sys2Proof.Machine.execEncode sh w s
  | .tcopy sh w => Sys2Proof.Machine.execTcopy sh w s
  | .tperm sh w => Sys2Proof.Machine.execTperm sh w s
  | .tdescCreate sh w => Sys2Proof.Machine.execTdescCreate sh w s
  | .tdescFree sh w => Sys2Proof.Machine.execTdescFree sh w s
  | .scacheInv sh w => Sys2Proof.Machine.execScacheInv sh w s
  | .winOpen sh w => Sys2Proof.Machine.execWinOpen sh w s
  | .winClose sh w => Sys2Proof.Machine.execWinClose sh w s
  | .catch sh w => Sys2Proof.Machine.execCatch sh w s
  | .scnt sh w => Sys2Proof.Machine.execScnt sh w s
  | .swait sh w => Sys2Proof.Machine.execSwait sh w s
  | .vigil sh w => Sys2Proof.Machine.execVigil sh w s
  | .vigilDrop sh w => Sys2Proof.Machine.execVigilDrop sh w s
  | .strokeCoreStart sh => Sys2Proof.Machine.execStrokeCoreStart sh s
  | .streamFetchBlock sh blk => Sys2Proof.Machine.execStreamFetchBlock sh blk s
  | .asyncCopySignal sh outbound n => Sys2Proof.Machine.execAsyncCopySignal sh outbound n s
  | .releaseTakesEffect sh => Sys2Proof.Machine.execReleaseTakesEffect sh s
  | .syncCounterUpdate ctx cnt => Sys2Proof.Machine.execSyncCounterUpdate ctx cnt s
  | .vigilFire die v => Sys2Proof.Machine.execVigilFire die v s
  | .stallReport t => Sys2Proof.Machine.execStallReport t s
  | .keyStreamDeliveryStart sh num => Sys2Proof.Machine.execKeyStreamDeliveryStart sh num s
  | .keyPairDelivery sh num => Sys2Proof.Machine.execKeyPairDelivery sh num s
  | .expanderSegment sh num d j t => Sys2Proof.Machine.execExpanderSegment sh num d j t s
  | .keyImageWhole sh num => Sys2Proof.Machine.execKeyImageWhole sh num s
  | .bootGroupStart sh => Sys2Proof.Machine.execBootGroupStart sh s
  | .streamEnd sh => Sys2Proof.Machine.execStreamEnd sh s
  | .shellEndOfTask sh => Sys2Proof.Machine.execShellEndOfTask sh s
  | .preemptRequest t => Sys2Proof.Machine.execPreemptRequest t s
  | .taskYield t => Sys2Proof.Machine.execTaskYield t s
  | .taskResume t => Sys2Proof.Machine.execTaskResume t s
  | .doorbellSnoop p f r => Sys2Proof.Machine.execDoorbellSnoop p f r s
  | .doorbellPoll p => Sys2Proof.Machine.execDoorbellPoll p s
  | .doorbellLineRead p f r => Sys2Proof.Machine.execDoorbellLineRead p f r s
  | .descriptorFetch p f r => Sys2Proof.Machine.execDescriptorFetch p f r s
  | .taskAdmit => Sys2Proof.Machine.execTaskAdmit s
  | .nopTaskComplete t => Sys2Proof.Machine.execNopTaskComplete t s
  | .loadTask t => Sys2Proof.Machine.execLoadTask t s
  | .completionEntryWrite t => Sys2Proof.Machine.execCompletionEntryWrite t s
  | .coalesceTimer p f r => Sys2Proof.Machine.execCoalesceTimer p f r s
  | .linkDown p => Sys2Proof.Machine.execLinkDown p s
  | .linkTraining p o => Sys2Proof.Machine.execLinkTraining p o s
  | .functionLevelReset p f => Sys2Proof.Machine.execFunctionLevelReset p f s
  | .atsInvalidation p page => Sys2Proof.Machine.execAtsInvalidation p page s
  | .hostMemoryAccess p a => Sys2Proof.Machine.execHostMemoryAccess p a s
  | .perstAssert p us => Sys2Proof.Machine.execPerstAssert p us s
  | .perstDeassert p => Sys2Proof.Machine.execPerstDeassert p s
  | .ringEnable p f r => Sys2Proof.Machine.execRingEnable p f r s
  | .ringDisable p f r => Sys2Proof.Machine.execRingDisable p f r s
  | .ctxCreate p f id => Sys2Proof.Machine.execCtxCreate p f id s
  | .ctxDestroy p f id => Sys2Proof.Machine.execCtxDestroy p f id s
  | .ctxTlbInvalidate p f id => Sys2Proof.Machine.execCtxTlbInvalidate p f id s
  | .taskAbortControl p f r index => Sys2Proof.Machine.execTaskAbortControl p f r index s
  | .quotaWrite p f n v => Sys2Proof.Machine.execQuotaWrite p f n v s
  | .semaphoreClaim p f k both => Sys2Proof.Machine.execSemaphoreClaim p f k both s
  | .semaphoreRelease p f k => Sys2Proof.Machine.execSemaphoreRelease p f k s
  | .semaphoreLinkTimeout k => Sys2Proof.Machine.execSemaphoreLinkTimeout k s
  | .fixedModeRequest p f => Sys2Proof.Machine.execFixedModeRequest p f s
  | .freeModeRequest p f => Sys2Proof.Machine.execFreeModeRequest p f s
  | .modeChange => Sys2Proof.Machine.execModeChange s
  | .coldResetRequest p f => Sys2Proof.Machine.execColdResetRequest p f s
  | .warmResetRequest p f => Sys2Proof.Machine.execWarmResetRequest p f s
  | .recoveryRelease p f => Sys2Proof.Machine.execRecoveryRelease p f s
  | .counterDump p f both => Sys2Proof.Machine.execCounterDump p f both s
  | .almanacSet p f v => Sys2Proof.Machine.execAlmanacSet p f v s
  | .launchGateArm p f g => Sys2Proof.Machine.execLaunchGateArm p f g s
  | .launchGateFire p g => Sys2Proof.Machine.execLaunchGateFire p g s
  | .frameRetirementAck p f frame => Sys2Proof.Machine.execFrameRetirementAck p f frame s
  | .regionEntryWrite p f sh e v => Sys2Proof.Machine.execRegionEntryWrite p f sh e v s
  | .cacheSizeWrite p f sh v => Sys2Proof.Machine.execCacheSizeWrite p f sh v s
  | .cacheSizeApply sh => Sys2Proof.Machine.execCacheSizeApply sh s
  | .memoryWindowEnable p f w => Sys2Proof.Machine.execMemoryWindowEnable p f w s
  | .memoryWindowDisable p f w => Sys2Proof.Machine.execMemoryWindowDisable p f w s
  | .memoryWindowCloseDone ctx w => Sys2Proof.Machine.execMemoryWindowCloseDone ctx w s
  | .peerTableWrite p f e v => Sys2Proof.Machine.execPeerTableWrite p f e v s
  | .mailboxGo c => Sys2Proof.Machine.execMailboxGo c s
  | .mailboxAbort c => Sys2Proof.Machine.execMailboxAbort c s
  | .inboundWordWrite c v => Sys2Proof.Machine.execInboundWordWrite c v s
  | .outboundWordRelease c => Sys2Proof.Machine.execOutboundWordRelease c s
  | .longOperationEnd c => Sys2Proof.Machine.execLongOperationEnd c s
  | .debugSetCounter p f => Sys2Proof.Machine.execDebugSetCounter p f s
  | .debugForceArrival p f => Sys2Proof.Machine.execDebugForceArrival p f s
  | .debugForceGeneration p f => Sys2Proof.Machine.execDebugForceGeneration p f s
  | .debugFireVigil p f => Sys2Proof.Machine.execDebugFireVigil p f s
  | .debugDropVigil p f => Sys2Proof.Machine.execDebugDropVigil p f s
  | .traceMark p f => Sys2Proof.Machine.execTraceMark p f s
  | .taskFreeze p f => Sys2Proof.Machine.execTaskFreeze p f s
  | .freezeRelease p f => Sys2Proof.Machine.execFreezeRelease p f s
  | .traceDisable p f => Sys2Proof.Machine.execTraceDisable p f s
  | .traceRecordAccept k => Sys2Proof.Machine.execTraceRecordAccept k s
  | .registerWrite p f off size v => Sys2Proof.Machine.execRegisterWrite p f off size v s
  | .status c => Sys2Proof.Machine.execStatus c s
  | .sensorRead c => Sys2Proof.Machine.execSensorRead c s
  | .logRead c seq => Sys2Proof.Machine.execLogRead c seq s
  | .cfgRead c ty => Sys2Proof.Machine.execCfgRead c ty s
  | .cfgWrite c rec => Sys2Proof.Machine.execCfgWrite c rec s
  | .fwStage c => Sys2Proof.Machine.execFwStage c s
  | .fwVerify c => Sys2Proof.Machine.execFwVerify c s
  | .fwActivate c => Sys2Proof.Machine.execFwActivate c s
  | .fwActivateRevert => Sys2Proof.Machine.execFwActivateRevert s
  | .fwCommit c => Sys2Proof.Machine.execFwCommit c s
  | .shellDrain c L o => Sys2Proof.Machine.execShellDrain c L o s
  | .shellDrainProceed L testPassed => Sys2Proof.Machine.execShellDrainProceed L testPassed s
  | .shellRejoin c L => Sys2Proof.Machine.execShellRejoin c L s
  | .unitReset c u => Sys2Proof.Machine.execUnitReset c u s
  | .unitResetTimeout u testPassed => Sys2Proof.Machine.execUnitResetTimeout u testPassed s
  | .portReset c q => Sys2Proof.Machine.execPortReset c q s
  | .calibRun c => Sys2Proof.Machine.execCalibRun c s
  | .stageWrite c => Sys2Proof.Machine.execStageWrite c s
  | .stageRead c off n => Sys2Proof.Machine.execStageRead c off n s
  | .ksInfo c slot => Sys2Proof.Machine.execKsInfo c slot s
  | .ksImport c slot attr => Sys2Proof.Machine.execKsImport c slot attr s
  | .ksErase c slot => Sys2Proof.Machine.execKsErase c slot s
  | .ksRoll c slot attr => Sys2Proof.Machine.execKsRoll c slot attr s
  | .pkRun c q => Sys2Proof.Machine.execPkRun c q s
  | .attest c nonce => Sys2Proof.Machine.execAttest c nonce s
  | .idRead c => Sys2Proof.Machine.execIdRead c s
  | .smbStatusByte pec => Sys2Proof.Machine.execSmbStatusByte pec s
  | .smbSensorBlockRead pec => Sys2Proof.Machine.execSmbSensorBlockRead pec s
  | .smbSelectChannel pec w => Sys2Proof.Machine.execSmbSelectChannel pec w s
  | .smbBlockWrite pec bs => Sys2Proof.Machine.execSmbBlockWrite pec bs s
  | .smbBlockRead pec n => Sys2Proof.Machine.execSmbBlockRead pec n s
  | .smbControlAccess pec w => Sys2Proof.Machine.execSmbControlAccess pec w s
  | .uartFrame block crc => Sys2Proof.Machine.execUartFrame block crc s
  | .uartAbortFrame => Sys2Proof.Machine.execUartAbortFrame s
  | .uartSilenceTimeout => Sys2Proof.Machine.execUartSilenceTimeout s
  | .jtagBypass tdi => Sys2Proof.Machine.execJtagBypass tdi s
  | .jtagIdcode => Sys2Proof.Machine.execJtagIdcode s
  | .jtagSamplePreload pins cells => Sys2Proof.Machine.execJtagSamplePreload pins cells s
  | .jtagExtest tdi => Sys2Proof.Machine.execJtagExtest tdi s
  | .coxWatchdog pc => Sys2Proof.Machine.execCoxWatchdog pc s
  | .managementPass => Sys2Proof.Machine.execManagementPass s
  | .sensorSnapshot x => Sys2Proof.Machine.execSensorSnapshot x s
  | .logFlush => Sys2Proof.Machine.execLogFlush s
  | .calibrationDaily => Sys2Proof.Machine.execCalibrationDaily s
  | .spareSelfTest failed => Sys2Proof.Machine.execSpareSelfTest failed s
  | .stackRead q addr n => Sys2Proof.Machine.execStackRead q addr n s
  | .stackWrite q addr bs => Sys2Proof.Machine.execStackWrite q addr bs s
  | .accumulateWrite q addr bs => Sys2Proof.Machine.execAccumulateWrite q addr bs s
  | .wcbRetire st n => Sys2Proof.Machine.execWcbRetire st n s
  | .wcbPartialTimeout st n => Sys2Proof.Machine.execWcbPartialTimeout st n s
  | .bankRefresh st ch bank => Sys2Proof.Machine.execBankRefresh st ch bank s
  | .channelRetrain st passed => Sys2Proof.Machine.execChannelRetrain st passed s
  | .marginRetrain st ch passed => Sys2Proof.Machine.execMarginRetrain st ch passed s
  | .stackPatrol st => Sys2Proof.Machine.execStackPatrol st s
  | .channelCopyDone st half => Sys2Proof.Machine.execChannelCopyDone st half s
  | .rowRepair st => Sys2Proof.Machine.execRowRepair st s
  | .stackTempReading st r => Sys2Proof.Machine.execStackTempReading st r s
  | .hostAccessHoldTimeout p => Sys2Proof.Machine.execHostAccessHoldTimeout p s
  | .scratchPatrol sh => Sys2Proof.Machine.execScratchPatrol sh s
  | .correctedWriteback sh line => Sys2Proof.Machine.execCorrectedWriteback sh line s
  | .windowAccess q => Sys2Proof.Machine.execWindowAccess q s
  | .apertureAccess p f rid off a => Sys2Proof.Machine.execApertureAccess p f rid off a s
  | .fenceLanding p f rid w => Sys2Proof.Machine.execFenceLanding p f rid w s
  | .sampledCheck sh recomputed => Sys2Proof.Machine.execSampledCheck sh recomputed s
  | .domainGuardResponse q => Sys2Proof.Machine.execDomainGuardResponse q s
  | .syncFrameSend => Sys2Proof.Machine.execSyncFrameSend s
  | .syncFrameReceive fr td reflQ => Sys2Proof.Machine.execSyncFrameReceive fr td reflQ s
  | .followerUnlock => Sys2Proof.Machine.execFollowerUnlock s
  | .syncMeasure load rtt => Sys2Proof.Machine.execSyncMeasure load rtt s
  | .refclkLoss p => Sys2Proof.Machine.execRefclkLoss p s
  | .feedFailure x mv => Sys2Proof.Machine.execFeedFailure x mv s
  | .feedOvervoltage x cv => Sys2Proof.Machine.execFeedOvervoltage x cv s
  | .feedReconnect x cv => Sys2Proof.Machine.execFeedReconnect x cv s
  | .reverseCurrent x => Sys2Proof.Machine.execReverseCurrent x s
  | .auxLoss mv => Sys2Proof.Machine.execAuxLoss mv s
  | .controllerInterval x => Sys2Proof.Machine.execControllerInterval x s
  | .bubbleFrameBoundary sh => Sys2Proof.Machine.execBubbleFrameBoundary sh s
  | .meterScale measured estimated => Sys2Proof.Machine.execMeterScale measured estimated s
  | .rampLimiterTick est => Sys2Proof.Machine.execRampLimiterTick est s
  | .energyCharge x => Sys2Proof.Machine.execEnergyCharge x s
  | .preRampStart => Sys2Proof.Machine.execPreRampStart s
  | .preRampTimeout => Sys2Proof.Machine.execPreRampTimeout s
  | .fastHintEnd sh => Sys2Proof.Machine.execFastHintEnd sh s
  | .dieSensorRead x => Sys2Proof.Machine.execDieSensorRead x s
  | .coolantRead deci => Sys2Proof.Machine.execCoolantRead deci s
  | .stageEntry vin => Sys2Proof.Machine.execStageEntry vin s
  | .stageExit vin => Sys2Proof.Machine.execStageExit vin s
  | .s3ExitDone => Sys2Proof.Machine.execS3ExitDone s
  | .fatalError ty => Sys2Proof.Machine.execFatalError ty s
  | .coldStart mv extractorOk => Sys2Proof.Machine.execColdStart mv extractorOk s
  | .firmwareBoot => Sys2Proof.Machine.execFirmwareBoot s
  | .recordAuthentication => Sys2Proof.Machine.execRecordAuthentication s
  | .mainDomainStart => Sys2Proof.Machine.execMainDomainStart s
  | .memoryTrainingDone failed => Sys2Proof.Machine.execMemoryTrainingDone failed s
  | .shellMapBuild x => Sys2Proof.Machine.execShellMapBuild x s
  | .feedApplied x cv => Sys2Proof.Machine.execFeedApplied x cv s
  | .referenceClockReturn p => Sys2Proof.Machine.execReferenceClockReturn p s
  | .hotReset p => Sys2Proof.Machine.execHotReset p s
  | .trst high => Sys2Proof.Machine.execTrst high s
  | .inboundWordTaken c => Sys2Proof.Machine.execInboundWordTaken c s
  | .correctedSummary => Sys2Proof.Machine.execCorrectedSummary s

end Sys2Proof.Machine
end

