-- ==== Sys2Proof/Machine/Tick.lean ====
section
/-! DEFINITION. What one nanosecond without a command does (log 1): the effects that the spec gives to time alone. -/

namespace Sys2Proof.Machine

/-- One idle step: started `BOOT`s complete, each trace collector writes a record, a following Almanac slews (R449, R582),
Cox takes the submitted blocks (R508), and 1 ns passes (log 1). -/
def tick (s : State) : State := idle (takeBlocks (slewTick (drainTraces (finishBoots s))))

end Sys2Proof.Machine
end

