-- ==== Sys2Proof/Machine/Readout.lean ====
section
/-! DEFINITION. What a read of the register block returns (00_scope R13, R15, R16, 20_register_map R621–R649): no row of the
opcode table is a read, so no command calls it; it says what each field of the state is to the host. Undefined offsets,
reserved fields and WO fields read zero. -/

namespace Sys2Proof.Machine

/-- A flag as bit n of a word. -/
def bitAtN (b : Bool) (n : Nat) : Nat := if b then 2 ^ n else 0

/-! ## Identity (R625) -/

def rdIdentity (p : Port) (f : Fin 32) (o : Nat) (s : State) : Nat :=
  match o with
  | 0x00 => 0x4816 + 2 ^ 16 + 2 ^ 20 * 0x337
  | 0x08 => (translatorOf s).1 % 2 ^ 16 + 2 ^ 16 * 2 + 2 ^ 24 * ((translatorOf s).2 % 256)
  | 0x10 => 64 + 2 ^ 8 * 8 + bitAtN (isPF f) 16 + 2 ^ 17 * f.val + 2 ^ 22 * portNum p
  | 0x18 => slotVersion s s.cox.running + 2 ^ 32 * slotVersion s s.cox.committed
  | 0x20 => if s.up.idLess then 0 else leNat (identityDigest.take 8)
  | 0x28 => if s.up.idLess then 0 else leNat ((identityDigest.drop 8).take 8)
  | 0x30 => Config.serial % 2 ^ 64
  | _ => 0

/-! ## Module and port (R596, R597, R626–R631) -/

/-- Logical Shells in service; none before the map is built. -/
def shellsIn (s : State) : List Nat :=
  if s.up.shellDone then (List.range 64).filter fun L => !(s.shell L).vacant else []

/-- Stacks in service; none before they are trained. -/
def stacksIn (s : State) : List Nat := if s.up.memDone then (List.range 8).filter fun k => !(s.stack k).out else []

/-- A mask of units by number. -/
def maskOf (l : List Nat) : Nat := (l.map (2 ^ ·)).sum

/-- A Shell is vacant, a stack or a frame is out of service, or a key unit is (R596). -/
def degraded (s : State) : Bool :=
  (List.range 64).any (fun L => (s.shell L).vacant) || (List.range 8).any (fun k => (s.stack k).out || !(s.stack k).acked.isEmpty) ||
    s.up.keyUnitOut ≠ 0

/-- Usable capacity in MiB (R596). -/
def capMib (s : State) : Nat := ((stacksIn s).map fun k => 32768 - 2 * (s.stack k).acked.length).sum

def rdReady (s : State) : Nat :=
  readyCode s.up.ready + bitAtN (degraded s) 3 + bitAtN s.up.memDone 4 + bitAtN s.up.shellDone 5 + bitAtN s.up.idLess 6 +
    2 ^ 8 * s.up.cause + bitAtN s.up.hold 11 + 2 ^ 16 * (shellsIn s).length + 2 ^ 24 * maskOf (stacksIn s) +
    2 ^ 32 * capMib s

/-- A semaphore's register (R629). -/
def rdSem (x : Sem) : Nat :=
  (match x.owner with
    | none => 0
    | some p => portNum p + 1) + 2 ^ 4 * portNum x.tie

def rdModule (p : Port) (f : Fin 32) (o : Nat) (s : State) : Nat :=
  let x := s.port p
  if o = 0x00 then rdReady s
  else if o = 0x60 then s.clk.alm.toNat
  else if !isPF f then 0
  else match o with
    | 0x10 => x.pmode + 2 ^ 3 * x.width + 2 ^ 8 * x.rate + bitAtN x.snoop 10
    | 0x18 => x.pollUs.toNat + 2 ^ 12 * x.maxRate.toNat + 2 ^ 16 * x.hangUs.toNat
    | 0x20 => rdSem (s.sem 0) + 2 ^ 32 * rdSem (s.sem 1)
    | 0x28 => rdSem (s.sem 2) + 2 ^ 32 * rdSem (s.sem 3)
    | 0x30 => rdSem (s.sem 4) + 2 ^ 32 * rdSem (s.sem 5)
    | 0x40 => bitAtN s.mode.fixedReq 0 + bitAtN s.mode.dlbOff 1 + bitAtN s.mode.fixed 2 + bitAtN s.mode.busy 3 + 2 ^ 4 * s.mode.cause
    | 0x48 => s.mode.hostPad.toNat
    | _ => 0

/-! ## Function and contexts (R632–R635) -/

def rdFn (p : Port) (f : Fin 32) (o : Nat) (s : State) : Nat :=
  let x := s.fn (fnKey p f)
  match o with
  | 0x00 => x.cause.toNat
  | 0x08 => x.ctxId.toNat + 2 ^ 32 * x.ctxSt
  | 0x10 => x.ctxSel.toNat
  | 0x18 => x.apCtx.toNat
  | 0x20 => x.abRing.toNat
  | _ => if isPF f && 0x100 ≤ o && o < 0x120 then bits (s.port p).quota.toNat (8 * (o - 0x100) + 63) (8 * (o - 0x100)) else 0

/-- A window's status register (R635). -/
def rdWinStatus (m : MWin) : Nat := m.wstate + bitAtN m.refused 2 + 2 ^ 3 * m.reason

/-- A word of a memory-window entry (R434). -/
def rdWin (m : MWin) (u : Nat) : Nat :=
  if u = 6 then m.landings.toNat else (winWord m u).toNat + (if u = 0 then bitAtN m.en 0 else 0)

/-- A peer-table entry (R431). -/
def rdPeer (x : Peer) : Nat := x.rid.toNat + bitAtN x.v 16 + 2 ^ 17 * x.rpos.toNat

def rdCtx (x : Ctx) (o : Nat) : Nat :=
  if o = 0x00 then x.dptRoot.toNat
  else if o = 0x08 then x.pasid.toNat + bitAtN x.pasidEn 20 + bitAtN x.hcache 21 + bitAtN x.sys 22
  else if o = 0x18 then bitAtN x.peerCfl 0 + 2 * x.peerEnt
  else if 0x100 ≤ o && o < 0x180 then rdWinStatus (tget MWin.reset x.mwins ((o - 0x100) / 8))
  else if 0x200 ≤ o && o < 0x400 then rdPeer (tget { rid := 0, v := false, rpos := 0 } x.peers ((o - 0x200) / 8))
  else if 0x400 ≤ o && o < 0x800 then rdWin (tget MWin.reset x.mwins ((o - 0x400) / 64)) (o / 8 % 8)
  else 0

/-! ## Mailbox pages (R506, R507, R510, R636) -/

def rdMailbox (x : Channel) (o : Nat) : Nat :=
  if o < 0x400 then mnum x.buf o 8
  else if o = 0x400 then bitAtN x.go 0 + bitAtN x.done 1 + bitAtN x.busy 2 + bitAtN x.ieDone 4 + bitAtN x.wlost 5
  else if o = 0x408 then x.inWord.toNat + 2 ^ 32 * x.outWord.toNat
  else if o = 0x410 then
    bitAtN x.inFull 0 + bitAtN x.inOvf 1 + bitAtN x.outFull 2 + bitAtN x.ieEmpty 3 + bitAtN x.ieWord 4
  else 0

/-! ## Power (R641, R642) -/

/-- The package ceiling before the ramp, in µW (R642). -/
def effCeil (s : State) : Nat := min (1000000 * effCap s) (min (920000 * effIn s) s.pwr.coolCeil)

def rdPower (o : Nat) (s : State) : Nat :=
  match o with
  | 0x00 => (policyWord s.pwr.pol).toNat
  | 0x08 => effCeil s / 1000000 + 2 ^ 16 * effIn s + 2 ^ 32 * (rampStep s / 10000) + 2 ^ 42 * s.pwr.stage +
      2 ^ 45 * ((List.range 64).foldl (fun m L => max m (s.shell L).pw.f) 0) + bitAtN s.pwr.alert 53
  | 0x10 => bitAtN s.pwr.shedNew 0 + 2 * s.pwr.shedDeep + 2 ^ 32 * s.pwr.shedSeq.toNat
  | _ => 0

/-! ## Counters, trace, debug (R643, R644) -/

def rdTrace (p : Port) (o : Nat) (s : State) : Nat :=
  let t := s.trace
  let x := s.port p
  match o with
  | 0x00 => x.cdAddr.toNat
  | 0x08 => bitAtN x.cdClr 1 + bitAtN x.cdBusy 2 + bitAtN x.cdErr 3
  | 0x100 => t.base.toNat
  | 0x108 => bitAtN t.en 0 + bitAtN t.cox 1 + bitAtN t.wrap 2 + 2 ^ 8 * t.ctx.toNat + 2 ^ 16 * t.size.toNat
  | 0x110 => t.shells.toNat
  | 0x118 => t.events.toNat
  | 0x120 => t.wptr0
  | 0x128 => t.wptr1
  | _ => 0

/-- The Stroke-core state of R314 that a snapshot shows (R583, R644); its layout is open (log 62). -/
def debugSnapshot (s : State) (L : Nat) : List Byte := savePart 1 512 (strokeItems (s.shell L).stroke)

def rdDebug (o : Nat) (s : State) : Nat :=
  let d := s.dbg
  match o with
  | 0x00 => d.act.toNat + 2 ^ 4 * d.ctx.toNat + 2 ^ 12 * d.obj.toNat + 2 ^ 20 * d.lshell.toNat + 2 ^ 26 * d.vigil.toNat +
      bitAtN d.die 36
  | 0x08 => d.value.toNat
  | 0x10 => bitAtN d.port 0 + 2 * d.fn.toNat + 2 ^ 6 * d.ring.toNat + 2 ^ 32 * d.dindex.toNat
  | 0x18 => bitAtN d.noeff 1
  | _ => if 0x100 ≤ o && o < 0x300 then leNat ((debugSnapshot s d.lshell.toNat).drop (o - 0x100) |>.take 8) else 0

/-! ## Almanac, sync and gates; memory status (R645–R647) -/

/-- A gate's word (R646). -/
def rdGate (g : Gate) (hi : Bool) : Nat :=
  if hi then g.count.toNat
  else bitAtN g.arm 0 + bitAtN g.lateAbort 1 + bitAtN g.late 2 + bitAtN g.conflict 3 + 2 ^ 4 * g.fn + 2 ^ 9 * g.ring +
    2 ^ 32 * g.lateNs.toNat

def rdSync (p : Port) (o : Nat) (s : State) : Nat :=
  if o = 0x00 then s.sync.role.toNat
  else if o = 0x10 then s.sync.load % 16 + 2 ^ 4 * (s.sync.rtt % 2 ^ 16) + bitAtN s.sync.range 20 + bitAtN s.sync.locked 21 +
    2 ^ 24 * unsigned 8 s.sync.offset
  else if 0x100 ≤ o && o < 0x180 then rdGate (tget Gate.reset (s.port p).gates ((o - 0x100) / 16)) (o % 16 = 8)
  else 0

def rdMemory (o : Nat) (s : State) : Nat :=
  match o with
  | 0x00 => maskOf ((List.range 8).filter fun k => !(s.stack k).out) + 2 ^ 8 * (s.cox.frameQ.length % 2 ^ 16) +
      2 ^ 24 * ((((List.range 8).map fun k => (s.stack k).retired.length).sum) % 2 ^ 24)
  | 0x08 => match s.cox.frameQ with
    | [] => 0
    | n :: _ => n % 2 ^ 17 + 2 ^ 31
  | _ => 0

/-! ## Rings (R637, R639) -/

/-- The code of a task's state (R639). -/
def stateCode : TaskState → Nat
  | .waiting => 1
  | .admitted => 2
  | .running => 3
  | .yielding => 4
  | .preempted => 5
  | .resuming => 6
  | .ending => 7
  | .done => 0

/-- The held tasks of a ring in ascending ring index. -/
def heldTasks (s : State) (k : Nat) : List Task := ((tasksOf s k).filter fun e => e.2.st ≠ .done).map (·.2)

/-- An entry of the task-status window as 128 bits (R639). -/
def statusEntry (t : Task) : Nat :=
  t.ref.index.toNat + 2 ^ 32 * stateCode t.st + bitAtN t.cls 35 + 2 ^ 36 * t.prio + 2 ^ 38 * t.yields + bitAtN t.frozen 46 +
    2 ^ 64 * t.tState.toNat

/-- Entries of the window. -/
def statusWindow : Nat := 112

def rdRing (s : State) (k o : Nat) : Nat :=
  let x := s.ring k
  match o with
  | 0x00 => x.rbase.toNat
  | 0x08 => x.cbase.toNat
  | 0x10 => x.dbl.toNat
  | 0x18 => x.ctx.toNat + 2 ^ 8 * x.rlog.toNat + 2 ^ 13 * x.clog.toNat + 2 ^ 18 * x.prioMax.toNat + bitAtN x.ordered 20 +
      2 ^ 32 * x.coalCnt.toNat + 2 ^ 41 * x.coalUs.toNat + 2 ^ 51 * x.vector.toNat
  | 0x20 => x.head0.toNat + 2 ^ 32 * x.ctail0.toNat
  | 0x28 => bitAtN x.en 0 + bitAtN x.active 1 + 2 ^ 2 * x.refuse + bitAtN x.stopped 6 + 2 ^ 7 * x.cause + 2 ^ 32 * x.sindex.toNat
  | 0x30 => x.head.toNat + 2 ^ 32 * x.ctail.toNat
  | 0x38 => x.discards.toNat + 2 ^ 32 * ((heldTasks s k).length % 2 ^ 16)
  | _ =>
    if 0x100 ≤ o then
      match ((heldTasks s k).take statusWindow)[(o - 0x100) / 16]? with
      | none => 0
      | some t => bits (statusEntry t) (8 * (o % 16) + 63) (8 * (o % 16))
    else 0

/-! ## Shell pool and MSI-X (R640, R648, R649) -/

/-- A region entry as its register (R187). -/
def regionWord (r : Region) : Nat :=
  r.base.toNat + 2 ^ 12 * r.len.toNat + bitAtN r.scope 25 + bitAtN r.strong 26 + 2 ^ 32 * r.ctx.toNat

/-- An entry as a function sees it: a VF reads zero for a region of another function's context (R649). -/
def rdRegion (p : Port) (f : Fin 32) (L e : Nat) (s : State) : Nat :=
  match tfind (s.shell L).regions e with
  | none => 0
  | some r => if isPF f || seesCtx (s.ctx r.ctx.toNat) p f then regionWord r else 0

/-- A drain is under way (R522). -/
def draining (x : Shell) : Bool :=
  match x.drain with
  | .marked _ => true
  | .remap => true
  | .none => false
  | .drained => false

def rdShell (p : Port) (f : Fin 32) (L o : Nat) (s : State) : Nat :=
  let x := s.shell L
  if o < 0x100 then rdRegion p f L (o / 8) s
  else match o with
    | 0x100 => x.cacheReq.toNat
    | 0x108 => x.phys + bitAtN x.vacant 6 + bitAtN x.maint 7 + bitAtN (draining x) 8 + bitAtN x.holder.isSome 9 +
        2 ^ 10 * x.cacheEff.toNat
    | 0x110 => bitAtN x.regCfl 0 + 2 * x.regEnt + 2 ^ 6 * x.regWhy + bitAtN x.cacheCfl 8
    | _ => 0

def rdMsix (x : Fn) (o : Nat) : Nat :=
  if o < 144 then bits (tget msixReset x.msix (o / 16)).toNat (8 * (o % 16) + 63) (8 * (o % 16))
  else if o = 0x800 then x.pba.toNat else 0

/-! ## The block (R621, R622) -/

/-- The aligned 64-bit word at an offset, as a function reads it. -/
def regWord (p : Port) (f : Fin 32) (off : Nat) (s : State) : Nat :=
  let pf := isPF f
  let o := off % 0x1000
  match off / 0x1000 with
  | 0x00 => rdIdentity p f o s
  | 0x01 => rdModule p f o s
  | 0x02 => rdFn p f o s
  | 0x03 => if pf then rdMailbox (s.chan (.fn p f true)) o else 0
  | 0x04 => rdMailbox (s.chan (.fn p f false)) o
  | 0x05 => if pf then rdPower o s else 0
  | 0x06 => if pf then rdTrace p o s else 0
  | 0x07 => if pf then rdDebug o s else 0
  | 0x08 => if pf then rdSync p o s else 0
  | 0x09 => if pf then rdMemory o s else 0
  | 0x0A =>
    match selected s p f with
    | none => 0
    | some c => rdCtx (s.ctx c) o
  | 0x30 => rdMsix (s.fn (fnKey p f)) o
  | n =>
    if 0x10 ≤ n && n < 0x14 then rdRing s (ringKey p f ((off - 0x10000) / 0x800)) (off % 0x800)
    else if 0x20 ≤ n && n < 0x28 then rdShell p f ((off - 0x20000) / 0x200) (off % 0x200) s
    else 0

/-- The byte at an offset. -/
def regByte (p : Port) (f : Fin 32) (s : State) (off : Nat) : Nat :=
  regWord p f (off - off % 8) s / 2 ^ (8 * (off % 8)) % 256

/-- The bytes from an offset on, as a number. -/
def regBytes (p : Port) (f : Fin 32) (s : State) (off : Nat) : Nat → Nat
  | 0 => 0
  | n + 1 => regByte p f s off + 256 * regBytes p f s (off + 1) n

/-- A read of a register (R13, R16, R622): an aligned half of a 64-bit register latches its upper half with its lower one, for
the function's next read of it; any other read returns the bytes it covers. -/
def regRead (p : Port) (f : Fin 32) (off size : Nat) (s : State) : Nat × State :=
  let k := fnKey p f
  let base := off - off % 8
  if size = 4 && off % 4 = 0 && wide base then
    let w := regWord p f base s
    if off % 8 = 0 then
      (w % 2 ^ 32, s.modFn k fun x => { x with latch := tset x.latch base (BitVec.ofNat 32 (w / 2 ^ 32)) })
    else match tfind (s.fn k).latch base with
      | some h => (h.toNat, s.modFn k fun x => { x with latch := tdel x.latch base })
      | none => (w / 2 ^ 32 % 2 ^ 32, s)
  else (regBytes p f s off size, s)

end Sys2Proof.Machine
end

