-- ==== Sys2Proof/Safety.lean ====
section
/-! DEFINITION. What counts as a safe run, and the terms the statements use: canonical memories, rollback counters that never
fall, a command that answers a next state, a native command that issues and completes, and what it leaves alone. -/

namespace Sys2Proof.Safety

open Sys2Proof.Machine

/-! ## Invariants -/

/-- Every memory of the module and of its hosts is in its canonical form: stacked memory, the hosts' memories and the
scratchpad of every Shell. -/
def Canonical (s : State) : Prop :=
  memWf s.mem = true ∧ memWf s.portA.host = true ∧ memWf s.portB.host = true ∧ ∀ L, memWf (s.shell L).sp = true

/-- No rollback counter of the second state is below that of the first (16_security_engines R538). -/
def RollbackKept (s t : State) : Prop := ∀ k, rpmbOf s k ≤ rpmbOf t k

/-! ## Commands that complete -/

/-- The command answers a next state, of which something holds. -/
def Gives (i : Instr) (s : State) (P : State → Prop) : Prop := ∃ t, exec i s = .next t ∧ P t

/-- The stream's buffer holds the command that the Stroke core has come to, and its opcode names a command (R287, R290). -/
def Held (s : State) (L : Nat) : Prop :=
  ∃ r, tfind (s.shell L).stroke.buf (s.shell L).stroke.idx = some r ∧ (nativeOf (Fin.ofNat 64 L) r).isSome = true

/-- A native command issues on Shell L for the task (R294): the Shell's Stroke core runs for it and waits for nothing, no skip
is pending (R303), the stream's next command stands in the buffer (R287), and it has not begun. -/
def Issues (s : State) (L tid : Nat) (t : Task) : Prop :=
  runningTask s L = some (tid, t) ∧ (s.shell L).stroke.skip = 0 ∧ (s.shell L).stroke.idx < (s.shell L).stroke.count ∧
    Held s L ∧ (s.shell L).stroke.begun = false ∧ (s.shell L).stroke.point = 0

/-- An action answers a value and leaves a state. -/
def Answers {α : Type} (a : Act α) (s : State) (x : α) (u : State) : Prop := a.go s = (.ok x, u)

/-- A check passes on a state and leaves it as it was. -/
def Passes (a : Act Unit) (s : State) : Prop := Answers a s () s

/-- The command `e` is the command `w` with the effective lines of its Shell's open loops (R300); no count or size of it is zero
and its reserved fields are zero (R290, R306). -/
def Effective (n : Native) (s : State) (L tid : Nat) (t : Task) (w e : Cmd) : Prop :=
  (n.zero || n.isQuiet (s.shell L).stroke.loops tid t w s) = false ∧ Passes (n.head w) s ∧
    effCmd (s.shell L).stroke.loops w = .ok e

/-- No line of the Shell's scratchpad is marked with an error (R194), and no command in flight writes an image (R295). -/
def Quiet (s : State) (L : Nat) : Prop := (s.shell L).lineErr = [] ∧ ∀ e ∈ s.streams, e.2.pin = false

/-- No request stops the Shell's task, and the command in flight is at its first unit (R312, R313). -/
def Unstopped (s : State) (L : Nat) : Prop := preempting s L = false ∧ (s.shell L).stroke.point = 0

/-- n lines from a 24-bit scratchpad address on lie in the Shell, in regions that the task may access (R110, R190). -/
def Within (s : State) (L tid : Nat) (t : Task) (a n : Nat) : Prop := rangeErr s L tid t.ctx a n = none

/-- A destination range of lines and a source range: exactly coinciding, or disjoint (R59, R111). -/
def CoincideOrApart (a n b m : Nat) : Prop := (a = b ∧ n = m) ∨ linesMeet a n b m = none

/-- The Stroke core goes on with the next command after the effect u of a command with opcode `op` (R294, R575, R579). -/
def after (s : State) (L : Nat) (t : Task) (op : Nat) (w : Cmd) (u : State) : State :=
  goTo L ((s.shell L).stroke.idx + 1) (complete L t op (s.shell L).stroke.idx w u)

/-- A native command completes: exec answers the state in which the Stroke core goes on with the next command after the
effect u, of which something holds. -/
def Does (i : Instr) (n : Native) (s : State) (L : Nat) (t : Task) (w : Cmd) (P : State → Prop) : Prop :=
  Gives i s fun v => ∃ u, v = after s L t n.enc.op w u ∧ P u

/-- A native command that waits for others after its issue (R131, R167): it is issued with the effect u. -/
def IssuesAndWaits (i : Instr) (n : Native) (s : State) (L : Nat) (t : Task) (w : Cmd) (P : State → Prop) : Prop :=
  Gives i s fun v => ∃ u, v = issued L t n.enc.op (s.shell L).stroke.idx w u ∧ P u

/-! ## Mailboxes -/

/-- A block of an opcode is submitted on a channel that Cox serves and whose turn it is (R508, R513). -/
def Asked (s : State) (c : Chan) (op : Nat) : Prop :=
  (s.chan c).go = true ∧ blkOpcode (s.chan c) = op ∧ serves s c = true ∧ myTurn s c = true

/-- Nothing stands against the operation: neither its set nor a semaphore, recovery state or the length (R512, R515). -/
def Admitted (s : State) (c : Chan) (op : Nat) (sec : Bool) (sem : Option Nat) : Prop :=
  Asked s c op ∧ admits s c op sec sem = stOk

/-- The channel is answered with a status and a payload. -/
def AnsweredBy (s : State) (c : Chan) (st : Nat) (pl : List Byte) (t : State) : Prop :=
  t.chan c = (respond c st pl s).chan c

/-- The long operation that ends next on a channel (R510, R528). -/
def EndsNext (s : State) (c : Chan) (o : LongOp) : Prop :=
  s.cox.longOps.find? (fun o => o.ch = c && !endsItself o.act && (!s.cox.handover || o.act = .activate)) = some o

/-! ## Frames -/

/-- Nothing outside the Shells, the tasks, the counters, the trace and the free values has changed. -/
def ShellsOnly (s t : State) : Prop :=
  t.pending = s.pending ∧ t.clk = s.clk ∧ t.nextId = s.nextId ∧ t.up = s.up ∧ t.pwr = s.pwr ∧ t.portA = s.portA ∧
    t.portB = s.portB ∧ t.fns = s.fns ∧ t.rings = s.rings ∧ t.ctxs = s.ctxs ∧ t.lastPort = s.lastPort ∧
    t.phys = s.phys ∧ t.vigils = s.vigils ∧ t.inbox = s.inbox ∧ t.streams = s.streams ∧ t.mem = s.mem ∧
    t.stackTab = s.stackTab ∧ t.mode = s.mode ∧ t.sems = s.sems ∧ t.ctrSince = s.ctrSince ∧ t.dumpLast = s.dumpLast ∧
    t.dbg = s.dbg ∧ t.sync = s.sync ∧ t.cox = s.cox ∧ t.chans = s.chans ∧ t.sec = s.sec ∧ t.svc = s.svc

/-- No Shell but L has changed. -/
def OtherShells (L : Nat) (s t : State) : Prop := ∀ j, j ≠ L → t.shell j = s.shell j

/-- Bytes of a Shell's scratchpad outside [lo, lo + n) read as before. -/
def SpKept (L lo n : Nat) (s t : State) : Prop :=
  ∀ a, a < lo ∨ lo + n ≤ a → mget (t.shell L).sp a = mget (s.shell L).sp a

/-- What of a Shell only its own task's native commands change beside scratchpad and Stroke core is as it was: regions, windows,
handles, vector engine, copies, streams and `BOOT`. -/
def RestOfShell (L : Nat) (s t : State) : Prop :=
  (t.shell L).regions = (s.shell L).regions ∧ (t.shell L).windows = (s.shell L).windows ∧
    (t.shell L).handles = (s.shell L).handles ∧ (t.shell L).vec = (s.shell L).vec ∧
    (t.shell L).asyncIn = (s.shell L).asyncIn ∧ (t.shell L).asyncOut = (s.shell L).asyncOut ∧
    (t.shell L).ks0 = (s.shell L).ks0 ∧ (t.shell L).ks1 = (s.shell L).ks1 ∧ (t.shell L).boot = (s.shell L).boot ∧
    (t.shell L).holder = (s.shell L).holder ∧ (t.shell L).pw = (s.shell L).pw

/-- Only n lines of one Shell's scratchpad have changed, beside what its transform unit holds, counters and free
values. -/
def OnlyLines (L line n : Nat) (s t : State) : Prop :=
  SpKept L (72 * line) (72 * n) s t ∧ (t.shell L).stroke = (s.shell L).stroke ∧ RestOfShell L s t ∧ OtherShells L s t ∧
    ShellsOnly s t ∧ t.tasks = s.tasks

/-- Only the vector engine of one Shell has changed, beside counters. -/
def EngineOnly (L : Nat) (s t : State) : Prop :=
  { t.shell L with vec := (s.shell L).vec } = s.shell L ∧ OtherShells L s t ∧ ShellsOnly s t ∧ t.tasks = s.tasks

/-! ## Objects -/

/-- The residues of the limb of degree 2^logN at a line of a Shell's scratchpad (02_residue_arithmetic R67, R70). -/
def spLimb (s : State) (L line logN : Nat) : Limb :=
  bytesLimb (mslice (s.shell L).sp (72 * line) (72 * limbLines logN))

/-- The 576 bits of the line at a scratchpad address. -/
def spLine (s : State) (L a : Nat) : Nat := mnum (s.shell L).sp (72 * addrLine a) 72

/-- The components of the object at a scratchpad address (R75). -/
def polysAt (s : State) (L a : Nat) (h : Hdr) : List Poly :=
  (List.range h.comps).map fun i => (List.range h.limbs).map fun j => spLimb s L (addrLine a + limbLine h i j) h.logN

/-- Limb j of component i, zero where the component is missing (R152). -/
def limbAt (logN : Nat) (cs : List Poly) (i j : Nat) : Limb :=
  ((cs[i]?).bind fun p => p[j]?).getD (List.replicate (2 ^ logN) 0)

/-- The components of an object with a header, limb by limb. -/
def build (h : Hdr) (f : Nat → Nat → Limb) : List Poly :=
  (List.range h.comps).map fun i => (List.range h.limbs).map fun j => f i j

/-- An object stands at a scratchpad address: its header's line and, in their places, the limbs of its components. -/
def ObjectAt (s : State) (L a : Nat) (h : Hdr) (cs : List Poly) : Prop :=
  mslice (s.shell L).sp (72 * addrLine a) 72 = hdrBytes h ∧
    ∀ i j p l, cs[i]? = some p → p[j]? = some l →
      spLimb s L (addrLine a + limbLine h i j) h.logN = l.map (· % 2 ^ 36)

/-- Limbs stand one behind the other from a line on. -/
def LimbsAt (s : State) (L line logN : Nat) (ls : List Limb) : Prop :=
  ∀ k l, ls[k]? = some l → spLimb s L (line + k * limbLines logN) logN = l.map (· % 2 ^ 36)

end Sys2Proof.Safety
end

