-- ==== Sys2Proof/Certificates/Slice0/Obligations.lean ====
section
/-! DEFINITION. The statements for the provers, as propositions. A docstring names the rules of spec/ that a statement rests on;
`Gives`, `Completes`, `Issues` and the frames are those of Safety.lean. -/

open Sys2Proof Sys2Proof.Machine Sys2Proof.Safety

/-! ## The Stroke core (09_command_streams R285–R306) -/

/-- `NOP`, `END` and `LSET` (R294, R297, R298): the core goes on with the next command; `END` ends the stream, `LSET` sets a loop register
or adds to it modulo 2^24; scratchpad, vector engine and every other Shell are left. -/
def Obligations.ControlCommands : Prop :=
  (∀ (sh : Fin 64) (w : Cmd) (s : State) (tid : Nat) (t : Task), Issues s sh tid t → cmdBad encNop w = none →
      Gives (.nop sh w) s fun v =>
        (v.shell sh).stroke = { (s.shell sh).stroke with idx := (s.shell sh).stroke.idx + 1 } ∧
          (v.shell sh).sp = (s.shell sh).sp ∧ RestOfShell sh s v ∧ ShellsOnly s v ∧ OtherShells sh s v) ∧
  (∀ (sh : Fin 64) (w : Cmd) (s : State) (tid : Nat) (t : Task), Issues s sh tid t → cmdBad encEnd w = none →
    (s.shell sh).stroke.loops = [] →
      Gives (.endStream sh w) s fun v =>
        (v.shell sh).stroke =
            { (s.shell sh).stroke with ended := true, idx := (s.shell sh).stroke.idx + 1 } ∧
          (v.shell sh).sp = (s.shell sh).sp ∧ RestOfShell sh s v ∧ ShellsOnly s v ∧ OtherShells sh s v) ∧
  (∀ (sh : Fin 64) (w : Cmd) (s : State) (tid : Nat) (t : Task), Issues s sh tid t → cmdBad encLset w = none →
      Gives (.lset sh w) s fun v =>
        tget 0 (v.shell sh).stroke.loopReg (cf w 18 16) =
            (if cf w 19 19 = 1 then tget 0 (s.shell sh).stroke.loopReg (cf w 18 16) + BitVec.ofNat 24 (immF w 23 0)
             else BitVec.ofNat 24 (immF w 23 0)) ∧
          (∀ j, j ≠ cf w 18 16 →
            tget 0 (v.shell sh).stroke.loopReg j = tget 0 (s.shell sh).stroke.loopReg j) ∧
          (v.shell sh).stroke.idx = (s.shell sh).stroke.idx + 1 ∧ (v.shell sh).sp = (s.shell sh).sp ∧
          RestOfShell sh s v ∧ ShellsOnly s v ∧ OtherShells sh s v)

/-- Hardware loops and predicated skipping (R299, R301–R304): `LOOP` opens a loop of its register's value or passes over a body of count
zero; `LEND` repeats the innermost loop or closes it; `END` inside a loop, `LEND` without one and a fifth loop abort with
0x50; `PTEST` writes its flag and no other, `SKIP` passes over the next commands when its flag equals the polarity, a skipped
command is neither checked nor executed, and outside a legacy stream both abort with 0x01. -/
def Obligations.LoopsAndSkips : Prop :=
  (∀ (sh : Fin 64) (w : Cmd) (s u : State) (tid e : Nat) (t : Task),
    let x := (s.shell sh).stroke
    Issues s sh tid t → cmdBad encLoop w = none →
    (findLend sh t.ctx x.count (bodyMax - 1) (x.idx + 1) 0).go s = (.ok (some e), u) →
    (u.shell sh).stroke.loops = x.loops → tget 0 x.loopReg (cf w 18 16) ≠ 0 → x.loops.length < 4 →
      Gives (.loop sh w) s fun v =>
        (v.shell sh).stroke.loops =
            { start := x.idx + 1, count := (tget 0 x.loopReg (cf w 18 16)).toNat, i := 0,
              d0 := signed 24 (opaF w 23 0), d1 := signed 24 (opaF w 47 24), d2 := signed 24 (opbF w 23 0),
              d3 := signed 24 (opbF w 47 24) } :: x.loops ∧
          (v.shell sh).stroke.idx = x.idx + 1) ∧
  (∀ (sh : Fin 64) (w : Cmd) (s u : State) (tid e : Nat) (t : Task),
    let x := (s.shell sh).stroke
    Issues s sh tid t → cmdBad encLoop w = none →
    (findLend sh t.ctx x.count (bodyMax - 1) (x.idx + 1) 0).go s = (.ok (some e), u) →
    (u.shell sh).stroke.loops = x.loops → tget 0 x.loopReg (cf w 18 16) = 0 →
      Gives (.loop sh w) s fun v => (v.shell sh).stroke.loops = x.loops ∧ (v.shell sh).stroke.idx = e + 1) ∧
  (∀ (sh : Fin 64) (w : Cmd) (s : State) (tid : Nat) (t : Task) (l : Loop) (r : List Loop), Issues s sh tid t →
    cmdBad encLend w = none → (s.shell sh).stroke.loops = l :: r →
      Gives (.lend sh w) s fun v =>
        if l.i + 1 < l.count then
          (v.shell sh).stroke.loops = { l with i := l.i + 1 } :: r ∧ (v.shell sh).stroke.idx = l.start
        else (v.shell sh).stroke.loops = r ∧ (v.shell sh).stroke.idx = (s.shell sh).stroke.idx + 1) ∧
  (∀ (sh : Fin 64) (w : Cmd) (s : State) (tid : Nat) (t : Task), Issues s sh tid t → cmdBad encLend w = none →
    (s.shell sh).stroke.loops = [] →
      Gives (.lend sh w) s fun v => v = abortTask tid { code := 0x50, detail := 1 } sh (s.shell sh).stroke.idx s) ∧
  (∀ (sh : Fin 64) (w : Cmd) (s : State) (tid : Nat) (t : Task), Issues s sh tid t → cmdBad encEnd w = none →
    (s.shell sh).stroke.loops ≠ [] →
      Gives (.endStream sh w) s fun v =>
        v = abortTask tid { code := 0x50, detail := 2 } sh (s.shell sh).stroke.idx s) ∧
  (∀ (sh : Fin 64) (w : Cmd) (s u : State) (tid e : Nat) (t : Task),
    let x := (s.shell sh).stroke
    Issues s sh tid t → cmdBad encLoop w = none →
    (findLend sh t.ctx x.count (bodyMax - 1) (x.idx + 1) 0).go s = (.ok (some e), u) →
    tget 0 x.loopReg (cf w 18 16) ≠ 0 → 4 ≤ x.loops.length →
      Gives (.loop sh w) s fun v => v = abortTask tid { code := 0x50, detail := 0 } sh x.idx u) ∧
  (∀ (sh : Fin 64) (w : Cmd) (s : State) (tid : Nat) (t : Task), Issues s sh tid t →
    (s.shell sh).stroke.legacy = true → cmdBad (encPtest (cf w 21 21 = 1)) w = none → cf w 21 21 = 0 →
      Gives (.ptest sh w) s fun v =>
        (v.shell sh).stroke.pf = setFlag (s.shell sh).stroke.pf (cf w 18 16)
            (testHolds (cf w 20 19) false (tget 0 (s.shell sh).stroke.loopReg (opaF w 2 0)).toNat w.imm.toNat) ∧
          (∀ j, j < 8 → j ≠ cf w 18 16 →
            (v.shell sh).stroke.pf.getLsbD j = (s.shell sh).stroke.pf.getLsbD j) ∧
          (v.shell sh).stroke.loopReg = (s.shell sh).stroke.loopReg ∧
          (v.shell sh).stroke.idx = (s.shell sh).stroke.idx + 1) ∧
  (∀ (sh : Fin 64) (w : Cmd) (s : State) (tid : Nat) (t : Task), Issues s sh tid t →
    (s.shell sh).stroke.legacy = true → cmdBad (encPtest (cf w 21 21 = 1)) w = none → cf w 21 21 = 1 →
      Gives (.ptest sh w) s fun v =>
        (v.shell sh).stroke.pf = setFlag (s.shell sh).stroke.pf (cf w 18 16)
            (testHolds (cf w 20 19) true (cacheElem (s.shell sh).vec (opaF w 7 0) (opaF w 15 8)) w.imm.toNat) ∧
          (v.shell sh).vec = (s.shell sh).vec) ∧
  (∀ (sh : Fin 64) (w : Cmd) (s u : State) (tid : Nat) (t : Task),
    let x := (s.shell sh).stroke
    Issues s sh tid t → x.legacy = true → cmdBad encSkip w = none → immF w 7 0 ≠ 0 →
    (skipBad sh t.ctx x.count (immF w 7 0) (x.idx + 1)).go s = (.ok false, u) → (u.shell sh).stroke.skip = 0 →
      Gives (.skip sh w) s fun v =>
        (v.shell sh).stroke.idx = x.idx + 1 ∧
          (v.shell sh).stroke.skip =
            (if x.pf.getLsbD (cf w 18 16) = decide (cf w 19 19 = 1) then immF w 7 0 else 0)) ∧
  (∀ (sh : Fin 64) (w : Cmd) (s : State) (tid : Nat) (t : Task), runningTask s sh = some (tid, t) →
    0 < (s.shell sh).stroke.skip →
      Gives (.muladd sh w) s fun v =>
        (v.shell sh).stroke.idx = (s.shell sh).stroke.idx + 1 ∧
          (v.shell sh).stroke.skip = (s.shell sh).stroke.skip - 1 ∧ (v.shell sh).sp = (s.shell sh).sp ∧
          RestOfShell sh s v ∧ ShellsOnly s v ∧ OtherShells sh s v) ∧
  (∀ (sh : Fin 64) (w : Cmd) (s : State) (tid : Nat) (t : Task), Issues s sh tid t →
    (s.shell sh).stroke.legacy = false →
      Gives (.ptest sh w) s (fun v =>
          v = abortTask tid { code := 0x01, detail := detail01 0 1 0 } sh (s.shell sh).stroke.idx s) ∧
        Gives (.skip sh w) s fun v =>
          v = abortTask tid { code := 0x01, detail := detail01 0 1 0 } sh (s.shell sh).stroke.idx s)

/-- A zero mask or count (R112, and of R306 these cases): the command is a no-op that completes with no check but its opcode, whatever
its other fields hold; here the lane commands, the limb-form transforms, `BCONV`, and of the counts those of `KIP`, of two
vector commands, `LVLDROP`, `TCOPY` in direct form and `HINT`. -/
def Obligations.ZeroCountIsANoOp : Prop :=
  ∀ (sh : Fin 64) (w : Cmd) (s : State) (tid : Nat) (t : Task), Issues s sh tid t →
    (w.opc = 0 →
      Gives (.muladd sh w) s (fun v => v = after s sh t 0x10 w s) ∧ Gives (.mul sh w) s (fun v => v = after s sh t 0x11 w s) ∧
        Gives (.add sh w) s (fun v => v = after s sh t 0x12 w s) ∧
        Gives (.sub sh w) s (fun v => v = after s sh t 0x13 w s) ∧
        Gives (.neg sh w) s (fun v => v = after s sh t 0x14 w s) ∧
        Gives (.mov sh w) s (fun v => v = after s sh t 0x15 w s)) ∧
    (cf w 16 16 = 1 → w.opb = 0 →
      Gives (.ntt sh w) s (fun v => v = after s sh t 0x20 w s) ∧
        Gives (.intt sh w) s (fun v => v = after s sh t 0x21 w s) ∧
        Gives (.auto sh w) s (fun v => v = after s sh t 0x22 w s)) ∧
    ((w.opb = 0 ∨ w.opc = 0) → Gives (.bconv sh w) s (fun v => v = after s sh t 0x23 w s)) ∧
    (cf w 21 17 = 0 → Gives (.kip sh w) s (fun v => v = after s sh t 0x36 w s)) ∧
    (vcount w = 0 →
      Gives (.vadd sh w) s (fun v => v = after s sh t 0x62 w s) ∧ Gives (.vload sh w) s (fun v => v = after s sh t 0x60 w s)) ∧
    (immF w 5 0 = 0 → Gives (.lvldrop sh w) s (fun v => v = after s sh t 0x4A w s)) ∧
    (immF w 15 0 = 0 → Gives (.hint sh w) s (fun v => v = after s sh t 0x05 w s)) ∧
    (w.form = 0 → immF w 23 0 = 0 → Gives (.tcopy sh w) s (fun v => v = after s sh t 0x71 w s))

/-- A reserved field that is not zero (R290), an effective line outside the scratchpad (R300) or a command beyond the end of the
stream (R287) aborts the task with the fault, the Shell and the command's index (R390); nothing of the command is done. -/
def Obligations.RejectedCommandsAbort : Prop :=
  (∀ (sh : Fin 64) (w : Cmd) (s : State) (tid b : Nat) (t : Task), Issues s sh tid t → w.opc ≠ 0 →
    cmdBad (encLane 0x10 .mulAdd) w = some b →
      Gives (.muladd sh w) s fun v =>
        v = abortTask tid { code := 0x01, detail := detail01 0 1 b } sh (s.shell sh).stroke.idx s) ∧
  (∀ (sh : Fin 64) (w : Cmd) (s : State) (tid : Nat) (t : Task) (f : Flt), Issues s sh tid t → w.opc ≠ 0 →
    cmdBad (encLane 0x10 .mulAdd) w = none → effCmd (s.shell sh).stroke.loops w = .error f →
      f.code = 0x02 ∧ Gives (.muladd sh w) s fun v => v = abortTask tid f sh (s.shell sh).stroke.idx s) ∧
  (∀ (sh : Fin 64) (w : Cmd) (s : State) (tid : Nat) (t : Task), runningTask s sh = some (tid, t) →
    (s.shell sh).stroke.skip = 0 → (s.shell sh).stroke.count ≤ (s.shell sh).stroke.idx →
      Gives (.mov sh w) s fun v =>
        v = abortTask tid { code := 0x01, detail := detail01 0 0 severalFields } sh (s.shell sh).stroke.idx s) ∧
  (∀ (tid fshell cmd : Nat) (f : Flt) (s : State) (x : Task), tfind s.tasks tid = some x → x.fault = none →
    x.st ≠ .ending → x.st ≠ .done →
      ∃ y, tfind (abortTask tid f fshell cmd s).tasks tid = some y ∧ y.st = .ending ∧
        y.fault = some { code := BitVec.ofNat 8 f.code, detail := BitVec.ofNat 64 f.detail,
                         cmd := BitVec.ofNat 32 cmd, fshell := fshell } ∧
        ∀ L, L < 64 → (s.shell L).holder = some tid → ((abortTask tid f fshell cmd s).shell L).stroke.run = false)

/-! ## Native commands that compute -/

/-- The lane commands (R57, R59, R650): with its degree, its chain and its mask in order and its lines within the task's regions,
destination and sources coinciding or disjoint, the command completes; under every modulus of its mask each residue of the
destination is the operation's result on the residues that its sources held, and nothing else is written. -/
def Obligations.LaneCommands : Prop :=
  ∀ z ∈ ([(.muladd, .mulAdd, natMuladd), (.mul, .mul, natMul), (.add, .add, natAdd), (.sub, .sub, natSub),
      (.neg, .neg, natNeg), (.mov, .mov, natMov)] :
      List ((Fin 64 → Cmd → Instr) × LaneOp × (Fin 64 → Cmd → Native))),
    ∀ (sh : Fin 64) (w e : Cmd) (s : State) (tid : Nat) (t : Task) (ch : Chain),
      let o := z.2.1
      let logN := cf e 24 20
      let mask := e.opc.toNat
      let n := popCount mask 64 * limbLines logN
      let src := fun (f k : Nat) => spLimb s sh (addrLine (afOf e f) + k * limbLines logN) logN
      Issues s sh tid t → Quiet s sh → Effective (z.2.2 sh w) s sh tid t w e → 12 ≤ logN → logN ≤ 17 →
      tfind t.snap (cf e 19 16) = some ch → logN ≤ ch.maxLogN → mask < 2 ^ ch.K →
      Within s sh tid t (afOf e 0) n → (usesC o = true → Within s sh tid t (afOf e 1) n) →
      (usesD o = true → Within s sh tid t (afOf e 2) n) → Within s sh tid t (afOf e 3) n →
      CoincideOrApart (addrLine (afOf e 3)) n (addrLine (afOf e 0)) n →
      (usesC o = true → CoincideOrApart (addrLine (afOf e 3)) n (addrLine (afOf e 1)) n) →
      (usesD o = true → CoincideOrApart (addrLine (afOf e 3)) n (addrLine (afOf e 2)) n) →
        Does (z.1 sh w) (z.2.2 sh w) s sh t w fun u =>
          LimbsAt u sh (addrLine (afOf e 3)) logN ((setBits mask 64).zipIdx.map fun y =>
            laneLimb o (ch.mod y.1) (src 0 y.2) (if usesC o then src 1 y.2 else src 0 y.2)
              (if usesD o then src 2 y.2 else src 0 y.2)) ∧
          OnlyLines sh (addrLine (afOf e 3)) n s u

/-- The modular multiply-add (R55): for a modulus of at most 36 bits with its own width b and reciprocal, whenever x = a × c + d is
below 2^(2b), the estimate t3 falls short of ⌊x / q⌋ by at most 2 and the result is x mod q; every multiply-add on in-range
inputs meets the condition; so `MULADD`, `MUL`, `ADD`, `SUB` and `NEG` are exact modulo q on residues in range. -/
def Obligations.LaneArithmeticIsExact : Prop :=
  ∀ (m : Modulus), 0 < m.q → m.q < 2 ^ 36 → m.b = bitLen m.q → m.mu = barrettMu m.q → ∀ a c d,
    (a * c + d < 2 ^ (2 * m.b) →
      let t3 := (a * c + d) / 2 ^ (m.b - 1) * m.mu / 2 ^ (m.b + 1)
      t3 ≤ (a * c + d) / m.q ∧ (a * c + d) / m.q ≤ t3 + 2 ∧ laneMulAdd m a c d = (a * c + d) % m.q) ∧
    (a < m.q → c < m.q → d < m.q →
      a * c + d < 2 ^ (2 * m.b) ∧ laneOp .mulAdd m a c d = (a * c + d) % m.q ∧ laneOp .mul m a c d = a * c % m.q ∧
        laneOp .add m a c d = (a + c) % m.q ∧ laneOp .sub m a c d = (a + (m.q - c)) % m.q ∧
        laneOp .neg m a c d = (m.q - a) % m.q ∧ laneOp .mov m a c d = a)

/-- The transform unit (R84, R85, R100–R105, R109, R111, R113): `NTT`, `INTT` and `AUTO` in limb and in object form, and `BCONV`,
complete when their rows of R113 hold; every limb of the destination is the transform of the limb its source held, the
header follows in its new domain, and nothing else is written. -/
def Obligations.TransformCommands : Prop :=
  (∀ z ∈ ([(.ntt, .ntt, natNtt), (.intt, .intt, natIntt), (.auto, .auto, natAuto)] :
      List ((Fin 64 → Cmd → Instr) × Xform × (Fin 64 → Cmd → Native))),
    ∀ (sh : Fin 64) (w e : Cmd) (s : State) (tid : Nat) (t : Task) (ch : Chain),
      let k := z.2.1
      let logN := cf e 25 21
      let g := immF e 17 0
      let mask := e.opb.toNat
      let n := popCount mask 64 * limbLines logN
      Issues s sh tid t → Quiet s sh → Effective (z.2.2 sh w) s sh tid t w e → cf w 16 16 = 1 → 12 ≤ logN → logN ≤ 17 →
      galoisFits k logN g = true → tfind t.snap (cf e 20 17) = some ch → logN ≤ ch.maxLogN → mask < 2 ^ ch.K →
      Within s sh tid t (afOf e 0) n → Within s sh tid t (afOf e 1) n →
      CoincideOrApart (addrLine (afOf e 1)) n (addrLine (afOf e 0)) n →
        Does (z.1 sh w) (z.2.2 sh w) s sh t w fun u =>
          LimbsAt u sh (addrLine (afOf e 1)) logN ((setBits mask 64).zipIdx.map fun y =>
            xformLimb k (cf e 26 26 = 0) (ch.mod y.1) ch.maxLogN logN g
              (spLimb s sh (addrLine (afOf e 0) + y.2 * limbLines logN) logN)) ∧
          OnlyLines sh (addrLine (afOf e 1)) n s u) ∧
  (∀ z ∈ ([(.ntt, .ntt, natNtt), (.intt, .intt, natIntt), (.auto, .auto, natAuto)] :
      List ((Fin 64 → Cmd → Instr) × Xform × (Fin 64 → Cmd → Native))),
    ∀ (sh : Fin 64) (w e : Cmd) (s : State) (tid : Nat) (t : Task),
      let k := z.2.1
      let g := immF e 17 0
      let src := afOf e 0
      let dst := afOf e 1
      let h := hdrOf (spLine s sh src)
      let ch := chainOf t h
      Issues s sh tid t → Quiet s sh → Effective (z.2.2 sh w) s sh tid t w e → cf w 16 16 = 0 → Within s sh tid t src 1 →
      hdrBad (spLine s sh src) = none → (k = .ntt → h.domain = false) → (k = .intt → h.domain = true) →
      hdrFits t.snap h = true → galoisFits k h.logN g = true → ¬ (k = .auto ∧ h.kind = 2) →
      Within s sh tid t src (objLines h) → Within s sh tid t dst (objLines h) →
      CoincideOrApart (addrLine dst) (objLines h) (addrLine src) (objLines h) →
        Does (z.1 sh w) (z.2.2 sh w) s sh t w fun u =>
          ObjectAt u sh dst { h with domain := if k = .auto then h.domain else decide (k = .ntt) }
            ((polysAt s sh src h).map fun p => (p.zip (limbMods h ch)).map fun y =>
              xformLimb k h.domain y.2 ch.maxLogN h.logN g y.1) ∧
          OnlyLines sh (addrLine dst) (objLines h) s u) ∧
  (∀ (sh : Fin 64) (w e : Cmd) (s : State) (tid : Nat) (t : Task) (ch : Chain),
    let logN := cf e 25 21
    let S := e.opb.toNat
    let T := e.opc.toNat
    let n := popCount S 64 * limbLines logN
    let m := popCount T 64 * limbLines logN
    let xs := (List.range (popCount S 64)).map fun k => spLimb s sh (addrLine (afOf e 0) + k * limbLines logN) logN
    let mods := fun (x : Nat) => (setBits x 64).map ch.mod
    Issues s sh tid t → Quiet s sh → Effective (natBconv sh w) s sh tid t w e → cf e 16 16 = 1 → 12 ≤ logN → logN ≤ 17 →
    tfind t.snap (cf e 20 17) = some ch → logN ≤ ch.maxLogN → S < 2 ^ ch.K → T < 2 ^ ch.K → S &&& T = 0 →
    Within s sh tid t (afOf e 0) n → Within s sh tid t (afOf e 1) m →
    linesMeet (addrLine (afOf e 1)) m (addrLine (afOf e 0)) n = none →
      Does (.bconv sh w) (natBconv sh w) s sh t w fun u =>
        LimbsAt u sh (addrLine (afOf e 1)) logN
          (bconv (mods S) (mods T) ((xs.zip (mods S)).map fun y => loadLimb y.2 y.1)) ∧
        OnlyLines sh (addrLine (afOf e 1)) m s u)

/-- `AUTO` in the NTT domain (R100): with an odd element g and N a power of two, output position k takes the residue of input position
k' with 2k' + 1 = (2k + 1) × g mod 2N; every residue is moved and none is changed. -/
def Obligations.NttDomainAutomorphism : Prop :=
  ∀ (g logN : Nat) (l : Limb), l.length = 2 ^ logN → g % 2 = 1 → g < 2 * l.length →
    (autoNtt g l).length = l.length ∧ (autoNtt g l).Perm l ∧
      ∀ k k', k < l.length → k' < l.length →
        (2 * k' + 1) % (2 * l.length) = (2 * k + 1) * g % (2 * l.length) → (autoNtt g l)[k]? = l[k']?

/-- Chains (R61–R66): a registration whose descriptor can be read and whose rows hold puts the chain into its slot of the context
and of the task; a drop empties the slot, in the task's snapshot too where the slot was not empty already, and leaves every
other, and the snapshot of every other task. -/
def Obligations.ChainCommands : Prop :=
  (∀ (sh : Fin 64) (w e : Cmd) (s s1 s2 : State) (tid : Nat) (t : Task) (hb eb : List Byte),
    let head := leNat hb
    let count := bits head 22 16
    let k := bits head 3 0
    let ch := chainFrom head (words16 count eb) s2.nextId
    Issues s sh tid t → Effective (natChainSet sh w) s sh tid t w e → (cf e 17 16 = 1 ∨ cf e 17 16 = 2) →
    e.opa.toNat % 64 = 0 → Answers (readCached sh t.ctx (cf e 17 16) e.opa.toNat 64 0) s hb s1 → count ≠ 0 →
    Answers (readCached sh t.ctx (cf e 17 16) (e.opa.toNat + 64) (16 * count) 0) s1 eb s2 →
    chainRows head (words16 count eb) (tfind (s2.ctx t.ctx).chains k).isSome = none →
      Does (.chainSet sh w) (natChainSet sh w) s sh t w fun u =>
        tfind (u.ctx t.ctx).chains k = some ch ∧
          (∀ j, j ≠ k → tfind (u.ctx t.ctx).chains j = tfind (s2.ctx t.ctx).chains j) ∧
          (tfind s2.tasks tid = some t →
            (tfind u.tasks tid).map (·.snap) = some (tset t.snap k ch)) ∧
          u.mem = s2.mem ∧ u.shells = s2.shells) ∧
  (∀ (sh : Fin 64) (w : Cmd) (s : State) (tid : Nat) (t : Task), Issues s sh tid t → cmdBad encChainDrop w = none →
      Gives (.chainDrop sh w) s fun v =>
        tfind (v.ctx t.ctx).chains (cf w 19 16) = none ∧
          (∀ k, k ≠ cf w 19 16 → tfind (v.ctx t.ctx).chains k = tfind (s.ctx t.ctx).chains k) ∧
          (tfind v.tasks tid).map (·.snap) =
            some (if (tfind (s.ctx t.ctx).chains (cf w 19 16)).isSome then tdel t.snap (cf w 19 16) else t.snap) ∧
          (∀ i x, i ≠ tid → tfind s.tasks i = some x → (tfind v.tasks i).map (·.snap) = some x.snap))

/-- Keys (R123–R147): an installation whose six steps pass fills its slot; a drop empties its slot and no other; a stream is opened
or pinned by a Shell of its set, which waits for the others; the key inner product multiplies the raised digits with the
stream's pairs and closes the stream; and a close empties the Shell's stream number. -/
def Obligations.KeyCommands : Prop :=
  (∀ (sh : Fin 64) (w e : Cmd) (s s1 s2 s3 s4 : State) (tid : Nat) (t : Task) (ch : Chain) (hb data : List Byte),
    let space := cf e 27 26
    let a := e.opa.toNat
    let h := keyHdrOf (leNat hb)
    Issues s sh tid t → Effective (natKeyInstall sh w) s sh tid t w e → (space = 1 ∨ space = 2) →
    tfind (s.ctx t.ctx).keys (cf e 25 16) = none → a % 64 = 0 → Answers (wholeObject t.ctx space a 64 0 2) s () s1 →
    Answers (readMem .iod t.ctx space a 64 2) s1 hb s2 → keyHdrBad (leNat hb) = none → keyHdrFits t.snap h = true →
    tfind t.snap h.chain = some ch → Answers (wholeObject t.ctx space a (keyBytes h ch) 4 4) s2 () s3 →
    Answers (readMem .iod t.ctx space (a + 64) (keyBytes h ch - 64) 2) s3 data s4 →
      if leNat ((sha256 data).take 16) = h.digest then
        Does (.keyInstall sh w) (natKeyInstall sh w) s sh t w fun u =>
          tfind (u.ctx t.ctx).keys (cf e 25 16) =
              some { addr := a, space := space, hdr := BitVec.ofNat 512 (leNat hb), reg := ch.reg } ∧
            (∀ j, j ≠ cf e 25 16 → tfind (u.ctx t.ctx).keys j = tfind (s4.ctx t.ctx).keys j) ∧ u.mem = s4.mem ∧
            u.shells = s4.shells
      else
        Gives (.keyInstall sh w) s fun v =>
          v = abortTask tid { code := 0x20, detail := detail20 (cf e 25 16) 5 false false } sh (s.shell sh).stroke.idx s4) ∧
  (∀ (sh : Fin 64) (w : Cmd) (s : State) (tid : Nat) (t : Task), Issues s sh tid t → cmdBad encKeyDrop w = none →
      Gives (.keyDrop sh w) s fun v =>
        tfind (v.ctx t.ctx).keys (cf w 25 16) = none ∧
          (∀ k, k ≠ cf w 25 16 → tfind (v.ctx t.ctx).keys k = tfind (s.ctx t.ctx).keys k) ∧
          v.streams = s.streams) ∧
  (∀ (sh : Fin 64) (w e : Cmd) (s s1 s2 : State) (tid streamer : Nat) (t : Task) (k : FoundKey),
    let num := cf e 26 26
    let set_ := opaF e 55 48
    let kind := cf e 30 27
    let h := hdrOf (spLine s sh (afOf e 0))
    Issues s sh tid t → Quiet s sh → Effective (natKeyOpen sh w) s sh tid t w e → opaF e 41 24 = 0x3FFFF →
    Passes (openRow1 sh num set_ kind 3) s → Within s sh tid t (afOf e 0) 1 →
    hdrBad (spLine s sh (afOf e 0)) = none → hdrFits t.snap h = true → h.kind = 0 →
    h.comps = (if kind = kindRelin then 3 else 2) →
    Answers (keyIdentity t (cf e 25 16) kind (immF e 17 0) h.level (some h)) s k s →
    Answers (keySource sh tid t (cf e 25 16) k none) s () s1 → e.opb.toNat &&& extMask k.chain h.level = e.opb.toNat →
    Answers (streamerOf t.ctx sh k.slot) s1 streamer s2 → Answers (unitsHold sh (some streamer) true) s2 false s2 →
    waitingStream s2 tid sh num set_ = none → streamerFree s2 streamer = true →
      IssuesAndWaits (.keyOpen sh w) (natKeyOpen sh w) s sh t w fun u =>
        (u.shell sh).stroke.wait = .stream num ∧ (u.shell sh).stroke.idx = (s2.shell sh).stroke.idx ∧
          ∃ m, streamOf u sh num = some (s2.nextId + 1,
              { streamWanted tid sh num set_ (cf e 25 16) kind (immF e 17 0) h.level k none (some streamer) false with
                members := [m] }) ∧
            m.sh = sh.val ∧ m.mask = BitVec.ofNat 64 e.opb.toNat ∧ m.given = 0 ∧ m.used = 0 ∧ m.buf = [] ∧
            m.order = s2.nextId ∧ m.closed = false) ∧
  (∀ (sh : Fin 64) (w e : Cmd) (s s1 s2 : State) (tid streamer : Nat) (t : Task) (k : FoundKey),
    let num := cf e 26 26
    let set_ := opaF e 55 48
    let kind := cf e 31 28
    let level := immF e 5 0
    Issues s sh tid t → Effective (natKeyPin sh w) s sh tid t w e →
    Passes (openRow1 sh num set_ kind 3) s → Answers (keyIdentity t (cf e 25 16) kind (immF e 23 6) level none) s k s →
    Answers (keySource sh tid t (cf e 25 16) k none) s () s1 → e.opb.toNat &&& extMask k.chain level = e.opb.toNat →
    Answers (streamerOf t.ctx sh k.slot) s1 streamer s2 →
    Answers (unitsHold sh (some streamer) (cf e 27 27 = 1)) s2 false s2 → waitingStream s2 tid sh num set_ = none →
    streamerFree s2 streamer = true →
    let x := streamWanted tid sh num set_ (cf e 25 16) kind (immF e 23 6) level k none (some streamer) true
    let m : Member :=
      { sh := sh, mask := e.opb, given := 0, used := 0, buf := [], order := s2.nextId, closed := false, waits := false,
        freed := 0, cmd := (s2.shell sh).stroke.idx, z0 := opaF e 41 24, full := cf e 27 27 = 1, imask := e.opb, ilevel := level }
    Quiet s2 sh → Within s2 sh tid t (spAddr sh m.z0) (pinLines x m) →
      IssuesAndWaits (.keyPin sh w) (natKeyPin sh w) s sh t w fun u =>
        (u.shell sh).stroke.wait = .stream num ∧ streamOf u sh num = some (s2.nextId + 1, { x with members := [m] })) ∧
  (∀ (sh : Fin 64) (w e : Cmd) (s : State) (tid id : Nat) (t : Task) (x : KStream) (mem : Member)
    (pair : Nat → Nat → Limb × Limb),
    let num := cf e 16 16
    let nb := cf e 21 17
    let h := keyHdrOf x.hdr.toNat
    let D := h.digits x.level
    let js := setBits mem.mask.toNat 64
    let m := js.length
    let lam := limbLines h.logN
    let x0 := addrLine (afOf e 0)
    let y0 := addrLine (afOf e 1)
    let sx := opbF e 23 0
    let sy := opbF e 47 24
    Issues s sh tid t → Quiet s sh → Effective (natKip sh w) s sh tid t w e → nb ≤ 16 → streamOf s sh num = some (id, x) →
    x.pin = false → earliest s sh num = true → x.members.find? (fun m => m.sh = sh.val) = some mem → x.image = none → mem.used = 0 →
    x.started = true → m ≠ 0 → 12 ≤ h.logN →
    (∀ d j, d < D → j ∈ js →
      mem.buf.find? (fun b => b.1 = d && b.2.1 = j) = some (d, j, (pair d j).1, (pair d j).2) ∧
        (pair d j).1.length = 2 ^ h.logN ∧ (pair d j).2.length = 2 ^ h.logN) →
    0 < D → Within s sh tid t (afOf e 0) (D * m * lam) → Within s sh tid t (afOf e 1) (2 * m * lam) →
    (∀ c, c < nb → firstOut (s.shell sh) tid t.ctx 33 (x0 + c * sx) (x0 + c * sx + D * m * lam) = none ∧
      firstOut (s.shell sh) tid t.ctx 33 (y0 + c * sy) (y0 + c * sy + 2 * m * lam) = none) →
    (∀ c b, c < nb → b < nb → linesMeet (x0 + c * sx) (D * m * lam) (y0 + b * sy) (2 * m * lam) = none) →
      Does (.kip sh w) (natKip sh w) s sh t w fun u =>
        streamOf u sh num = none ∧ u.mem = s.mem ∧ u.tasks = s.tasks ∧ OtherShells sh s u ∧
          (nb = 1 ∨ 2 * m * lam ≤ sy → ∀ c r j, c < nb → js[r]? = some j →
            let raised := (List.range D).map fun d => spLimb s sh (x0 + c * sx + (d * m + r) * lam) h.logN
            ∀ half, half < 2 →
              let line := y0 + c * sy + (half * m + r) * lam
              spLimb u sh line h.logN =
                kipAcc (x.chain.mod j) (if cf e 22 22 = 1 then some (spLimb s sh line h.logN) else none)
                  (raised.zip ((List.range D).map fun d => if half = 0 then (pair d j).1 else (pair d j).2)))) ∧
  (∀ (sh : Fin 64) (w : Cmd) (s : State) (tid : Nat) (t : Task), Issues s sh tid t → cmdBad encKeyClose w = none →
      Gives (.keyClose sh w) s fun v =>
        (if cf w 16 16 = 0 then (v.shell sh).ks0 else (v.shell sh).ks1) =
            (if streamOf s sh (cf w 16 16) = none then
              (if cf w 16 16 = 0 then (s.shell sh).ks0 else (s.shell sh).ks1) else none) ∧
          (streamOf s sh (cf w 16 16) = none → v.streams = s.streams))

/-- Ciphertexts and shares combined element by element (R151–R154, R161, R180, R181): where the checks of R151 pass on the headers of the
operands, the command completes; each limb of the result is the lane operation on the operands' limbs, its header follows
R77 with the scale of R80, and nothing else is written. -/
def Obligations.ElementwiseSchemeCommands : Prop :=
  (∀ z ∈ ([(.hadd, natHadd, false, false), (.hsub, natHsub, true, false), (.sadd, natSadd, false, true),
      (.ssub, natSsub, true, true)] : List ((Fin 64 → Cmd → Instr) × (Fin 64 → Cmd → Native) × Bool × Bool)),
    ∀ (sh : Fin 64) (w e : Cmd) (s : State) (tid scale : Nat) (t : Task) (a b : Hdr),
      let sub := z.2.2.1
      let share := z.2.2.2
      let ch := chainOf t a
      let out := outHdr [a, b] (if b.kind = 1 then a.comps else max a.comps b.comps) a.level scale
      let x := fun i j => limbAt a.logN (polysAt s sh (afOf e 0) a) i j
      let y := fun i j => limbAt a.logN (polysAt s sh (afOf e 1) b) i j
      Issues s sh tid t → Quiet s sh → Effective (z.2.1 sh w) s sh tid t w e →
      Answers (heads sh tid t.ctx [afOf e 0, afOf e 1]) s [a, b] s → Passes (rows2to5 t [a, b] .same) s →
      Passes (step3 [a, b] (if share then [.share, .share] else [.ct, .ctOrPt]) (!share)) s →
      Answers (addScale ch [a, b] a.scale b.scale) s scale s →
      Passes (place sh tid t.ctx [(afOf e 0, a), (afOf e 1, b)] (afOf e 3) out) s →
        Does (z.1 sh w) (z.2.1 sh w) s sh t w fun u =>
          ObjectAt u sh (afOf e 3) out (build out fun i j =>
            if b.kind = 1 ∧ i ≠ 0 then x i j
            else zipLimb (if sub then laneSub (ch.mod j) else laneAdd (ch.mod j)) (x i j) (y i j)) ∧
          OnlyLines sh (addrLine (afOf e 3)) (objLines out) s u) ∧
  (∀ z ∈ ([(.hneg, natHneg, false), (.sneg, natSneg, true)] :
      List ((Fin 64 → Cmd → Instr) × (Fin 64 → Cmd → Native) × Bool)),
    ∀ (sh : Fin 64) (w e : Cmd) (s : State) (tid : Nat) (t : Task) (a : Hdr),
      let out := outHdr [a] a.comps a.level a.scale
      Issues s sh tid t → Quiet s sh → Effective (z.2.1 sh w) s sh tid t w e →
      Answers (heads sh tid t.ctx [afOf e 0]) s [a] s → Passes (rows2to5 t [a] .any) s →
      Passes (step3 [a] [if z.2.2 then .share else .ct] (!z.2.2)) s →
      Passes (place sh tid t.ctx [(afOf e 0, a)] (afOf e 3) out) s →
        Does (z.1 sh w) (z.2.1 sh w) s sh t w fun u =>
          ObjectAt u sh (afOf e 3) out (build out fun i j =>
            (limbAt a.logN (polysAt s sh (afOf e 0) a) i j).map (laneNeg ((chainOf t a).mod j))) ∧
          OnlyLines sh (addrLine (afOf e 3)) (objLines out) s u) ∧
  (∀ z ∈ ([(.hmulc, natHmulc, false), (.smulc, natSmulc, true)] :
      List ((Fin 64 → Cmd → Instr) × (Fin 64 → Cmd → Native) × Bool)),
    ∀ (sh : Fin 64) (w e : Cmd) (s : State) (tid scale : Nat) (t : Task) (a : Hdr),
      let ch := chainOf t a
      let out := outHdr [a] a.comps a.level scale
      Issues s sh tid t → Quiet s sh → Effective (z.2.1 sh w) s sh tid t w e →
      Answers (heads sh tid t.ctx [afOf e 0]) s [a] s → Passes (rows2to5 t [a] .any) s →
      Passes (step3 [a] [if z.2.2 then .share else .ct] (!z.2.2)) s →
      (z.2.2 = true ∨ a.scheme = ckks ∨ opcF e 31 0 = 0) →
      Answers (mulScale ch [a] a.level a.scale (opcF e 31 0)) s scale s →
      Passes (place sh tid t.ctx [(afOf e 0, a)] (afOf e 3) out) s →
        Does (z.1 sh w) (z.2.1 sh w) s sh t w fun u =>
          ObjectAt u sh (afOf e 3) out (build out fun i j =>
            (limbAt a.logN (polysAt s sh (afOf e 0) a) i j).map fun x =>
              laneMul (ch.mod j) x (signed 32 e.imm.toNat % ((ch.mod j).q : Int)).toNat) ∧
          OnlyLines sh (addrLine (afOf e 3)) (objLines out) s u) ∧
  (∀ z ∈ ([(.hmulp, natHmulp, [.ct, .pt], .ntt, false), (.smulp, natSmulp, [.share, .pt], .same, true),
      (.smul, natSmul, [.share, .share], .same, true)] :
      List ((Fin 64 → Cmd → Instr) × (Fin 64 → Cmd → Native) × List Role × Dom × Bool)),
    ∀ (sh : Fin 64) (w e : Cmd) (s : State) (tid scale : Nat) (t : Task) (a b : Hdr),
      let share := z.2.2.2.2
      let ch := chainOf t a
      let out := outHdr [a, b] a.comps a.level scale
      Issues s sh tid t → Quiet s sh → Effective (z.2.1 sh w) s sh tid t w e →
      Answers (heads sh tid t.ctx [afOf e 0, afOf e 1]) s [a, b] s → Passes (rows2to5 t [a, b] z.2.2.2.1) s →
      Passes (step3 [a, b] z.2.2.1 (!share)) s →
      (share = true → scale = 0) → (share = false → Answers (mulScale ch [a, b] a.level a.scale b.scale) s scale s) →
      Passes (place sh tid t.ctx [(afOf e 0, a), (afOf e 1, b)] (afOf e 3) out) s →
        Does (z.1 sh w) (z.2.1 sh w) s sh t w fun u =>
          ObjectAt u sh (afOf e 3) out (build out fun i j =>
            zipLimb (laneMul (ch.mod j)) (limbAt a.logN (polysAt s sh (afOf e 0) a) i j)
              (limbAt a.logN (polysAt s sh (afOf e 1) b) 0 j)) ∧
          OnlyLines sh (addrLine (afOf e 3)) (objLines out) s u) ∧
  (∀ (sh : Fin 64) (w e : Cmd) (s : State) (tid : Nat) (t : Task) (a b c d g : Hdr),
    let as := [afOf e 0, afOf e 1, afOf e 2, opcF e 23 0, opcF e 47 24]
    let hs := [a, b, c, d, g]
    let ch := chainOf t a
    let out := outHdr hs 1 a.level 0
    let x := fun n j => limbAt a.logN (polysAt s sh (as.getD n 0) (hs.getD n a)) 0 j
    let mad := fun (m : Modulus) (u v y : Limb) => ((u.zip v).zip y).map fun z => laneMulAdd m z.1.1 z.1.2 z.2
    Issues s sh tid t → Quiet s sh → Effective (natSbeaver sh w) s sh tid t w e → Answers (heads sh tid t.ctx as) s hs s →
    Passes (rows2to5 t hs .same) s → Passes (step3 hs [.share, .share, .share, .pt, .pt] false) s →
    Passes (place sh tid t.ctx (as.zip hs) (afOf e 3) out) s →
      Does (.sbeaver sh w) (natSbeaver sh w) s sh t w fun u =>
        ObjectAt u sh (afOf e 3) out (build out fun _ j =>
          let m := ch.mod j
          let y := mad m (x 4 j) (x 0 j) (mad m (x 3 j) (x 1 j) (x 2 j))
          if cf e 16 16 = 1 then mad m (x 3 j) (x 4 j) y else y) ∧
        OnlyLines sh (addrLine (afOf e 3)) (objLines out) s u) ∧
  (∀ (sh : Fin 64) (w e : Cmd) (s : State) (tid : Nat) (t : Task) (a : Hdr),
    let n := immF e 5 0
    let out := outHdr [a] a.comps (a.level - n) a.scale
    Issues s sh tid t → Quiet s sh → Effective (natLvldrop sh w) s sh tid t w e →
    Answers (heads sh tid t.ctx [afOf e 0]) s [a] s → Passes (rows2to5 t [a] .any) s → Passes (step3 [a] [.obj] true) s →
    a.scheme ≠ bfv → n ≤ a.level → Passes (place sh tid t.ctx [(afOf e 0, a)] (afOf e 3) out) s →
      Does (.lvldrop sh w) (natLvldrop sh w) s sh t w fun u =>
        ObjectAt u sh (afOf e 3) out (build out fun i j => limbAt a.logN (polysAt s sh (afOf e 0) a) i j) ∧
        OnlyLines sh (addrLine (afOf e 3)) (objLines out) s u)

/-- Products, rescaling and key switching (R155–R160, R162, R167): `HMUL` forms the three components limb by limb or, for BFV, by lift and
scaling; `RESCALE` divides by the last modulus; `RELIN`, `ROTATE` and `KSWITCH` add the switched component that the key's
pairs give; and `BOOT` is issued and waits for its group. -/
def Obligations.ProductAndSwitchCommands : Prop :=
  (∀ (sh : Fin 64) (w e : Cmd) (s : State) (tid scale : Nat) (t : Task) (a b : Hdr),
    let ch := chainOf t a
    let out := outHdr [a, b] 3 a.level scale
    let x := polysAt s sh (afOf e 0) a
    let y := polysAt s sh (afOf e 1) b
    Issues s sh tid t → Quiet s sh → Effective (natHmul sh w) s sh tid t w e →
    Answers (heads sh tid t.ctx [afOf e 0, afOf e 1]) s [a, b] s → Passes (rows2to5 t [a, b] .ntt) s →
    Passes (step3 [a, b] [.ct, .ct] true) s → a.comps = 2 → b.comps = 2 →
    (a.scheme = bfv → a.level + 2 ≤ ch.special) → Answers (mulScale ch [a, b] a.level a.scale b.scale) s scale s →
    Passes (place sh tid t.ctx [(afOf e 0, a), (afOf e 1, b)] (afOf e 3) out) s →
      Does (.hmul sh w) (natHmul sh w) s sh t w fun u =>
        ObjectAt u sh (afOf e 3) out
          (if a.scheme = bfv then hmulBfv ch a.logN a.level a.ptmod x y else hmulLimbs ch out.limbs x y) ∧
        OnlyLines sh (addrLine (afOf e 3)) (objLines out) s u) ∧
  (∀ (sh : Fin 64) (w e : Cmd) (s : State) (tid scale : Nat) (t : Task) (a : Hdr),
    let ch := chainOf t a
    let out := outHdr [a] a.comps (a.level - 1) scale
    Issues s sh tid t → Quiet s sh → Effective (natRescale sh w) s sh tid t w e →
    Answers (heads sh tid t.ctx [afOf e 0]) s [a] s → Passes (rows2to5 t [a] .ntt) s → Passes (step3 [a] [.ct] true) s →
    a.level ≠ 0 → Answers (rescaleScale ch a) s scale s →
    Passes (place sh tid t.ctx [(afOf e 0, a)] (afOf e 3) out) s →
      Does (.rescale sh w) (natRescale sh w) s sh t w fun u =>
        ObjectAt u sh (afOf e 3) out
          ((polysAt s sh (afOf e 0) a).map (rescalePoly ch a.scheme a.logN a.level a.ptmod)) ∧
        OnlyLines sh (addrLine (afOf e 3)) (objLines out) s u) ∧
  (∀ z ∈ ([(.relin, natRelin, kindRelin), (.rotate, natRotate, kindGalois), (.kswitch, natKswitch, kindSwitch)] :
      List ((Fin 64 → Cmd → Instr) × (Fin 64 → Cmd → Native) × Nat)),
    ∀ (sh : Fin 64) (w e : Cmd) (s s1 s2 s3 s4 : State) (tid streamer : Nat) (t : Task) (a : Hdr) (k : FoundKey)
      (y : Poly × Poly),
      let kind := z.2.2
      let g := immF e 17 0
      let ch := k.chain
      let E := a.level + 1 + ch.special
      let work : Work :=
        { a := afOf e 2, n := opcF e 18 0, needs := (k.hdr.digits a.level + 2) * E * limbLines a.logN }
      let out := outHdr [a] 2 a.level a.scale
      let x := if kind = kindGalois then
          (polysAt s sh (afOf e 0) a).map fun p => p.zipIdx.map fun l =>
            xformLimb .auto true (ch.mod l.2) ch.maxLogN a.logN g l.1
        else polysAt s sh (afOf e 0) a
      Issues s sh tid t → Effective (z.2.1 sh w) s sh tid t w e → Quiet s sh → Quiet s2 sh → Quiet s4 sh →
      (s2.shell sh).sp = (s.shell sh).sp →
      Answers (heads sh tid t.ctx [afOf e 0]) s [a] s → Passes (rows2to5 t [a] .ntt) s →
      Passes (step3 [a] [.ct] true) s → a.comps = (if kind = kindRelin then 3 else 2) →
      (kind = kindGalois → galoisOk a.logN g = true) → ((s.shell sh).ks0 = none ∨ (s.shell sh).ks1 = none) →
      Answers (keyIdentity t (cf e 25 16) kind g a.level (some a)) s k s →
      Answers (keySource sh tid t (cf e 25 16) k none) s () s1 →
      Passes (place sh tid t.ctx [(afOf e 0, a)] (afOf e 3) out (some work)) s1 →
      Answers (streamerOf t.ctx sh k.slot) s1 streamer s2 → streamerFree s2 streamer = true →
      Answers (scramble sh (addrLine work.a) work.needs) s2 () s3 →
      Unstopped s4 sh → Answers (keySwitch ch k.hdr a.level (x.getLastD []) (memoryPair sh t.ctx k)) (noteSwitch sh ch k.hdr a.level s3) y s4 →
        Does (z.1 sh w) (z.2.1 sh w) s sh t w fun u =>
          ((∀ l ∈ y.1 ++ y.2, l.length = 2 ^ a.logN) → ObjectAt u sh (afOf e 3) out
            [addPoly ch (x.headD []) y.1, if kind = kindRelin then addPoly ch (x.getD 1 []) y.2 else y.2]) ∧
          u.mem = s4.mem ∧ u.ctxs = s4.ctxs ∧ u.tasks = s4.tasks) ∧
  (∀ (sh : Fin 64) (w e : Cmd) (s : State) (tid : Nat) (t : Task), Issues s sh tid t →
    Effective (natBoot sh w) s sh tid t w e → cf e 20 16 ≤ 16 → (cf e 22 21 = 1 ∨ cf e 22 21 = 2) →
    (cf e 24 23 = 1 ∨ cf e 24 23 = 2) → e.imm.getLsbD (crewOf sh) = true →
      IssuesAndWaits (.boot sh w) (natBoot sh w) s sh t w fun u =>
        (u.shell sh).stroke = { (s.shell sh).stroke with wait := .group } ∧
          (u.shell sh).boot = some
            { items := cf e 20 16, planSpace := cf e 22 21, listSpace := cf e 24 23, crews := e.imm.setWidth 8,
              plan := e.opa.toNat, list := e.opb.toNat, work := opcF e 17 0, workLen := opcF e 36 18 } ∧
          (u.shell sh).sp = (s.shell sh).sp ∧ OtherShells sh s u ∧ u.tasks = s.tasks ∧ u.mem = s.mem)

/-- The vector engine (R232, R245–R263): a command whose rows, types and ranges are in order completes; the engine is what the
operation makes of it, element i of the destination being the operation on the elements i of the operands, rounded to
nearest unless the command asks for stochastic rounding; a register command leaves scratchpad and memory; `VLOAD` loads the
elements of a tensor by their type, their scale and the command's exponent, and `VSTORE` writes the cache's elements
converted to the tensor's type and keeps its rows. -/
def Obligations.VectorCommands : Prop :=
  (∀ z ∈ ([(.vadd, .add, natVadd), (.vsub, .sub, natVsub), (.vmul, .mul, natVmul), (.vfma, .fma, natVfma),
      (.vmax, .max, natVmax), (.vmin, .min, natVmin), (.vneg, .neg, natVneg), (.vabs, .abs, natVabs)] :
      List ((Fin 64 → Cmd → Instr) × VOp × (Fin 64 → Cmd → Native))),
    ∀ (sh : Fin 64) (w e : Cmd) (s : State) (tid : Nat) (t : Task),
      let o := z.2.1
      let x := (s.shell sh).vec
      let n := vcount e
      let td := (cacheOp e 0).type
      let ts := o.srcs.map fun k => (cacheOp e k).type
      Issues s sh tid t → Effective (z.2.2 sh w) s sh tid t w e → Passes (vecHead x.fore e (0 :: o.srcs)) s →
      kindsFit (td :: ts) (o ≠ .fma) = true → (∀ k ∈ 0 :: o.srcs, Passes (cacheRange e k n) s) →
      (∀ k ∈ o.srcs, Passes (cacheOverlap e 0 n k n) s) →
        Does (z.1 sh w) (z.2.2 sh w) s sh t w fun u =>
          (u.shell sh).vec = opRun sh o e x ∧ EngineOnly sh s u ∧
          (stochastic e = false → cacheGet (u.shell sh).vec (cacheOp e 0).row (typeBits td) n =
            (zipRows (o.srcs.map fun k => cacheGet x (cacheOp e k).row (typeBits (cacheOp e k).type) n)).map fun xs =>
              o.elem x.fore td ts xs .near % 2 ^ typeBits td)) ∧
  (∀ (sh : Fin 64) (w e : Cmd) (s : State) (tid : Nat) (t : Task),
    let x := (s.shell sh).vec
    let n := vcount e
    Issues s sh tid t → Effective (natVcvt sh w) s sh tid t w e → Passes (vecHead x.fore e [0, 1]) s →
    Passes (cacheRange e 0 n) s → Passes (cacheRange e 1 n) s → Passes (cacheOverlap e 0 n 1 n) s →
      Does (.vcvt sh w) (natVcvt sh w) s sh t w fun u => (u.shell sh).vec = cvtRun sh e x ∧ EngineOnly sh s u) ∧
  (∀ z ∈ ([(.vred, natVred, [1]), (.vdot, natVdot, [1, 2])] :
      List ((Fin 64 → Cmd → Instr) × (Fin 64 → Cmd → Native) × List Nat)),
    ∀ (sh : Fin 64) (w e : Cmd) (s : State) (tid : Nat) (t : Task),
      let ks := z.2.2
      let red := if ks = [1] then cf e 20 19 else 0
      let x := (s.shell sh).vec
      let n := vcount e
      Issues s sh tid t → Effective (z.2.1 sh w) s sh tid t w e → red ≠ 3 → Passes (vecHead x.fore e (0 :: ks)) s →
      kindsFit ((cacheOp e 0).type :: ks.map fun k => (cacheOp e k).type) true = true →
      Passes (cacheRange e 0 1) s → (∀ k ∈ ks, Passes (cacheRange e k n) s ∧ Passes (cacheOverlap e 0 1 k n) s) →
        Does (z.1 sh w) (z.2.1 sh w) s sh t w fun u => (u.shell sh).vec = reduceRun sh red e ks x ∧ EngineOnly sh s u) ∧
  (∀ (sh : Fin 64) (w e : Cmd) (s : State) (tid : Nat) (t : Task),
    let x := (s.shell sh).vec
    let n := vcount e
    let p := cacheOp e 1
    let r := cacheOp e 3
    let rem : Bool := cf e 21 21 = 0
    Issues s sh tid t → Effective (natVupd sh w) s sh tid t w e → Passes (vecHead x.fore e (updOps e)) s →
    (p.type = tE9M6 ∨ p.type = tE8M7) → isFloat (cacheOp e 2).type = true →
    (∀ k ∈ updOps e, Passes (cacheRange e k n) s) → Passes (cacheOverlap e 1 n 2 n) s →
    (rem = true → r.type = tI16 ∧ x.fore = false ∧ Passes (cacheOverlap e 3 n 2 n) s ∧
      (p.row + rowsOf p.type n ≤ r.row ∨ r.row + rowsOf tI16 n ≤ p.row)) →
      Does (.vupd sh w) (natVupd sh w) s sh t w fun u => (u.shell sh).vec = updRun sh e x ∧ EngineOnly sh s u) ∧
  (∀ (sh : Fin 64) (w e : Cmd) (s : State) (tid : Nat) (t : Task), Issues s sh tid t →
    Effective (natVseed sh w) s sh tid t w e →
      Does (.vseed sh w) (natVseed sh w) s sh t w fun u =>
        (u.shell sh).vec = { (s.shell sh).vec with seed := e.opc, lanes := [], gens := [] } ∧ EngineOnly sh s u) ∧
  (∀ (sh : Fin 64) (w e : Cmd) (s : State) (tid : Nat) (t : Task), Issues s sh tid t →
    Effective (natVmode sh w) s sh tid t w e → immF e 7 0 ≤ 1 →
      Does (.vmode sh w) (natVmode sh w) s sh t w fun u =>
        (u.shell sh).vec = { (s.shell sh).vec with fore := decide (immF e 7 0 = 1) } ∧ EngineOnly sh s u) ∧
  (∀ (sh : Fin 64) (w e : Cmd) (s s1 s2 s3 s4 : State) (tid : Nat) (t : Task) (o : Operand)
    (es : List (Nat × Nat × Nat × Nat)) (xs us : List Nat),
    let x := (s.shell sh).vec
    let n := vcount e
    let deq : Bool := cf e 18 18 = 1
    let cs := firstElems o.d es n
    Issues s sh tid t → Effective (natVload sh w) s sh tid t w e → Passes (vecHead x.fore e [0]) s →
    Answers (takeOperand sh tid t.ctx e.form.toNat e.opb.toNat n 16 false) s o s →
    Answers (checkOperand sh tid t.ctx o false false (if deq then [2] else [0, 1])) s () s1 →
    Passes (vecTensor o.d n x.fore) s1 → (deq = true → isFloat (cacheOp e 0).type = true) →
    Passes (cacheRange e 0 n) s1 → Answers (readList sh o.d false) s1 es s2 →
    Answers (readFields sh t.ctx o.d.space o.d.shell 0 (elemWidth o.d.etype)
      (cs.map fun i => (bitAt o.d (offsetAt o.d i)).toNat)) s2 xs s3 →
    (deq = false → us = xs.map (fun _ => 0) ∧ s4 = s3) →
    (deq = true → Answers (readFields sh t.ctx o.d.space o.d.shell 0 8 (cs.map (scaleBit o.d))) s3 us s4) →
      Does (.vload sh w) (natVload sh w) s sh t w fun u =>
        (u.shell sh).vec = loadRun sh e o.d.etype xs us (s4.shell sh).vec ∧ EngineOnly sh s4 u) ∧
  (∀ (sh : Fin 64) (w e : Cmd) (s s1 s2 s3 : State) (tid : Nat) (t : Task) (o : Operand)
    (es : List (Nat × Nat × Nat × Nat)),
    let x := (s.shell sh).vec
    let n := vcount e
    let ys := (storeRun sh e o.d.etype (s2.shell sh).vec).1
    Issues s sh tid t → Effective (natVstore sh w) s sh tid t w e → Passes (vecHead x.fore e [1]) s →
    Answers (takeOperand sh tid t.ctx e.form.toNat e.opb.toNat n 16 true) s o s →
    Answers (checkOperand sh tid t.ctx o true false [0]) s () s1 →
    Passes (vecTensor o.d n x.fore) s1 → Passes (cacheRange e 1 n) s1 → Answers (readList sh o.d true) s1 es s2 →
    Answers (writeFields sh t.ctx o.d.space o.d.shell (elemWidth o.d.etype)
      (((firstElems o.d es n).zip ys).map fun z => ((bitAt o.d (offsetAt o.d z.1)).toNat, z.2))) s2 () s3 →
      Does (.vstore sh w) (natVstore sh w) s sh t w fun u =>
        (u.shell sh).vec = (storeRun sh e o.d.etype (s2.shell sh).vec).2 ∧
          (u.shell sh).vec.rows = (s2.shell sh).vec.rows ∧ EngineOnly sh s3 u)

/-- The encoder, the tensor commands, the cache, the windows and the hints (R203, R206–R212, R223, R224, R238–R241, R264–R270, R292,
R293, R296, R305, R365): where the operands' checks pass and their elements can be read and written, `ENCODE`, `TCOPY` and
`TPERM` complete with every element moved; an asynchronous copy enters its direction's queue; in maintenance state a handle
is filled and freed; an invalidation drops the whole cache, or the lines of a range; a window whose descriptor passes R207 is
opened in its entry and closed by its own task; and a hint is taken. -/
def Obligations.TensorCacheAndWindowCommands : Prop :=
  (∀ (sh : Fin 64) (w e : Cmd) (s : State) (tid : Nat) (t : Task) (re im : List (Int × Int)),
    let v := spLine s sh (afOf e 0)
    let d := encDescOf v
    let ch := chainOf t (encHdr d)
    let n := vecLines d.etype d.count
    let idx := if d.lform then setBits d.mask 64 else List.range (d.level + 1)
    let dst := afOf e 3
    let out := idx.length * limbLines d.logN + (if d.lform then 0 else 1)
    let cs := encodeCoeffs d (prodQ (ch.mods.take (d.level + 1))) re im
    let ls := idx.map fun j => encodeLimb (ch.mod j) ch.maxLogN d.logN cs
    Issues s sh tid t → Quiet s sh → Effective (natEncode sh w) s sh tid t w e → Within s sh tid t (afOf e 0) 1 →
    (d.lform && d.mask = 0) = false → encDescBad v = none → hdrFits t.snap (encHdr d) = true →
    (d.lform = true → d.mask < 2 ^ ch.K) → Within s sh tid t d.reLine n →
    (d.cplx = true → Within s sh tid t d.imLine n) → Within s sh tid t dst out →
    linesMeet (addrLine dst) out (addrLine d.reLine) n = none →
    (d.cplx = true → linesMeet (addrLine dst) out (addrLine d.imLine) n = none) →
    Answers (readVector sh d.etype d.reLine d.count d.xexp) s re s →
    (d.cplx = true → Answers (readVector sh d.etype d.imLine d.count d.xexp) s im s) → (d.cplx = false → im = []) →
      Does (.encode sh w) (natEncode sh w) s sh t w fun u =>
        (∀ j p, j ∈ idx → p = encodeLimb (ch.mod j) ch.maxLogN d.logN cs → p.length = cs.length) ∧
          (cs.length = 2 ^ d.logN → if d.lform then LimbsAt u sh (addrLine dst) d.logN ls
            else ObjectAt u sh dst (encHdr d) [ls]) ∧
          (cs.length = 2 ^ d.logN → OnlyLines sh (addrLine dst) out s u)) ∧
  (∀ (sh : Fin 64) (w e : Cmd) (s s1 s2 u : State) (tid : Nat) (t : Task) (a b : Operand),
    let form := e.form.toNat
    let n := immF e 23 0
    Issues s sh tid t → Effective (natTcopy sh w) s sh tid t w e →
    Answers (takeOperand sh tid t.ctx form e.opa.toNat n 8 false) s a s →
    Answers (checkOperand sh tid t.ctx a false true [0, 1, 2]) s () s1 →
    Answers (takeOperand sh tid t.ctx form e.opb.toNat n 16 true) s1 b s1 →
    Answers (checkOperand sh tid t.ctx b true true [0, 1, 2]) s1 () s2 → Passes (copyRules a.d b.d) s2 →
    Passes (overlapRule b.d a.d) s2 →
      (cf e 16 16 = 0 → Unstopped s2 sh → Answers (moveElems sh t.ctx 0 a.d b.d) s2 () u →
        Does (.tcopy sh w) (natTcopy sh w) s sh t w fun v => v = u) ∧
      (cf e 16 16 = 1 → counterFree s2 tid t.ctx (cf e 24 17) = true →
        (copyQueue (s2.shell sh) (inbound sh b.d)).length < copyMax →
        Does (.tcopy sh w) (natTcopy sh w) s sh t w fun v =>
          (∃ x, copyQueue (v.shell sh) (inbound sh b.d) = copyQueue (s2.shell sh) (inbound sh b.d) ++ [x] ∧
            x.cnt = cf e 24 17 ∧ x.src = a.d ∧ x.dst = b.d) ∧
          (v.shell sh).sp = (s2.shell sh).sp ∧ v.mem = s2.mem ∧ v.portA.host = s2.portA.host ∧
          v.portB.host = s2.portB.host)) ∧
  (∀ (sh : Fin 64) (w e : Cmd) (s s1 s2 u : State) (tid : Nat) (t : Task) (a b : Operand),
    let form := e.form.toNat
    let p := permOf e
    let k := permOp p a.d b.d
    let zs := permSwaps k
    Issues s sh tid t → Effective (natTperm sh w) s sh tid t w e → form ≠ 0 →
    Answers (takeOperand sh tid t.ctx form e.opa.toNat 0 8 false) s a s →
    Answers (checkOperand sh tid t.ctx a false true [0, 1]) s () s1 →
    Answers (takeOperand sh tid t.ctx form e.opb.toNat 0 16 true) s1 b s1 →
    Answers (checkOperand sh tid t.ctx b true true [0, 1]) s1 () s2 → Passes (permRules p a.d b.d) s2 →
    Passes (overlapRule b.d a.d) s2 → Unstopped s2 sh →
    (if coincide b.d a.d then
        permMoved p ≤ 2 ∧ Passes (needPlaces a.d.shell k.dest) s2 ∧
          Answers ((List.range zs.length).forM fun i => swapPair sh t.ctx a.d.space (zs.getD i (0, 0, 0, 0))) s2 () u
      else Answers ((List.range k.lines.length).forM (k.unit sh t.ctx 0)) s2 () u) →
      Does (.tperm sh w) (natTperm sh w) s sh t w fun v => v = u) ∧
  (∀ (sh : Fin 64) (w e : Cmd) (s u : State) (tid : Nat) (t : Task),
    let v := spLine s sh (afOf e 0)
    let d := descOf v
    Issues s sh tid t → Quiet s sh → Effective (natTdescCreate sh w) s sh tid t w e → (s.shell sh).maint = true →
    tfind (s.shell sh).handles (cf e 23 16) = none → Within s sh tid t (afOf e 0) 1 →
    Answers (checkDesc sh tid t.ctx (some v) d d.wr true [0, 1, 2]) s () u →
      Does (.tdescCreate sh w) (natTdescCreate sh w) s sh t w fun v =>
        (∃ rs, tfind (v.shell sh).handles (cf e 23 16) = some { ctx := t.ctx, d := d, regs := rs }) ∧
          (∀ j, j ≠ cf e 23 16 → tfind (v.shell sh).handles j = tfind (u.shell sh).handles j) ∧
          (v.shell sh).sp = (u.shell sh).sp ∧ v.mem = u.mem) ∧
  (∀ (sh : Fin 64) (w e : Cmd) (s : State) (tid : Nat) (t : Task), Issues s sh tid t →
    Effective (natTdescFree sh w) s sh tid t w e → (s.shell sh).maint = true →
      Does (.tdescFree sh w) (natTdescFree sh w) s sh t w fun v =>
        tfind (v.shell sh).handles (cf e 23 16) = none ∧
          (∀ j, j ≠ cf e 23 16 → tfind (v.shell sh).handles j = tfind (s.shell sh).handles j) ∧
          (v.shell sh).sp = (s.shell sh).sp ∧ OtherShells sh s v ∧ ShellsOnly s v) ∧
  (∀ (sh : Fin 64) (w e : Cmd) (s : State) (tid : Nat) (t : Task), Issues s sh tid t →
    Effective (natScacheInv sh w) s sh tid t w e → cf w 16 16 = 0 →
      Does (.scacheInv sh w) (natScacheInv sh w) s sh t w fun u =>
        (u.shell sh).tags = [] ∧ (u.shell sh).sp = (s.shell sh).sp ∧ OtherShells sh s u ∧ ShellsOnly s u ∧
          u.tasks = s.tasks) ∧
  (∀ (sh : Fin 64) (w e : Cmd) (s : State) (tid : Nat) (t : Task), Issues s sh tid t →
    Effective (natScacheInv sh w) s sh tid t w e → cf w 16 16 = 1 → (cf e 18 17 = 1 ∨ cf e 18 17 = 2) →
      let top := if cf e 18 17 = 1 then 2 ^ 39 else 2 ^ 57
      let a := e.opa.toNat
      Does (.scacheInv sh w) (natScacheInv sh w) s sh t w fun u =>
        u = (cacheDropRange sh t.ctx (cf e 18 17) a (min (a + e.opb.toNat) top - a) s).bump (shellCtr sh 89) ∧
          (u.shell sh).sp = (s.shell sh).sp ∧ (∀ x ∈ (u.shell sh).tags, x ∈ (s.shell sh).tags) ∧ OtherShells sh s u ∧
          ShellsOnly s u ∧ u.tasks = s.tasks) ∧
  (∀ (sh : Fin 64) (w e : Cmd) (s : State) (tid : Nat) (t : Task) (r : Region),
    let v := spLine s sh (afOf e 0)
    let base := bits v 11 0
    let len := bits v 24 12
    Issues s sh tid t → Quiet s sh → Effective (natWinOpen sh w) s sh tid t w e → Within s sh tid t (afOf e 0) 1 → len ≠ 0 →
    winBad (s.shell sh) v = none → oneRegion (s.shell sh) tid t.ctx (72 * 64 * base) (72 * 64 * (base + len)) = true →
    regionAt (s.shell sh) tid t.ctx (64 * base) = some r → (v.testBit 27 = true → r.scope = true) →
      Does (.winOpen sh w) (natWinOpen sh w) s sh t w fun u =>
        tfind (u.shell sh).windows (bits v 31 28) = some
            { base := base, len := len, rd := v.testBit 25, wr := v.testBit 26, keep := v.testBit 27,
              shells := BitVec.ofNat 64 (bits v 127 64), peers := BitVec.ofNat 64 (bits v 191 128), task := tid,
              ctx := t.ctx, inst := r.inst } ∧
          (∀ j, j ≠ bits v 31 28 → tfind (u.shell sh).windows j = tfind (s.shell sh).windows j) ∧
          (u.shell sh).sp = (s.shell sh).sp ∧ OtherShells sh s u ∧ ShellsOnly s u) ∧
  (∀ (sh : Fin 64) (w e : Cmd) (s : State) (tid : Nat) (t : Task),
    let k := cf e 19 16
    Issues s sh tid t → Effective (natWinClose sh w) s sh tid t w e → bootEntry (s.shell sh) k = false →
    (∀ x, tfind (s.shell sh).windows k = some x → x.task = tid ∨ (x.keep = true ∧ x.ctx = t.ctx)) →
      Does (.winClose sh w) (natWinClose sh w) s sh t w fun u =>
        tfind (u.shell sh).windows k = none ∧
          (∀ j, j ≠ k → tfind (u.shell sh).windows j = tfind (s.shell sh).windows j) ∧
          (u.shell sh).sp = (s.shell sh).sp ∧ OtherShells sh s u ∧ ShellsOnly s u) ∧
  (∀ (sh : Fin 64) (w e : Cmd) (s : State) (tid : Nat) (t : Task), Issues s sh tid t →
    Effective (natHint sh w) s sh tid t w e → (cf e 17 16 = 1 ∨ cf e 17 16 = 2) →
      Does (.hint sh w) (natHint sh w) s sh t w fun u =>
        u = takeHint sh t e s ∧ (u.shell sh).sp = (s.shell sh).sp ∧ u.mem = s.mem ∧ u.tasks = s.tasks)

/-! ## Rings, descriptors and tasks (10_host_interface_and_queues R331–R360) -/

/-- Doorbells and descriptors (R335–R338, R343, R637): in snoop delivery a snoop notifies its enabled ring and no other; in polling
delivery a poll notifies every enabled ring of the port; a line that was read gives the ring its `tail` and `chead` when both
pass their checks; a `tail` more than the ring's size ahead of `head` stops the ring with cause `OVERRUN`, and nothing is
fetched from it; and when the read of the ring's slots answers, every descriptor it holds is checked and becomes a task, and
`head` passes them. -/
def Obligations.DoorbellsAndDescriptors : Prop :=
  (∀ (p : Port) (f : Fin 32) (r : Fin 8) (s : State),
    (s.port p).snoop = true → ringLive (s.ring (ringKey p f r)) = true →
      Gives (.doorbellSnoop p f r) s fun t =>
        (t.ring (ringKey p f r)).notified = true ∧ t.tasks = s.tasks ∧
          ∀ j, j ≠ ringKey p f r → t.ring j = s.ring j) ∧
  (∀ (p : Port) (s : State), (s.port p).linkUp = true → (s.port p).snoop = false →
      Gives (.doorbellPoll p) s fun t =>
        t.tasks = s.tasks ∧ (∀ k ∈ portRings p, ringLive (s.ring k) = true → (t.ring k).notified = true) ∧
          ∀ k, ringLive (s.ring k) = false → t.ring k = s.ring k) ∧
  (∀ (p : Port) (f : Fin 32) (r : Fin 8) (s u : State) (bs : List Byte),
    let k := ringKey p f r
    (s.ring k).notified = true → ringLive (s.ring k) = true →
    (readMem .iod (s.ring k).ctx.toNat 2 (s.ring k).dbl.toNat 64 0).go
      (s.modRing k fun x => { x with notified := false }) = (.ok bs, u) →
    (BitVec.ofNat 32 (leNat (bs.take 4)) - (s.ring k).head).toNat ≤ 2 ^ (s.ring k).rlog.toNat →
    ((s.ring k).ctail - BitVec.ofNat 32 (leNat ((bs.drop 8).take 4))).toNat ≤ 2 ^ (s.ring k).clog.toNat →
      Gives (.doorbellLineRead p f r) s fun t =>
        (t.ring k).tail = BitVec.ofNat 32 (leNat (bs.take 4)) ∧
          (t.ring k).chead = BitVec.ofNat 32 (leNat ((bs.drop 8).take 4))) ∧
  (∀ (p : Port) (f : Fin 32) (r : Fin 8) (s u : State) (bs : List Byte),
    let k := ringKey p f r
    (s.ring k).notified = true → ringLive (s.ring k) = true →
    (readMem .iod (s.ring k).ctx.toNat 2 (s.ring k).dbl.toNat 64 0).go
      (s.modRing k fun x => { x with notified := false }) = (.ok bs, u) →
    2 ^ (s.ring k).rlog.toNat < (BitVec.ofNat 32 (leNat (bs.take 4)) - (s.ring k).head).toNat →
      Gives (.doorbellLineRead p f r) s fun t =>
        (t.ring k).stopped = true ∧ (t.ring k).cause = stopOverrun ∧
          Gives (.descriptorFetch p f r) t fun v => v = t) ∧
  (∀ (p : Port) (f : Fin 32) (r : Fin 8) (s u : State) (bs : List Byte),
    let k := ringKey p f r
    let x := s.ring k
    ringLive x = true → fetchCount s k ≠ 0 →
    (readMem .iod x.ctx.toNat 2 (x.rbase.toNat + 128 * (x.head.toNat % 2 ^ x.rlog.toNat)) (128 * fetchCount s k) 0).go s =
      (.ok bs, u) →
      Gives (.descriptorFetch p f r) s fun t =>
        t = acceptAll p f r (fetchCount s k) bs u ∧ (t.ring k).head = x.head + BitVec.ofNat 32 (fetchCount s k))

/-- Rings and task aborts (R331, R332, R348, R638): an enable that no rule refuses starts the ring at `head0` and `ctail0`; one that
is refused leaves it disabled with the reason; a disable stops fetching; an abort of a task that has not ended takes it to
`ENDING` with status 0x41. -/
def Obligations.RingControls : Prop :=
  (∀ (p : Port) (f : Fin 32) (r : Fin 8) (s : State),
    let k := ringKey p f r
    (s.ring k).active = false → ringRefusal s p f r = 0 →
      Gives (.ringEnable p f r) s fun t =>
        (t.ring k).active = true ∧ (t.ring k).en = true ∧ (t.ring k).stopped = false ∧
          (t.ring k).head = (s.ring k).head0 ∧ (t.ring k).ctail = (s.ring k).ctail0 ∧ (t.ring k).refuse = 0) ∧
  (∀ (p : Port) (f : Fin 32) (r : Fin 8) (s : State),
    let k := ringKey p f r
    (s.ring k).active = false → ringRefusal s p f r ≠ 0 →
      Gives (.ringEnable p f r) s fun t =>
        (t.ring k).active = false ∧ (t.ring k).refuse = ringRefusal s p f r) ∧
  (∀ (p : Port) (f : Fin 32) (r : Fin 8) (s : State),
      Gives (.ringDisable p f r) s fun t =>
        (t.ring (ringKey p f r)).en = false ∧ (t.ring (ringKey p f r)).active = false ∧ t.tasks = s.tasks) ∧
  (∀ (p : Port) (f : Fin 32) (r : Fin 8) (ix : BitVec 32) (s : State) (tid : Nat) (x : Task),
    s.findTask { port := p, fn := f, ring := r, index := ix } = some (tid, x) → tfind s.tasks tid = some x →
    x.st ≠ .ending → x.fault = none →
      Gives (.taskAbortControl p f r ix) s fun t =>
        ∃ y, tfind t.tasks tid = some y ∧ y.st = .ending ∧ y.fault.map (·.code) = some 0x41)

/-- Admission, pre-emption and resume (R313, R314, R344, R345, R350, R351): the task chosen for admission is `ADMITTED` at the
present Almanac count with a reserved completion entry and the chain table of its context as it stands; when every task that
holds a Shell of a waiting task may be pre-empted for it, each is asked to yield; a yielding task whose Shells have all
stopped is `PREEMPTED` with one yield more; and a pre-empted task that may run again is `RUNNING` again. -/
def Obligations.AdmissionPreemptionAndResume : Prop :=
  (∀ (s : State) (tid : Nat) (x : Task), nextAdmitted s = some (tid, x) →
    (s.mode.fixed = false ∨ x.kind ≠ 1 ∨ x.fixedProg = true) →
      Gives .taskAdmit s fun t =>
        ∃ y, tfind t.tasks tid = some y ∧ y.st = .admitted ∧ y.resv = true ∧ y.tAdmit = s.clk.alm ∧
          y.snap = (s.ctx x.ctx).chains) ∧
  (∀ (r : TaskRef) (s : State) (tid : Nat) (q : Task), s.findTask r = some (tid, q) → canAdmit s tid q = true →
    (holdersOf s q).all (fun h => mayPreempt s q h.2) = true →
      Gives (.preemptRequest r) s fun t =>
        ∀ h ∈ holdersOf s q, tfind s.tasks h.1 = some h.2 →
          ∃ y, tfind t.tasks h.1 = some y ∧ y.st = .yielding ∧ y.preReq = true) ∧
  (∀ (r : TaskRef) (s u : State) (tid : Nat) (x : Task), s.findTask r = some (tid, x) → tfind s.tasks tid = some x →
    x.st = .yielding → (heldBy s tid).all (stopped s) = true → ((heldBy s tid).forM (saveShell tid x)).go s = (.ok (), u) →
      Gives (.taskYield r) s fun t =>
        ∃ y, tfind t.tasks tid = some y ∧ y.st = .preempted ∧ y.yields = min (x.yields + 1) 255) ∧
  (∀ (r : TaskRef) (s u : State) (tid : Nat) (x : Task), s.findTask r = some (tid, x) → tfind s.tasks tid = some x →
    resumable s x = true →
    s.tasks.all (fun e => !(shareShell e.2 x && x.prio < e.2.prio && canAdmit s e.1 e.2)) = true →
    (resumeChecks tid x).go (retaken tid x s) = (.ok (), u) →
      Gives (.taskResume r) s fun t =>
        ∃ y, tfind t.tasks tid = some y ∧ y.st = .running ∧ y.saved = [])

/-- NOP, LOAD and the completion entry (R279, R321, R342, R354–R358): a NOP whose earlier tasks have completed ends without a fault;
the load service starts an admitted LOAD, which runs when its checks pass and is aborted when one fails; it carries a running
one to its end and brings one that yields to the end of the operation in hand; the entry of a task whose Shells have all
reported, and that no entry comes before, is written at `ctail`, the task is `DONE` and `ctail` passes it; with the link down
it is discarded and counted; and a coalescing timer that has run out raises the ring's vector. -/
def Obligations.TaskEndsAndCompletionEntries : Prop :=
  (∀ (r : TaskRef) (s : State) (tid : Nat) (x : Task), s.findTask r = some (tid, x) → tfind s.tasks tid = some x →
    x.kind = 3 → x.st = .waiting → (s.ring (ringOf r)).stopped = false → (tasksOf s (ringOf r)).all (fun e => tid ≤ e.1 || e.2.st = .done) = true →
      Gives (.nopTaskComplete r) s fun t =>
        ∃ y, tfind t.tasks tid = some y ∧ y.st = .ending ∧ y.fault = none) ∧
  (∀ (r : TaskRef) (s : State) (tid : Nat) (x : Task), s.findTask r = some (tid, x) → x.kind = 2 → x.st = .admitted →
    x.gate = none → x.preReq = false → coxRuns s = true →
      match (loadChecks x).go s with
      | (.ok z, u) => Gives (.loadTask r) s fun t =>
          t = setTaskState tid .running (u.modTask tid fun y => { y with load := some z, ranSince := u.clk.now })
      | (.error f, u) => Gives (.loadTask r) s fun t => t = abortTask tid f 0 noCmd u) ∧
  (∀ (r : TaskRef) (s : State) (tid : Nat) (x : Task) (z : LoadRun), s.findTask r = some (tid, x) → x.kind = 2 →
    x.st = .running → x.gate = none → x.load = some z → coxRuns s = true →
      match (loadWork x z).go s with
      | (.ok _, u) => Gives (.loadTask r) s fun t =>
          t = taskEnds tid (u.modTask tid fun y => { y with load := some { z with point := z.nops } })
      | (.error f, u) => Gives (.loadTask r) s fun t => t = abortTask tid f 0 noCmd u) ∧
  (∀ (r : TaskRef) (s : State) (tid : Nat) (x : Task) (z : LoadRun), s.findTask r = some (tid, x) →
    tfind s.tasks tid = some x → x.kind = 2 → x.st = .yielding → x.gate = none → x.load = some z →
      Gives (.loadTask r) s fun t =>
        t.mem = s.mem ∧ t.shells = s.shells ∧
          ∃ y, tfind t.tasks tid = some y ∧ y = { x with load := some { z with point := min z.nops (z.point + 1) } }) ∧
  (∀ (r : TaskRef) (s u : State) (tid : Nat) (x : Task),
    let k := ringOf r
    let g := s.ring k
    s.findTask r = some (tid, x) → tfind s.tasks tid = some x → x.st = .ending → x.reported = x.shells → x.resv = true →
    s.tasks.all (fun e => !(entryDue s e.2 && entryBefore e.1 e.2 tid x)) = true →
    (s.port r.port).linkUp = true →
    (writeMem .iod x.ctx 2 (g.cbase.toNat + 64 * (g.ctail.toNat % 2 ^ g.clog.toNat))
      (leBytes 64 (entryOf x s.clk.alm g))).go s = (.ok (), u) →
      Gives (.completionEntryWrite r) s fun t =>
        (t.ring k).ctail = g.ctail + 1 ∧ ∃ y, tfind t.tasks tid = some y ∧ y.st = .done) ∧
  (∀ (r : TaskRef) (s : State) (tid : Nat) (x : Task),
    let k := ringOf r
    s.findTask r = some (tid, x) → tfind s.tasks tid = some x → x.st = .ending → x.reported = x.shells → x.resv = true →
    s.tasks.all (fun e => !(entryDue s e.2 && entryBefore e.1 e.2 tid x)) = true →
    (s.port r.port).linkUp = false →
      Gives (.completionEntryWrite r) s fun t =>
        (t.ring k).ctail = (s.ring k).ctail ∧ (t.ring k).discards = (s.ring k).discards + 1 ∧
          t.mem = s.mem ∧ t.portA.host = s.portA.host ∧ t.portB.host = s.portB.host ∧
          ∃ y, tfind t.tasks tid = some y ∧ y.st = .done) ∧
  (∀ (p : Port) (f : Fin 32) (r : Fin 8) (s : State) (c : Nat),
    let k := ringKey p f r
    (s.ring k).uncovSince = some c → (s.ring k).coalUs ≠ 0 → 1000 * (s.ring k).coalUs.toNat ≤ s.since c →
      Gives (.coalesceTimer p f r) s fun t =>
        (t.ring k).uncov = 0 ∧ (t.ring k).uncovSince = none ∧
          t.fns = (raise p f (s.ring k).vector.toNat s).fns)

/-- Contexts and quotas (R323, R325, R328, R548, R632): a free identifier other than 0 is created for the function, empty, and one that
is 0 or taken, or a VF's beyond its quota, is refused; a live context of the function that nothing uses is destroyed with its
windows, its handles and its key-store slots, and one that is in use or another function's is refused; an invalidation leaves
its translation cache empty and the rest of it as it was; and a PF's write of eight quotas is made when the VFs' quotas then
sum to 255 at most, and nothing is changed otherwise, nor by a VF. -/
def Obligations.ContextsAndQuotas : Prop :=
  (∀ (p : Port) (f : Fin 32) (id : Fin 256) (s : State), id.val ≠ 0 → (s.ctx id).live = false →
    (f.val = 0 ∨ ctxCount s p f < quotaOf s p f) →
      Gives (.ctxCreate p f id) s fun t =>
        (t.ctx id) = { Ctx.reset with live := true, port := p, fn := f.val } ∧
          (t.fn (fnKey p f)).ctxSt = ctxDone ∧ (∀ j, j ≠ id.val → t.ctx j = s.ctx j) ∧ t.tasks = s.tasks ∧ t.mem = s.mem) ∧
  (∀ (p : Port) (f : Fin 32) (id : Fin 256) (s : State),
      (id.val = 0 ∨ (s.ctx id).live = true →
        Gives (.ctxCreate p f id) s fun t => (t.fn (fnKey p f)).ctxSt = ctxRefusedId ∧ t.ctxs = s.ctxs) ∧
      (id.val ≠ 0 → (s.ctx id).live = false → f.val ≠ 0 → quotaOf s p f ≤ ctxCount s p f →
        Gives (.ctxCreate p f id) s fun t => (t.fn (fnKey p f)).ctxSt = ctxRefusedQuota ∧ t.ctxs = s.ctxs) ∧
      ((s.ctx id).live = false →
        Gives (.ctxDestroy p f id) s (fun t => (t.fn (fnKey p f)).ctxSt = ctxRefusedId ∧ t.ctxs = s.ctxs) ∧
          Gives (.ctxTlbInvalidate p f id) s fun t => (t.fn (fnKey p f)).ctxSt = ctxRefusedId ∧ t.ctxs = s.ctxs) ∧
      ((s.ctx id).live = true → seesCtx (s.ctx id) p f = false →
        Gives (.ctxDestroy p f id) s (fun t => (t.fn (fnKey p f)).ctxSt = ctxRefusedOwner ∧ t.ctxs = s.ctxs) ∧
          Gives (.ctxTlbInvalidate p f id) s fun t => (t.fn (fnKey p f)).ctxSt = ctxRefusedOwner ∧ t.ctxs = s.ctxs) ∧
      (seesCtx (s.ctx id) p f = true → ctxBusy s id = true →
        Gives (.ctxDestroy p f id) s fun t => (t.fn (fnKey p f)).ctxSt = ctxRefusedBusy ∧ t.ctxs = s.ctxs)) ∧
  (∀ (p : Port) (f : Fin 32) (id : Fin 256) (s : State), seesCtx (s.ctx id) p f = true → ctxBusy s id = false →
      Gives (.ctxDestroy p f id) s fun t =>
        (t.ctx id).live = false ∧ (t.fn (fnKey p f)).ctxSt = ctxDone ∧ (∀ j, j ≠ id.val → t.ctx j = s.ctx j) ∧
          (∀ L, ∀ e ∈ (t.shell L).windows, e.2.ctx ≠ id.val) ∧ (∀ L, ∀ e ∈ (t.shell L).handles, e.2.ctx ≠ id.val) ∧
          (∀ e ∈ t.sec.ks, e.2.ctx ≠ id.val) ∧ t.tasks = s.tasks ∧ t.mem = s.mem) ∧
  (∀ (p : Port) (f : Fin 32) (id : Fin 256) (s : State), seesCtx (s.ctx id) p f = true →
      Gives (.ctxTlbInvalidate p f id) s fun t =>
        t.ctx id = { s.ctx id with tlb := [] } ∧ (t.fn (fnKey p f)).ctxSt = ctxDone ∧
          (∀ j, j ≠ id.val → t.ctx j = s.ctx j) ∧ t.tasks = s.tasks ∧ t.mem = s.mem) ∧
  (∀ (p : Port) (f : Fin 32) (i : Fin 4) (v : BitVec 64) (s : State), f.val = 0 →
    let v' := if i.val = 0 then v &&& ~~~ 0xFF#64 else v
    let q := ((s.port p).quota &&& ~~~ ((BitVec.allOnes 64).setWidth 256 <<< (64 * i.val))) |||
      (v'.setWidth 256 <<< (64 * i.val))
    (quotaSum q ≤ 255 →
      Gives (.quotaWrite p f i v) s fun t =>
        (t.port p).quota.extractLsb' (64 * i.val) 64 = v' ∧ quotaSum (t.port p).quota ≤ 255 ∧
          (∀ j : Fin 4, j ≠ i →
            (t.port p).quota.extractLsb' (64 * j.val) 64 = (s.port p).quota.extractLsb' (64 * j.val) 64) ∧
          t.port (otherPort p) = s.port (otherPort p) ∧ t.ctxs = s.ctxs ∧ t.tasks = s.tasks) ∧
    (255 < quotaSum q → Gives (.quotaWrite p f i v) s fun t => t = s)) ∧
  (∀ (p : Port) (f : Fin 32) (i : Fin 4) (v : BitVec 64) (s : State), f.val ≠ 0 →
    Gives (.quotaWrite p f i v) s fun t => t = s)

/-- Semaphores and the execution mode (R362, R363, R453, R454, R599): a PF's claim of a free semaphore takes it, a tie goes to the
port that lost the last one, only the owner's release frees it, and a link down for 100 ms frees its port's; a request of
the PF that holds semaphore 5 starts the mode procedure, before readiness a request for fixed mode is refused with the
reason START, and the change is made once no task holds it back and no condition of R453 fails. -/
def Obligations.SemaphoresAndMode : Prop :=
  (∀ (p : Port) (f : Fin 32) (k : Fin 6) (s : State), f.val = 0 → (s.sem k).owner = none →
      Gives (.semaphoreClaim p f k false) s fun t => t.holds p k = true ∧ (t.sem k).tie = (s.sem k).tie) ∧
  (∀ (p : Port) (f : Fin 32) (k : Fin 6) (s : State), f.val = 0 → (s.sem k).owner = none →
      Gives (.semaphoreClaim p f k true) s fun t =>
        t.holds (s.sem k).tie k = true ∧ (t.sem k).tie = otherPort (s.sem k).tie) ∧
  (∀ (p : Port) (f : Fin 32) (k : Fin 6) (s : State), f.val = 0 → s.holds p k = true →
      Gives (.semaphoreRelease p f k) s fun t => (t.sem k).owner = none) ∧
  (∀ (p : Port) (f : Fin 32) (k : Fin 6) (s : State), (f.val ≠ 0 ∨ s.holds p k = false) →
      Gives (.semaphoreRelease p f k) s fun t => t = s) ∧
  (∀ (k : Fin 6) (s : State) (p : Port) (c : Nat), (s.sem k).owner = some p → (s.port p).downSince = some c →
    100000000 ≤ s.since c → Gives (.semaphoreLinkTimeout k) s fun t => (t.sem k).owner = none) ∧
  (∀ (p : Port) (f : Fin 32) (s : State), f.val = 0 → s.holds p 5 = true → s.mode.busy = false → isReady s = true →
      Gives (.fixedModeRequest p f) s fun t => t.mode = { s.mode with fixedReq := true, busy := true }) ∧
  (∀ (p : Port) (f : Fin 32) (s : State), f.val = 0 → s.holds p 5 = true → s.mode.busy = false → isReady s = false →
      Gives (.fixedModeRequest p f) s fun t => t.mode.busy = false ∧ t.mode.fixed = s.mode.fixed ∧ t.mode.cause = modeStart) ∧
  (∀ (p : Port) (f : Fin 32) (s : State), f.val = 0 → s.holds p 5 = true → s.mode.busy = false →
      Gives (.freeModeRequest p f) s fun t => t.mode = { s.mode with fixedReq := false, busy := true }) ∧
  (∀ (s : State), s.mode.busy = true → s.tasks.any (fun e => modeHolds e.2) = false →
      Gives .modeChange s fun t =>
        t.mode.busy = false ∧ t.mode.fixed = (if s.mode.fixedReq then s.mode.fixed || modeRefusal s == 0 else false) ∧
          t.mode.cause = (if s.mode.fixedReq then modeRefusal s else 0))

/-- Links and host accesses (R317, R319, R321, R328, R419): a port that may train comes up with what both sides offer; a link that
goes down disables snooping, drops its translations and stops its rings; a host write to memory takes effect; a held access
runs out after 1 ms; and an invalidated page leaves the port's translation cache. -/
def Obligations.LinksAndHostAccesses : Prop :=
  (∀ (p : Port) (o : Partner) (s : State), mayTrain s p = true →
      Gives (.linkTraining p o) s fun t =>
        (t.port p).linkUp = true ∧ (t.port p).pmode = trainedMode o ∧ (t.port p).downSince = none ∧
          (t.port p).snoop = (trainedMode o == 1 || trainedMode o == 3)) ∧
  (∀ (p : Port) (s : State), (s.port p).linkUp = true →
      Gives (.linkDown p) s fun t =>
        (t.port p).linkUp = false ∧ (t.port p).snoop = false ∧ (t.port p).atsCache = [] ∧
          (t.port p).downSince = some s.clk.now ∧
          ∀ k ∈ portRings p, ringLive (s.ring k) = true → (t.ring k).stopped = true ∧ (t.ring k).cause = stopLink) ∧
  (∀ (p : Port) (addr : Nat) (bs : List Byte) (s u : State), addr + bs.length ≤ 2 ^ 38 → hostPath s p = true →
    hostHeld s p = false → storeQuiet .iod addr bs s = u →
      Gives (.hostMemoryAccess p { addr := addr, acc := .write bs }) s fun t =>
        t.mem = u.mem ∧ t.stackTab = u.stackTab ∧ (t.port p).answer = .done) ∧
  (∀ (p : Port) (addr n : Nat) (bs : List Byte) (s u : State), addr + n ≤ 2 ^ 38 → hostPath s p = true →
    hostHeld s p = false → (stackRead .iod 2 addr n).go s = (.ok bs, u) →
      Gives (.hostMemoryAccess p { addr := addr, acc := .read n }) s fun t => (t.port p).answer = .data bs) ∧
  (∀ (p : Port) (s : State),
      Gives (.hostAccessHoldTimeout p) s fun t =>
        (t.port p).heldAcc = (s.port p).heldAcc.filter fun h => !(decide (1000000 ≤ s.since h.since))) ∧
  (∀ (p : Port) (page : Nat) (s : State),
      Gives (.atsInvalidation p page) s fun t =>
        (∀ e, e ∈ (t.port p).atsCache ↔ e ∈ (s.port p).atsCache ∧ e.covers page = false) ∧ t.mem = s.mem ∧ t.tasks = s.tasks)

/-- Device physical addresses at or above 2^38 name no memory (R399): a host access, a read, a write and an accumulate write that
reach one stop with that fault. -/
def Obligations.NoSuchAddressStops : Prop :=
  (∀ (p : Port) (a : MemAccess) (s : State), 2 ^ 38 < a.addr + accessLen a.acc →
      exec (.hostMemoryAccess p a) s = .fault .noSuchAddress) ∧
  (∀ (q : StackReq) (a n : Nat) (s : State), 2 ^ 38 < a + n → exec (.stackRead q a n) s = .fault .noSuchAddress) ∧
  (∀ (q : StackReq) (a : Nat) (bs : List Byte) (s : State), 2 ^ 38 < a + bs.length →
      exec (.stackWrite q a bs) s = .fault .noSuchAddress) ∧
  (∀ (q : StackReq) (a : Nat) (bs : List Byte) (s : State), 2 ^ 38 < a + bs.length →
      exec (.accumulateWrite q a bs) s = .fault .noSuchAddress)

/-! ## Synchronisation and debugging (11_streaming_and_synchronisation R371–R395, 17_debug_counters_errors R573–R584) -/

/-- Sync counters (R371–R376): `SCNT` is a release, its update reaches the unit later; `SWAIT` goes on when (counter − threshold)
mod 2^32 < 2^31 and blocks its Shell otherwise; both hold the counter for their task, and a counter that another live task
holds aborts with 0x11; the updates that have arrived are applied one at a time, Shells in ascending order, then the
debugger, copies and vigils; no other counter changes, and a running task's Shell that waits for the value they leave
resumes behind its `SWAIT`. -/
def Obligations.SyncCounters : Prop :=
  (∀ (sh : Fin 64) (w : Cmd) (s : State) (tid : Nat) (t : Task), Issues s sh tid t → cmdBad encScnt w = none →
    counterFree s tid t.ctx (cf w 23 16) = true →
      Gives (.scnt sh w) s fun v =>
        (v.shell sh).stroke.rel =
            (s.shell sh).stroke.rel ++ [(s.nextId, .count (cf w 23 16) (decide (cf w 24 24 = 1)) w.imm)] ∧
          (v.shell sh).stroke.idx = (s.shell sh).stroke.idx + 1 ∧
          counterOf v t.ctx (cf w 23 16) = { counterOf s t.ctx (cf w 23 16) with holder := some tid } ∧
          (∀ c k, ¬ (c = t.ctx ∧ k = cf w 23 16) → counterOf v c k = counterOf s c k) ∧
          v.inbox = s.inbox ∧ v.mem = s.mem ∧ v.tasks = s.tasks ∧ OtherShells sh s v) ∧
  (∀ (sh : Fin 64) (w : Cmd) (s : State) (tid : Nat) (t : Task), Issues s sh tid t → cmdBad encSwait w = none →
    counterFree s tid t.ctx (cf w 23 16) = true →
      Gives (.swait sh w) s fun v =>
        (if (((counterOf s t.ctx (cf w 23 16)).v - w.imm).toNat < 2 ^ 31) then
          (v.shell sh).stroke.wait = .none ∧ (v.shell sh).stroke.idx = (s.shell sh).stroke.idx + 1
        else (v.shell sh).stroke.wait = .counter (cf w 23 16) w.imm s.clk.now ∧
          (v.shell sh).stroke.idx = (s.shell sh).stroke.idx) ∧
          counterOf v t.ctx (cf w 23 16) = { counterOf s t.ctx (cf w 23 16) with holder := some tid } ∧
          v.mem = s.mem ∧ v.tasks = s.tasks ∧ OtherShells sh s v) ∧
  (∀ (sh : Fin 64) (w : Cmd) (s : State) (tid h : Nat) (t x : Task), Issues s sh tid t → cmdBad encScnt w = none →
    (counterOf s t.ctx (cf w 23 16)).holder = some h → h ≠ tid → tfind s.tasks h = some x → x.st ≠ .done →
      Gives (.scnt sh w) s fun v =>
        v = abortTask tid { code := 0x11, detail := cf w 23 16 } sh (s.shell sh).stroke.idx s) ∧
  (∀ (sh : Fin 64) (s : State) (tid n k : Nat) (set_ : Bool) (d : BitVec 32) (rest : List (Nat × Release)) (t : Task),
    (s.shell sh).stroke.rel = (n, .count k set_ d) :: rest → (s.shell sh).holder = some tid → tfind s.tasks tid = some t →
    pinOpen s sh (some n) = false →
      Gives (.releaseTakesEffect sh) s fun v =>
        (v.shell sh).stroke.rel = rest ∧
          v.inbox = s.inbox ++ [{ ctx := t.ctx, cnt := k, src := .shell sh.val, set := set_, v := d }] ∧
          v.ctxs = s.ctxs ∧ v.tasks = s.tasks ∧ v.mem = s.mem ∧ OtherShells sh s v) ∧
  (∀ (sh : Fin 64) (s : State) (tid n k : Nat) (rest : List (Nat × Release)) (t : Task),
    (s.shell sh).stroke.rel = (n, .arrive k) :: rest → (s.shell sh).holder = some tid → tfind s.tasks tid = some t →
    pinOpen s sh (some n) = false →
      Gives (.releaseTakesEffect sh) s fun v =>
        v = arrive tid sh k (s.modShell sh fun x => { x with stroke := { x.stroke with rel := rest } })) ∧
  (∀ (c k : Fin 256) (s : State),
    let mine := fun (u : Update) => decide (u.ctx = c.val) && decide (u.cnt = k.val)
    let us := (s.inbox.filter mine).foldl (fun a u => insertUpdate u a) []
    us ≠ [] →
      Gives (.syncCounterUpdate c k) s fun v =>
        v.inbox = s.inbox.filter (fun u => !mine u) ∧
          (counterOf v c k).v = us.foldl (fun x u => if u.set then u.v else x + u.v) (counterOf s c k).v ∧
          (∀ d j, ¬ (d = c.val ∧ j = k.val) → counterOf v d j = counterOf s d j) ∧ v.mem = s.mem ∧
          ∀ (L tid : Nat) (t : Task) (thr : BitVec 32) (n : Nat), (s.shell L).holder = some tid → L < 64 →
            tfind s.tasks tid = some t → t.st = .running → t.ctx = c.val → t.shells.getLsbD L = true →
            (s.shell L).stroke.wait = .counter k thr n → atLeast (counterOf v c k).v thr = true →
              (v.shell L).stroke.wait = .none ∧ (v.shell L).stroke.idx = (s.shell L).stroke.idx + 1) ∧
  (∀ (u x : Update) (r : List Update),
    insertUpdate u (x :: r) = if srcRank x.src ≤ srcRank u.src then x :: insertUpdate u r else u :: x :: r) ∧
  srcRank (.shell 63) < srcRank .debug ∧ srcRank .debug < srcRank (.copy 0) ∧ srcRank (.copy 63) < srcRank (.vigil 0)

/-- Catch lines (R378–R381): an arrive is a release; a wait goes on when the Shell's last arrival belongs to a completed generation and
blocks otherwise; both together arrive and wait; neither, or a line that a running `BOOT` has taken, aborts with 0x01; and the
generation completes, with every flag cleared, when the last member's flag sets. -/
def Obligations.CatchLines : Prop :=
  (∀ (sh : Fin 64) (w : Cmd) (s : State) (tid : Nat) (t : Task), Issues s sh tid t → cmdBad encCatch w = none →
    tfind s.tasks tid = some t → (t.bootRun = true → cf w 19 16 < 14) → cf w 21 20 = 1 →
    arriveHeld s sh t (cf w 19 16) = false →
      Gives (.catch sh w) s fun v =>
        (v.shell sh).stroke.rel = (s.shell sh).stroke.rel ++ [(s.nextId, .arrive (cf w 19 16))] ∧
          (v.shell sh).stroke.idx = (s.shell sh).stroke.idx + 1 ∧ (v.shell sh).stroke.wait = .none ∧
          v.mem = s.mem ∧ OtherShells sh s v) ∧
  (∀ (sh : Fin 64) (w : Cmd) (s : State) (tid : Nat) (t : Task), Issues s sh tid t → cmdBad encCatch w = none →
    tfind s.tasks tid = some t → (t.bootRun = true → cf w 19 16 < 14) → cf w 21 20 = 2 →
      let l := tget CatchLine.reset t.lines (cf w 19 16)
      Gives (.catch sh w) s fun v =>
        (if tget 0 l.last sh.val ≤ l.g.toNat then
          (v.shell sh).stroke.wait = .none ∧ (v.shell sh).stroke.idx = (s.shell sh).stroke.idx + 1
        else (v.shell sh).stroke.wait = .line (cf w 19 16) s.clk.now ∧
          (v.shell sh).stroke.idx = (s.shell sh).stroke.idx) ∧
          v.tasks = s.tasks ∧ v.mem = s.mem ∧ OtherShells sh s v) ∧
  (∀ (sh : Fin 64) (w : Cmd) (s : State) (tid : Nat) (t : Task), Issues s sh tid t → cmdBad encCatch w = none →
    tfind s.tasks tid = some t → (t.bootRun = true → cf w 19 16 < 14) → cf w 21 20 = 3 →
    arriveHeld s sh t (cf w 19 16) = false →
      Gives (.catch sh w) s fun v =>
        (v.shell sh).stroke.rel = (s.shell sh).stroke.rel ++ [(s.nextId, .arrive (cf w 19 16))] ∧
          (v.shell sh).stroke.wait = .line (cf w 19 16) s.clk.now ∧
          (v.shell sh).stroke.idx = (s.shell sh).stroke.idx ∧ v.mem = s.mem ∧ OtherShells sh s v) ∧
  (∀ (sh : Fin 64) (w : Cmd) (s : State) (tid : Nat) (t : Task), Issues s sh tid t → cmdBad encCatch w = none →
    (cf w 21 20 = 0 ∨ (t.bootRun = true ∧ 14 ≤ cf w 19 16)) →
      Gives (.catch sh w) s fun v =>
        v = abortTask tid { code := 0x01, detail := detail01 0 1 2 } sh (s.shell sh).stroke.idx s) ∧
  (∀ (L : Fin 64) (s : State) (tid k : Nat) (t : Task), tfind s.tasks tid = some t →
    let l := tget CatchLine.reset t.lines k
    ∃ y, tfind (arrive tid L k s).tasks tid = some y ∧
      ((∀ M, M < 64 → isMember s t M = true → M = L.val ∨ l.flags.getLsbD M = true) →
        (tget CatchLine.reset y.lines k).g = l.g + 1 ∧ (tget CatchLine.reset y.lines k).flags = 0) ∧
      (∀ M, M < 64 → isMember s t M = true → M ≠ L.val → l.flags.getLsbD M = false →
        (tget CatchLine.reset y.lines k).g = l.g ∧
          (tget CatchLine.reset y.lines k).flags = l.flags ||| (1#64 <<< L.val)))

/-- Vigils (R382–R386): `VIGIL` registers one when its checks pass; `VIGIL_DROP` takes out a vigil of its own task and leaves any other;
a firing adds its value to the target counter or writes its message, raises the threshold by the step or spends the vigil,
and a message that cannot be written aborts the task. -/
def Obligations.Vigils : Prop :=
  (∀ (sh : Fin 64) (w e : Cmd) (s s1 : State) (tid : Nat) (t : Task),
    let k := vigilKey (dieOf sh) (cf e 25 16)
    let x := vigilOf tid t e
    Issues s sh tid t → Effective (natVigil sh w) s sh tid t w e → vigilBad x = none → tfind s.vigils k = none →
    (x.cond ≠ 2 → counterFree s tid t.ctx x.wcnt = true) → (x.act ≠ 2 → counterFree s tid t.ctx x.tcnt = true) →
    (x.act = 1 → s1 = s) → (x.act ≠ 1 → Answers (writable (.shell sh) t.ctx x.space x.maddr 8) s () s1) →
      Does (.vigil sh w) (natVigil sh w) s sh t w fun u =>
        (∃ y, tfind u.vigils k = some y ∧ y.task = tid ∧ y.thr = x.thr ∧ y.act = x.act ∧
          (y.due = true → x.due = true ∨ vigilHolds s1 x = true)) ∧
          (∀ j, j ≠ k → tfind u.vigils j = tfind s1.vigils j) ∧
          (x.cond ≠ 2 → (counterOf u t.ctx x.wcnt).holder = some tid) ∧
          (x.act ≠ 2 → (counterOf u t.ctx x.tcnt).holder = some tid) ∧ u.mem = s1.mem ∧ u.shells = s1.shells) ∧
  (∀ (sh : Fin 64) (w : Cmd) (s : State) (tid : Nat) (t : Task), Issues s sh tid t → cmdBad encVigilDrop w = none →
      let k := vigilKey (dieOf sh) (cf w 25 16)
      Gives (.vigilDrop sh w) s fun v =>
        (∀ x, tfind s.vigils k = some x → tfind v.vigils k = if x.task = tid then none else some x) ∧
          (tfind s.vigils k = none → v.vigils = s.vigils) ∧
          (∀ j, j ≠ k → tfind v.vigils j = tfind s.vigils j) ∧
          (v.shell sh).stroke.idx = (s.shell sh).stroke.idx + 1 ∧ v.mem = s.mem ∧ OtherShells sh s v) ∧
  (∀ (d : Fin 2) (n : Fin 1024) (s : State) (x : Vigil),
    let k := vigilKey d n
    tfind s.vigils k = some x → x.due = true → x.armed = true → x.act = 1 →
      Gives (.vigilFire d n) s fun v =>
        counterOf v x.ctx x.tcnt = { counterOf s x.ctx x.tcnt with v := (counterOf s x.ctx x.tcnt).v + x.addv } ∧
          v.mem = s.mem ∧ v.portA.host = s.portA.host ∧ v.portB.host = s.portB.host ∧
          ∃ y, tfind v.vigils k = some y ∧ y.spent = decide (x.step = 0) ∧ y.thr = x.thr + BitVec.ofNat 32 x.step) ∧
  (∀ (d : Fin 2) (n : Fin 1024) (s u : State) (x : Vigil),
    let k := vigilKey d n
    let x' : Vigil := { x with due := false, spent := x.step = 0, thr := x.thr + BitVec.ofNat 32 x.step }
    tfind s.vigils k = some x → x.due = true → x.armed = true → x.act = 2 →
    (writeMem (.agent (k / 1024)) x.ctx x.space x.maddr (vigilMessage k x)).go { s with vigils := tset s.vigils k x' } = (.ok (), u) →
      Gives (.vigilFire d n) s fun v => v.mem = u.mem ∧ v.portA.host = u.portA.host ∧ v.portB.host = u.portB.host) ∧
  (∀ (d : Fin 2) (n : Fin 1024) (s u : State) (x : Vigil) (f : Flt),
    let k := vigilKey d n
    let x' : Vigil := { x with due := false, spent := x.step = 0, thr := x.thr + BitVec.ofNat 32 x.step }
    tfind s.vigils k = some x → x.due = true → x.armed = true → x.act = 2 →
    (writeMem (.agent (k / 1024)) x.ctx x.space x.maddr (vigilMessage k x)).go { s with vigils := tset s.vigils k x' } = (.error f, u) →
      Gives (.vigilFire d n) s fun v => v = evalVigils (fun y => y = x') (abortTask x.task f 0 noCmd u))

/-- Stalls and the debugger's hand-set actions (R392–R394, R644): a stall is reported with cause 8 and changes nothing in the task's
Shells; the PF that holds semaphore 3 sets a counter, forces an arrival or a generation, fires and drops a vigil; without the
semaphore nothing happens. -/
def Obligations.StallAndHandSetActions : Prop :=
  (∀ (r : TaskRef) (s : State) (tid : Nat) (x : Task), s.findTask r = some (tid, x) → tfind s.tasks tid = some x →
    x.st = .running → (s.port r.port).hangUs.toNat ≠ 0 → x.stalled = false →
    (heldBy s tid).filter (fun L => !x.ended.getLsbD L) ≠ [] →
    (∀ L ∈ (heldBy s tid).filter (fun L => !x.ended.getLsbD L), ∃ c, waitSince (s.shell L).stroke.wait = some c ∧
      1000 * (s.port r.port).hangUs.toNat < s.since c) →
      Gives (.stallReport r) s fun t =>
        (t.fn (fnKey r.port r.fn)).cause.getLsbD 8 = true ∧ t.shells = s.shells ∧ t.mem = s.mem ∧
          ∃ y, tfind t.tasks tid = some y ∧ y.stalled = true ∧ y.st = .running) ∧
  (∀ (p : Port) (f : Fin 32) (s : State), f.val = 0 → s.holds p 3 = true → s.dbg.act.toNat = 1 →
      let c := s.dbg.ctx.toNat
      let k := s.dbg.obj.toNat
      Gives (.debugSetCounter p f) s fun t =>
        t.inbox = s.inbox ++ [{ ctx := c, cnt := k, src := .debug, set := true, v := s.dbg.value.setWidth 32 }] ∧
          t.dbg.noeff = ((counterOf s c k).holder.filter (alive s)).isNone ∧ t.shells = s.shells ∧
          t.mem = s.mem) ∧
  (∀ (p : Port) (f : Fin 32) (s : State) (tid : Nat) (x : Task), f.val = 0 → s.holds p 3 = true →
    s.dbg.act.toNat = 2 → debugTask s = some (tid, x) → isMember s x s.dbg.lshell.toNat = true →
      let k := (s.dbg.obj.extractLsb' 0 4).toNat
      Gives (.debugForceArrival p f) s fun t =>
        t = arrive tid s.dbg.lshell.toNat k
          (handSet p x.ctx k (if (tget CatchLine.reset x.lines k).flags.getLsbD s.dbg.lshell.toNat then 1 else 0) 1
            (some tid) s)) ∧
  (∀ (p : Port) (f : Fin 32) (s : State) (tid : Nat) (x : Task), f.val = 0 → s.holds p 3 = true →
    s.dbg.act.toNat = 3 → debugTask s = some (tid, x) → tfind s.tasks tid = some x →
      let k := (s.dbg.obj.extractLsb' 0 4).toNat
      Gives (.debugForceGeneration p f) s fun t =>
        ∃ y, tfind t.tasks tid = some y ∧
          (tget CatchLine.reset y.lines k).g = (tget CatchLine.reset x.lines k).g + 1 ∧
          (tget CatchLine.reset y.lines k).flags = 0 ∧ y.exact = false ∧ t.dbg.noeff = false) ∧
  (∀ (p : Port) (f : Fin 32) (s : State) (v : Vigil), f.val = 0 → s.holds p 3 = true → s.dbg.act.toNat = 4 →
    tfind s.vigils (debugVigil s) = some v → v.act = 1 →
      Gives (.debugFireVigil p f) s fun t =>
        (counterOf t v.ctx v.tcnt).v = (counterOf s v.ctx v.tcnt).v + v.addv ∧ t.dbg.noeff = false) ∧
  (∀ (p : Port) (f : Fin 32) (s : State) (v : Vigil), f.val = 0 → s.holds p 3 = true → s.dbg.act.toNat = 5 →
    tfind s.vigils (debugVigil s) = some v →
      Gives (.debugDropVigil p f) s fun t =>
        tfind t.vigils (debugVigil s) = none ∧ (∀ j, j ≠ debugVigil s → tfind t.vigils j = tfind s.vigils j) ∧
          t.dbg.noeff = false ∧ t.mem = s.mem ∧ t.ctxs = s.ctxs) ∧
  (∀ (p : Port) (f : Fin 32) (s : State), (f.val ≠ 0 ∨ s.holds p 3 = false) →
      Gives (.debugSetCounter p f) s (fun t => t = s) ∧ Gives (.debugForceArrival p f) s (fun t => t = s) ∧
        Gives (.debugForceGeneration p f) s (fun t => t = s) ∧ Gives (.debugFireVigil p f) s (fun t => t = s) ∧
        Gives (.debugDropVigil p f) s (fun t => t = s))

/-- The trace, freezes and the counter dump (R573–R584): a record accepted by a collector joins its FIFO; a `MARK` carries the
debugger's value; a disable writes what stands in the FIFOs; a freeze stops a running task, at the cost of its exact timing,
until it is released; and a PF's dump, its port's link up, writes the header and every counter at its place, clears the
counters only for the holder of semaphore 3 that asked for it, and leaves every byte of host memory outside its 69,632. -/
def Obligations.TraceFreezeAndCounterDump : Prop :=
  (∀ (k : Fin 2) (s : State) (c : Nat) (r : TraceRec) (q : List TraceRec),
    (sourcesOf k).find? (fun c => !(tget [] s.trace.waiting c).isEmpty) = some c →
    tget [] s.trace.waiting c = r :: q → tget 0 s.trace.lost c = 0 → (fifoOf s.trace k).length < fifoMax →
    (s.trace.wrap = true ∨ wptrOf s.trace k + 32 * (fifoOf s.trace k).length < traceHalf s.trace) →
      Gives (.traceRecordAccept k) s fun t =>
        fifoOf t.trace k = fifoOf s.trace k ++ [r] ∧ tget [] t.trace.waiting c = q ∧ t.mem = s.mem ∧
          t.tasks = s.tasks ∧ (s.pwr.stage < 2 → t.shells = s.shells)) ∧
  (∀ (p : Port) (f : Fin 32) (s : State),
    let d := if s.dbg.die then 1 else 0
    f.val = 0 → s.holds p 3 = true → s.dbg.act = 6 → s.trace.en = true → (fifoOf s.trace d).length < fifoMax →
      Gives (.traceMark p f) s fun t =>
        (∃ r, fifoOf t.trace d = fifoOf s.trace d ++ [r] ∧ r.event = 0x21 ∧ r.arg = s.dbg.value ∧
          r.alm = s.clk.alm) ∧ t.mem = s.mem ∧ t.tasks = s.tasks) ∧
  (∀ (p : Port) (f : Fin 32) (s : State), f.val = 0 → s.holds p 3 = true → s.trace.en = true →
      Gives (.traceDisable p f) s fun t =>
        t.trace.en = false ∧ t.trace.fifo0 = [] ∧ t.trace.fifo1 = [] ∧
          (s.trace.fifo0 = [] → s.trace.fifo1 = [] → t = { s with trace := { s.trace with en := false } })) ∧
  (∀ (p : Port) (f : Fin 32) (s : State) (tid : Nat) (x : Task), f.val = 0 → s.holds p 3 = true → s.dbg.act = 7 →
    debugTask s = some (tid, x) → tfind s.tasks tid = some x → x.st = .running → x.frozen = false →
      Gives (.taskFreeze p f) s fun t =>
        t.dbg.noeff = false ∧ (∀ L y, (s.shell L).stroke.begun = false → runningTask t L ≠ some (tid, y)) ∧
          t.shells = s.shells ∧ t.mem = s.mem ∧
          ∃ y, tfind t.tasks tid = some y ∧ y.frozen = true ∧ y.st = .running ∧ y.exact = false) ∧
  (∀ (p : Port) (f : Fin 32) (s : State) (tid : Nat) (x : Task), f.val = 0 → s.holds p 3 = true → s.dbg.act = 8 →
    debugTask s = some (tid, x) → tfind s.tasks tid = some x →
      Gives (.freezeRelease p f) s fun t =>
        t.dbg.noeff = false ∧ t.shells = s.shells ∧ t.mem = s.mem ∧
          ∃ y, tfind t.tasks tid = some y ∧ y.frozen = false ∧ y.st = x.st) ∧
  (∀ (p : Port) (f : Fin 32) (s : State), (f.val ≠ 0 ∨ s.holds p 3 = false) →
      Gives (.traceMark p f) s (fun t => t = s) ∧ Gives (.taskFreeze p f) s (fun t => t = s) ∧
        Gives (.freezeRelease p f) s (fun t => t = s) ∧ Gives (.traceDisable p f) s (fun t => t = s)) ∧
  (∀ (p : Port) (f : Fin 32) (s : State), f.val = 0 → (s.port p).linkUp = true →
      let a := (s.port p).cdAddr.toNat
      let clear := (s.port p).cdClr && s.holds p 3
      Gives (.counterDump p f false) s fun t =>
        mnum (t.port p).host a 64 = dumpHeader s clear ((s.port p).cdClr && !clear) ∧
          (∀ b, b < a ∨ a + dumpBytes ≤ b → mget (t.port p).host b = mget (s.port p).host b) ∧
          (rising (s.ctr.map (·.1)) = true → ∀ k n, tfind s.ctr k = some n → 8 ≤ k → 8 * k < dumpBytes →
            hiddenCtr s k = false → n < 2 ^ 64 → mnum (t.port p).host (a + 8 * k) 8 = n) ∧
          (clear = true → ∀ k, k ≠ portCtr p 1 → tget 0 t.ctr k = 0) ∧
          (clear = false → ∀ k, k ≠ portCtr p 1 → tget 0 t.ctr k = tget 0 s.ctr k) ∧
          t.mem = s.mem ∧ t.tasks = s.tasks ∧ t.shells = s.shells) ∧
  (∀ (p : Port) (f : Fin 32) (s : State), f.val = 0 → (s.port p).linkUp = false →
      Gives (.counterDump p f false) s fun t =>
        (t.port p).cdErr = true ∧ (t.port p).host = (s.port p).host)

/-! ## Streams, key streams and `BOOT` (04_key_switching R128–R141, 05_scheme_operations R167, 09_command_streams R285–R297) -/

/-- Start, fetch and end of a stream (R287, R297, R302, R346, R387, R390): a Stroke core whose header passes its checks runs from
index 0 with the task's loop registers; a fetched block is held, and so is a fetch's fault; an ended stream marks its Shell
and, on the last Shell, ends the task without a fault; a Shell of an ending task zeroes a class T task's regions, becomes
free and reports. -/
def Obligations.StreamsStartFetchAndEnd : Prop :=
  (∀ (sh : Fin 64) (s s1 s2 : State) (tid : Nat) (x : Task) (off h : List Byte), (s.shell sh).holder = some tid →
    tfind s.tasks tid = some x → x.kind = 1 → x.gate = none → x.started.getLsbD sh = false → x.preReq = false →
    (x.st = .admitted ∨ x.st = .running) →
    (readCached sh x.ctx 1 (x.prog + 64 + 8 * sh.val) 8 0).go s = (.ok off, s1) →
    (readCached sh x.ctx 1 (x.prog + leNat off) 64 0).go s1 = (.ok h, s2) → strmBad (leNat h) sh = none →
      Gives (.strokeCoreStart sh) s fun t =>
        (t.shell sh).stroke =
            { Stroke.reset with
                run := true, base := x.prog + leNat off, count := bits (leNat h) 95 64, legacy := (leNat h).testBit 48,
                fixedS := (leNat h).testBit 49, loopReg := x.args } ∧
          (t.shell sh).vec = { Vec.reset with seed := x.seed } ∧
          ∃ y, tfind t.tasks tid = some y ∧ y.st = .running ∧ y.started = x.started ||| (1#64 <<< sh.val)) ∧
  (∀ (sh : Fin 64) (s s1 s2 : State) (tid b : Nat) (x : Task) (off h : List Byte), (s.shell sh).holder = some tid →
    tfind s.tasks tid = some x → x.kind = 1 → x.gate = none → x.started.getLsbD sh = false →
    (x.st = .admitted ∨ x.st = .running) →
    (readCached sh x.ctx 1 (x.prog + 64 + 8 * sh.val) 8 0).go s = (.ok off, s1) →
    (readCached sh x.ctx 1 (x.prog + leNat off) 64 0).go s1 = (.ok h, s2) → strmBad (leNat h) sh = some b →
      Gives (.strokeCoreStart sh) s fun t => t = abortTask tid { code := 0x01, detail := detail01 0 0 b } sh noCmd s2) ∧
  (∀ (sh : Fin 64) (blk : Nat) (s u : State) (tid : Nat) (x : Task) (bs : List Byte),
    let k := (s.shell sh).stroke
    let n := min 32 (k.count - 32 * blk)
    (s.shell sh).holder = some tid → tfind s.tasks tid = some x → k.run = true →
    (∃ i, 32 * blk ≤ i ∧ i < 32 * blk + n ∧ bufWants k i = true ∧ tfind k.buf i = none) → tfind k.bufFault blk = none →
    (readCached sh x.ctx 1 (k.base + 64 + 1024 * blk) (32 * n) 0).go s = (.ok bs, u) → (u.shell sh).stroke = k →
      Gives (.streamFetchBlock sh blk) s fun t =>
        (∀ i r, (rawsOf n bs)[i]? = some r → bufWants k (32 * blk + i) = true →
          tfind (t.shell sh).stroke.buf (32 * blk + i) = some r) ∧
          (∀ j r, tfind k.buf j = some r → bufWants k j = true → (j < 32 * blk ∨ 32 * blk + n ≤ j) →
            tfind (t.shell sh).stroke.buf j = some r) ∧
          (t.shell sh).stroke.idx = k.idx ∧ OtherShells sh u t ∧ t.mem = u.mem ∧ t.tasks = u.tasks) ∧
  (∀ (sh : Fin 64) (blk : Nat) (s u : State) (tid : Nat) (x : Task) (f : Flt),
    let k := (s.shell sh).stroke
    let n := min 32 (k.count - 32 * blk)
    (s.shell sh).holder = some tid → tfind s.tasks tid = some x → k.run = true →
    (∃ i, 32 * blk ≤ i ∧ i < 32 * blk + n ∧ bufWants k i = true ∧ tfind k.buf i = none) → tfind k.bufFault blk = none →
    (readCached sh x.ctx 1 (k.base + 64 + 1024 * blk) (32 * n) 0).go s = (.error f, u) →
      Gives (.streamFetchBlock sh blk) s fun t =>
        tfind (t.shell sh).stroke.bufFault blk = some (f.code, f.detail) ∧ t.tasks = u.tasks) ∧
  (∀ (sh : Fin 64) (s : State) (tid : Nat) (x : Task),
    let k := s.shell sh
    k.holder = some tid → tfind s.tasks tid = some x → k.stroke.ended = true → k.stroke.rel = [] → pinOpen s sh = false →
    copiesCounted s sh = true → k.asyncIn = [] → k.asyncOut = [] → x.ended.getLsbD sh = false → (x.st = .running ∨ x.st = .yielding) →
      Gives (.streamEnd sh) s fun t =>
        t.mem = s.mem ∧ (t.shell sh).sp = k.sp ∧
          ∃ y, tfind t.tasks tid = some y ∧ y.ended = x.ended ||| (1#64 <<< sh.val) ∧ y.fault = x.fault ∧
            y.st = if (x.ended ||| (1#64 <<< sh.val)) &&& x.shells = x.shells then .ending else x.st) ∧
  (∀ (sh : Fin 64) (s : State) (tid : Nat) (x : Task), endingOn s sh = some (tid, x) → tfind s.tasks tid = some x →
      Gives (.shellEndOfTask sh) s fun t =>
        (∃ y, tfind t.tasks tid = some y ∧ y.reported = x.reported ||| (1#64 <<< sh.val)) ∧
          (t.shell sh).holder = (if (s.shell sh).holder = some tid then none else (s.shell sh).holder) ∧
          (∀ e r, tfind (t.shell sh).regions e = some r → ¬ (r.scope = false ∧ r.task = some tid)) ∧
          (x.cls = false → ∀ e r, (e, r) ∈ (s.shell sh).regions → r.scope = false → r.task = some tid →
            ∀ a, 72 * r.line0 ≤ a → a < 72 * (r.line0 + r.lines) → mget (t.shell sh).sp a = 0) ∧
          t.mem = s.mem ∧ ∀ j, j ≠ sh.val → (t.shell j).sp = (s.shell j).sp) ∧
  (∀ (sh : Fin 64) (out : Bool) (i : Fin 8) (s u : State) (tid : Nat) (x : Task) (c : AsyncCopy),
    let q := copyQueue (s.shell sh) (!out)
    q[i.val]? = some c → (s.shell sh).holder = some tid → tfind s.tasks tid = some x →
    (moveElems sh x.ctx 1 c.src c.dst).go (s.modShell sh (setCopyQueue (!out) (q.eraseIdx i.val))) = (.ok (), u) →
      Gives (.asyncCopySignal sh out i) s fun t =>
        t.inbox = u.inbox ++ [{ ctx := x.ctx, cnt := c.cnt, src := .copy sh, set := false, v := 1 }] ∧
          t.mem = u.mem ∧ t.shells = u.shells ∧ t.tasks = u.tasks) ∧
  (∀ (sh : Fin 64) (out : Bool) (i : Fin 8) (s u : State) (tid : Nat) (x : Task) (c : AsyncCopy) (f : Flt),
    let q := copyQueue (s.shell sh) (!out)
    q[i.val]? = some c → (s.shell sh).holder = some tid → tfind s.tasks tid = some x →
    (moveElems sh x.ctx 1 c.src c.dst).go (s.modShell sh (setCopyQueue (!out) (q.eraseIdx i.val))) = (.error f, u) →
      Gives (.asyncCopySignal sh out i) s fun t => t = abortTask tid f sh c.cmd u)

/-- Key streams (R128–R141) and the start of a `BOOT` (R167, R212): delivery starts when every Shell of the set has opened the
stream; an expander segment is the generator's; a pair goes to every Shell whose mask holds its modulus, once; an image
that is whole closes its stream; and a `BOOT` whose group has issued it and whose checks pass reserves its Shells' windows. -/
def Obligations.KeyStreamsAndBootGroups : Prop :=
  (∀ (sh : Fin 64) (num : Fin 2) (s : State) (id : Nat) (x : KStream) (t : Task), streamOf s sh num = some (id, x) →
    tfind s.tasks x.task = some t → x.started = false → x.members.length = popCount x.set.toNat 8 → t.frozen = false →
    t.st = .running →
      Gives (.keyStreamDeliveryStart sh num) s fun v =>
        tfind v.streams id = some { x with started := true } ∧ v.mem = s.mem ∧ v.tasks = s.tasks ∧
          (∀ m ∈ x.members, (v.shell m.sh).stroke.wait = .none) ∧
          ((x.members.map (·.sh)).Nodup → ∀ m ∈ x.members, (v.shell m.sh).stroke.idx = m.cmd + 1)) ∧
  (∀ (sh : Fin 64) (num : Fin 2) (d t : Nat) (j : Fin 64) (s : State) (id : Nat) (x : KStream),
    let h := keyHdrOf x.hdr.toNat
    let rs := x.members.filter fun m => !m.closed && m.mask.getLsbD j
    streamOf s sh num = some (id, x) → x.started = true → needsUniform x = true → d < h.digits x.level →
    t < 2 ^ h.logN / 1024 → rs.any (fun m => decide (m.given ≤ rankOf m.mask.toNat j * h.digits x.level + d)) = true →
    rs.all (slotFree s x) = true → x.segs.find? (fun e => e.1 = (d, j.val, t)) = none →
      Gives (.expanderSegment sh num d j t) s fun v =>
        tfind v.streams id =
            some { x with segs := x.segs ++
              [((d, j.val, t), uniformSegment h.seed h.logN d h.kind (x.chain.mod j) t)] } ∧
          v.mem = s.mem ∧ v.shells = s.shells ∧ v.tasks = s.tasks) ∧
  (∀ (sh : Fin 64) (num : Fin 2) (s u : State) (id d j : Nat) (x : KStream) (t : Task) (a b : Limb),
    let h := keyHdrOf x.hdr.toNat
    let D := h.digits x.level
    let rs := x.members.filter fun m => memberNext D m = some (j, d)
    streamOf s sh num = some (id, x) → tfind s.tasks x.task = some t → streamNext D x = some (j, d) → x.started = true →
    (needsData x = true ∨ needsUniform x = true) → rs.all (slotFree s x) = true →
    (if needsUniform x then segLimb x h.logN d j else some []) = some a →
    Act.go (if needsData x then
        dataLimb sh t.ctx { addr := x.addr, space := x.space, hdr := x.hdr, reg := 0 } h x.chain d j
      else pure []) s = (.ok b, u) →
      Gives (.keyPairDelivery sh num) s fun v =>
        (∃ y, tfind v.streams id = some y ∧
          y.members = x.members.map fun m => if rs.contains m then gotPair x.pin d j b a m else m) ∧
          v.mem = u.mem ∧ v.tasks = u.tasks ∧ ∀ L, (∀ m ∈ rs, m.sh ≠ L) → v.shell L = u.shell L) ∧
  (∀ (sh : Fin 64) (num : Fin 2) (s : State) (id : Nat) (x : KStream) (t : Task) (m : Member),
    streamOf s sh num = some (id, x) → tfind s.tasks x.task = some t → x.members.find? (fun m => m.sh = sh.val) = some m →
    x.pin = true → x.started = true →
    m.given = popCount m.mask.toNat 64 * (keyHdrOf x.hdr.toNat).digits x.level →
      Gives (.keyImageWhole sh num) s fun v =>
        streamOf v sh num = none ∧ (v.shell sh).sp = (s.shell sh).sp ∧ v.mem = s.mem ∧ v.tasks = s.tasks) ∧
  (∀ (sh : Fin 64) (s u : State) (tid : Nat) (t : Task) (b : BootOp) (r : BootEnv × List ((Nat × Nat) × Hdr)),
    (s.shell sh).boot = some b → (s.shell sh).holder = some tid → tfind s.tasks tid = some t → t.st = .running →
    t.frozen = false → t.bootRun = false →
    (groupShells s b.crews).all (fun L => decide ((s.shell L).boot = some b) && decide ((s.shell L).holder = some tid)) =
      true →
    (bootChecks sh tid t b (groupShells s b.crews)).go s = (.ok r, u) →
      Gives (.bootGroupStart sh) s fun v =>
        (∀ L ∈ groupShells s b.crews, (v.shell L).bootWin = some tid) ∧ v.mem = u.mem ∧
          ∃ y, tfind v.tasks tid = some y ∧ y.bootRun = true) ∧
  (∀ (sh : Fin 64) (s u : State) (tid : Nat) (t : Task) (b : BootOp) (f : Flt),
    (s.shell sh).boot = some b → (s.shell sh).holder = some tid → tfind s.tasks tid = some t → t.st = .running →
    t.frozen = false → t.bootRun = false →
    (groupShells s b.crews).all (fun L => decide ((s.shell L).boot = some b) && decide ((s.shell L).holder = some tid)) =
      true →
    (bootChecks sh tid t b (groupShells s b.crews)).go s = (.error f, u) →
      Gives (.bootGroupStart sh) s fun v => v = abortTask tid f sh (s.shell sh).stroke.idx u)

/-! ## Registers and what they control (20_register_map R621–R649, 00_scope R13–R17) -/

/-- Writes and reads of the register block (R13–R16, R622, R623): an unaligned write or one of another size writes nothing; the lower
half of a 64-bit register waits for its upper half, and both are then one write; a cause bit is cleared by writing 1 unless
hardware sets it in the same cycle; a power-policy field takes a value in its range and keeps its own otherwise, and is read
back; without the semaphore nothing changes; the two halves of a 64-bit register, the lower read first, are those of its
value at that first read; and an undefined offset reads as zero. -/
def Obligations.RegisterWrites : Prop :=
  (∀ (p : Port) (f : Fin 32) (off : BitVec 18) (size : Nat) (v same : BitVec 64) (s : State),
    ¬ (size = 8 ∧ off.toNat % 8 = 0) → ¬ (size = 4 ∧ off.toNat % 4 = 0) →
      Gives (.registerWrite p f off size ⟨v, same⟩) s fun t => t = s) ∧
  (∀ (p : Port) (f : Fin 32) (off : BitVec 18) (v same : BitVec 64) (s : State), off.toNat % 8 = 0 →
      Gives (.registerWrite p f off 8 ⟨v, same⟩) s fun t =>
        t = wrWord p f off.toNat (BitVec.allOnes 64) v same
          (s.modFn (fnKey p f) fun x => { x with held := tdel x.held off.toNat })) ∧
  (∀ (p : Port) (f : Fin 32) (off : BitVec 18) (a b same : BitVec 64) (s : State), off.toNat % 8 = 0 →
    off.toNat + 4 < 2 ^ 18 → wide off.toNat = true →
      Gives (.registerWrite p f off 4 ⟨a, same⟩) s fun t =>
        t.mem = s.mem ∧ t.shells = s.shells ∧ t.ctxs = s.ctxs ∧ t.rings = s.rings ∧ t.up = s.up ∧ t.pwr = s.pwr ∧
          Gives (.registerWrite p f (off + 4) 4 ⟨b, same⟩) t fun u =>
            u = wrWord p f off.toNat (BitVec.allOnes 64)
              (((b.setWidth 32).setWidth 64 <<< 32) ||| (a.setWidth 32).setWidth 64) same
              (t.modFn (fnKey p f) fun x => { x with held := tdel x.held off.toNat })) ∧
  (∀ (p : Port) (f : Fin 32) (v same : BitVec 64) (s : State),
      Gives (.registerWrite p f 0x2000 8 ⟨v, same⟩) s fun t =>
        (∀ j, j < 14 → (t.fn (fnKey p f)).cause.getLsbD j =
          ((s.fn (fnKey p f)).cause.getLsbD j && !(v.getLsbD j && !same.getLsbD j))) ∧
          (∀ j, j ≠ fnKey p f → t.fn j = s.fn j) ∧ t.mem = s.mem ∧ t.tasks = s.tasks) ∧
  (∀ (p : Port) (f : Fin 32) (v same : BitVec 64) (s : State), f.val = 0 → s.holds p 1 = true →
      Gives (.registerWrite p f 0x5000 8 ⟨v, same⟩) s fun t =>
        t.pwr.pol.capW = (if 300 ≤ bits v.toNat 10 0 ∧ bits v.toNat 10 0 ≤ 1200 then v.extractLsb' 0 11
            else s.pwr.pol.capW) ∧
          t.pwr.pol.rampW = (if 6 ≤ bits v.toNat 37 32 ∧ bits v.toNat 37 32 ≤ 60 then v.extractLsb' 32 6
            else s.pwr.pol.rampW) ∧
          t.pwr.pol.tjSoft = (if 70 ≤ bits v.toNat 54 48 ∧ bits v.toNat 54 48 ≤ 95 then v.extractLsb' 48 7
            else s.pwr.pol.tjSoft) ∧
          t.pwr.pol.hintsEn = v.getLsbD 63 ∧ regRead p f 0x5000 8 t = ((policyWord t.pwr.pol).toNat, t)) ∧
  (∀ (p : Port) (f : Fin 32) (v same : BitVec 64) (s : State), (f.val ≠ 0 ∨ s.holds p 1 = false) →
      Gives (.registerWrite p f 0x5000 8 ⟨v, same⟩) s fun t => t.pwr = s.pwr) ∧
  (∀ (p : Port) (f : Fin 32) (v same : BitVec 64) (s : State), f.val = 0 →
      Gives (.registerWrite p f 0x1000 8 ⟨v, same⟩) s fun t => t.up.hold = (s.up.hold || v.getLsbD 11)) ∧
  (∀ (p : Port) (f : Fin 32) (off : Nat) (s u : State), off % 8 = 0 → wide off = true → regWord p f off s < 2 ^ 64 →
    (u.fn (fnKey p f)).latch = ((regRead p f off 4 s).2.fn (fnKey p f)).latch →
      (regRead p f off 4 s).1 + 2 ^ 32 * (regRead p f (off + 4) 4 u).1 = regWord p f off s) ∧
  (∀ (p : Port) (f : Fin 32) (off : Nat) (s : State), 0x28000 ≤ off → off + 8 ≤ 0x30000 → off % 8 = 0 →
      regRead p f off 8 s = (0, s))

/-- Region entries and cache sizes (R187–R189, R204, R205, R214, R648, R649): an entry that no rule refuses is installed with its lines
zero, removed with its lines zero, or refused with its reason; a cache size is requested by the holder of semaphore 5 and
takes effect on a Shell without an admitted task, its range zeroed. -/
def Obligations.RegionsAndCacheSizes : Prop :=
  (∀ (p : Port) (f : Fin 32) (sh : Fin 64) (e : Fin 32) (v : BitVec 64) (s : State),
    let r := regionOf v
    tfind (s.shell sh).regions e = none → r.len ≠ 0 → r.scope = true → mayRegion s p f r.ctx.toNat = true →
    regionClash (s.shell sh) e r.base.toNat r.len.toNat = false →
      Gives (.regionEntryWrite p f sh e v) s fun t =>
        (∃ i, tfind (t.shell sh).regions e = some { r with inst := i }) ∧
          (∀ a, 72 * r.line0 ≤ a → a < 72 * (r.line0 + r.lines) → mget (t.shell sh).sp a = 0) ∧
          SpKept sh (72 * r.line0) (72 * r.lines) s t ∧ OtherShells sh s t ∧ t.mem = s.mem) ∧
  (∀ (p : Port) (f : Fin 32) (sh : Fin 64) (e : Fin 32) (v : BitVec 64) (s : State) (o : Region),
    tfind (s.shell sh).regions e = some o → o.scope = true → o.len ≠ 0 → (regionOf v).len = 0 →
    mayRegion s p f o.ctx.toNat = true → ctxAdmitted s o.ctx.toNat = false →
      Gives (.regionEntryWrite p f sh e v) s fun t =>
        tfind (t.shell sh).regions e = none ∧
          (∀ a, 72 * o.line0 ≤ a → a < 72 * (o.line0 + o.lines) → mget (t.shell sh).sp a = 0) ∧
          SpKept sh (72 * o.line0) (72 * o.lines) s t ∧ OtherShells sh s t ∧ t.mem = s.mem) ∧
  (∀ (p : Port) (f : Fin 32) (sh : Fin 64) (e : Fin 32) (v : BitVec 64) (s : State),
    let r := regionOf v
    tfind (s.shell sh).regions e = none → r.len ≠ 0 → r.scope = true →
    (mayRegion s p f r.ctx.toNat = false ∨ regionClash (s.shell sh) e r.base.toNat r.len.toNat = true) →
      Gives (.regionEntryWrite p f sh e v) s fun t =>
        (t.shell sh).regions = (s.shell sh).regions ∧ (t.shell sh).sp = (s.shell sh).sp ∧
          (t.shell sh).regCfl = true ∧ (t.shell sh).regEnt = e.val ∧
          (t.shell sh).regWhy = if mayRegion s p f r.ctx.toNat then 1 else 3) ∧
  (∀ (p : Port) (f : Fin 32) (sh : Fin 64) (v : BitVec 3) (s : State), f.val = 0 → s.holds p 5 = true →
      Gives (.cacheSizeWrite p f sh v) s fun t =>
        (t.shell sh).cacheReq = (if v.toNat ≤ 4 then v else (s.shell sh).cacheReq) ∧
          (t.shell sh).cacheEff = (s.shell sh).cacheEff ∧ (t.shell sh).sp = (s.shell sh).sp ∧ OtherShells sh s t) ∧
  (∀ (p : Port) (f : Fin 32) (sh : Fin 64) (v : BitVec 3) (s : State), (f.val ≠ 0 ∨ s.holds p 5 = false) →
      Gives (.cacheSizeWrite p f sh v) s fun t => t = s) ∧
  (∀ (sh : Fin 64) (s : State),
    let x := s.shell sh
    let lo := min (cacheFirst x.cacheReq.toNat) (cacheFirst x.cacheEff.toNat)
    x.cacheReq ≠ x.cacheEff → shellAdmitted s sh = false →
    x.regions.any (fun e => decide (cacheFirst x.cacheReq.toNat < e.2.line0 + e.2.lines)) = false →
    (s.mode.fixed = false ∨ x.cacheReq = 0) →
      Gives (.cacheSizeApply sh) s fun t =>
        (t.shell sh).cacheEff = x.cacheReq ∧ (t.shell sh).regions = x.regions ∧
          (∀ a, 72 * lo ≤ a → a < 72 * spLines → mget (t.shell sh).sp a = 0) ∧
          (∀ a, a < 72 * lo → mget (t.shell sh).sp a = mget x.sp a) ∧ OtherShells sh s t ∧ t.mem = s.mem)

/-- Peers and memory windows (R431, R434–R436): two valid peers of a context never carry one requester ID; an enable that no check of
R435 fails enables the window with its frames, one that fails is refused with the reason; a disable refuses accesses from then
on, and the window is disabled once its accesses have completed. -/
def Obligations.PeersAndMemoryWindows : Prop :=
  (∀ (p : Port) (f : Fin 32) (e : Fin 64) (v : BitVec 64) (s : State) (c : Nat), selected s p f = some c →
    let y : Peer := { rid := v.extractLsb' 0 16, v := v.getLsbD 16, rpos := v.extractLsb' 17 6 }
    let dup := (s.ctx c).peers.any fun q => decide (q.1 ≠ e.val) && q.2.v && decide (q.2.rid = y.rid)
    Gives (.peerTableWrite p f e v) s fun t =>
        (if y.v && dup then (t.ctx c).peers = (s.ctx c).peers ∧ (t.ctx c).peerCfl = true ∧ (t.ctx c).peerEnt = e.val
        else tfind (t.ctx c).peers e = some y ∧ ∀ j, j ≠ e.val → tfind (t.ctx c).peers j = tfind (s.ctx c).peers j) ∧
          t.mem = s.mem ∧ t.shells = s.shells ∧ ∀ j, j ≠ c → t.ctx j = s.ctx j) ∧
  (∀ (p : Port) (f : Fin 32) (w : Fin 16) (s u : State) (c : Nat) (fs : List Nat), selected s p f = some c →
    let m := tget MWin.reset (s.ctx c).mwins w
    m.wstate = 0 → mwinBad m = false → m.pages ≠ 0 → (winFrames c m).go s = (.ok fs, u) → winReason u c w m fs = 0 →
      Gives (.memoryWindowEnable p f w) s fun t =>
        (tget MWin.reset (t.ctx c).mwins w).en = true ∧ (tget MWin.reset (t.ctx c).mwins w).wstate = 1 ∧
          (tget MWin.reset (t.ctx c).mwins w).frames = fs ∧ t.mem = u.mem) ∧
  (∀ (p : Port) (f : Fin 32) (w : Fin 16) (s : State) (c : Nat), selected s p f = some c →
    let m := tget MWin.reset (s.ctx c).mwins w
    m.wstate = 0 → (mwinBad m = true ∨ m.pages = 0) →
      Gives (.memoryWindowEnable p f w) s fun t =>
        (tget MWin.reset (t.ctx c).mwins w).refused = true ∧ (tget MWin.reset (t.ctx c).mwins w).en = m.en ∧
          (tget MWin.reset (t.ctx c).mwins w).reason = if mwinBad m then 1 else 2) ∧
  (∀ (p : Port) (f : Fin 32) (w : Fin 16) (s : State) (c : Nat), selected s p f = some c →
    (tget MWin.reset (s.ctx c).mwins w).en = true →
      Gives (.memoryWindowDisable p f w) s fun t =>
        (tget MWin.reset (t.ctx c).mwins w).en = false ∧ (tget MWin.reset (t.ctx c).mwins w).wstate = 2 ∧
          t.mem = s.mem ∧ t.shells = s.shells) ∧
  (∀ (c : Fin 256) (w : Fin 16) (s : State), (tget MWin.reset (s.ctx c).mwins w).wstate = 2 →
      Gives (.memoryWindowCloseDone c w) s fun t =>
        (tget MWin.reset (t.ctx c).mwins w).wstate = 0 ∧ (tget MWin.reset (t.ctx c).mwins w).frames = [] ∧
          t.mem = s.mem ∧ t.shells = s.shells)

/-- The Almanac, launch gates and retired frames (R427, R450, R451, R645–R647): the count is set by the PF that holds semaphore 4 and
not in role 2; a gate arms unless another armed one names its ring; a task that is ready at the count starts and one that is
late is counted, told with cause 10 and, where the gate asks for it, aborted; a pending frame is acknowledged. -/
def Obligations.AlmanacGatesAndFrames : Prop :=
  (∀ (p : Port) (f : Fin 32) (v : BitVec 64) (s : State), f.val = 0 → s.holds p 4 = true → s.sync.role ≠ 2 →
      Gives (.almanacSet p f v) s fun t => t.clk = { s.clk with alm := v } ∧ t.tasks = s.tasks ∧ t.mem = s.mem) ∧
  (∀ (p : Port) (f : Fin 32) (v : BitVec 64) (s : State),
    (f.val ≠ 0 ∨ s.holds p 4 = false ∨ s.sync.role = 2) → Gives (.almanacSet p f v) s fun t => t = s) ∧
  (∀ (p : Port) (f : Fin 32) (g : Fin 8) (s : State), f.val = 0 → s.holds p 4 = true →
    let x := tget Gate.reset (s.port p).gates g
    let same := (s.port p).gates.any fun y =>
      decide (y.1 ≠ g.val) && y.2.arm && decide (y.2.fn = x.fn) && decide (y.2.ring = x.ring)
    x.arm = false →
      Gives (.launchGateArm p f g) s fun t =>
        tget Gate.reset (t.port p).gates g = (if same then { x with conflict := true } else { x with arm := true }) ∧
          ∀ j, j ≠ g.val → tget Gate.reset (t.port p).gates j = tget Gate.reset (s.port p).gates j) ∧
  (∀ (p : Port) (g : Fin 8) (s : State) (tid : Nat) (k : Task),
    let x := tget Gate.reset (s.port p).gates g
    x.task = some tid → tfind s.tasks tid = some k → x.arm = true → x.count ≤ s.clk.alm → k.tAdmit ≤ x.count →
      Gives (.launchGateFire p g) s fun t =>
        tget Gate.reset (t.port p).gates g = { x with arm := false, task := none } ∧ t.ctr = s.ctr ∧
          ∃ y, tfind t.tasks tid = some y ∧ y.gate = none ∧ y.st = k.st ∧ y.fault = k.fault) ∧
  (∀ (p : Port) (g : Fin 8) (s : State) (tid : Nat) (k : Task),
    let x := tget Gate.reset (s.port p).gates g
    x.task = some tid → tfind s.tasks tid = some k → x.arm = true → x.count ≤ s.clk.alm → x.count < k.tAdmit →
    x.lateAbort = false →
      Gives (.launchGateFire p g) s fun t =>
        (tget Gate.reset (t.port p).gates g).late = true ∧ (tget Gate.reset (t.port p).gates g).arm = false ∧
          (t.fn (fnKey p x.fn)).cause.getLsbD 10 = true ∧
          ∃ y, tfind t.tasks tid = some y ∧ y.gate = none ∧ y.st = k.st) ∧
  (∀ (p : Port) (g : Fin 8) (s : State) (tid : Nat) (k : Task),
    let x := tget Gate.reset (s.port p).gates g
    x.task = some tid → tfind s.tasks tid = some k → x.arm = true → x.count ≤ s.clk.alm → x.count < k.tAdmit →
    x.lateAbort = true → k.st = .admitted → k.fault = none →
      Gives (.launchGateFire p g) s fun t =>
        (t.fn (fnKey p x.fn)).cause.getLsbD 10 = true ∧
          ∃ y, tfind t.tasks tid = some y ∧ y.st = .ending ∧
            y.fault.map (fun e => (e.code, e.detail)) = some (0x41, 2)) ∧
  (∀ (p : Port) (f : Fin 32) (n : BitVec 17) (s : State), f.val = 0 →
    (s.stack (n.toNat / 16384)).retired.contains n.toNat = true →
    (s.stack (n.toNat / 16384)).acked.contains n.toNat = false →
      Gives (.frameRetirementAck p f n) s fun t =>
        (t.stack (n.toNat / 16384)).acked = (s.stack (n.toNat / 16384)).acked ++ [n.toNat] ∧
          (∀ j, j ≠ n.toNat / 16384 → t.stack j = s.stack j) ∧ t.mem = s.mem ∧ t.shells = s.shells)

/-! ## Start-up and resets (18_startup_and_reset R587–R603, 19_electrical_mechanical R604–R612, 10_host_interface_and_queues R352, 17_debug_counters_errors R566) -/

/-- The phases of a cold start (R533, R536, R539, R541, R587–R600): each phase, when the one before it is complete, does its work and
opens the next; the first slot that passes runs, and without one the module is in recovery; memory and every Shell start at
zero; and phases 4 and 5 together lead to `READY`, or to `RECOVERY` under `hold`. -/
def Obligations.StartUpPhases : Prop :=
  (∀ (mv k : Nat) (ok : Bool) (s : State), auxInRange mv = true → coldCause s = some k →
      Gives (.coldStart mv ok) s fun t =>
        t.up = { StartUp.reset with aux := true, secretDone := true, idLess := !ok, cause := k } ∧
          t.sec.secret = ok ∧ t.sec.bnFails = [] ∧ t.sec.bnLocked = false ∧ t.sec.rpmb = s.sec.rpmb ∧
          t.cox.boot = s.cox.boot + 1 ∧ t.mem = s.mem) ∧
  (∀ (s : State), s.up.secretDone = true → s.up.coxUp = false → s.up.fwRecovery = false →
      Gives .firmwareBoot s fun t =>
        (if slotPasses s (firstSlot s) then t.up.coxUp = true ∧ t.cox.running = firstSlot s
        else if slotPasses s (!firstSlot s) then t.up.coxUp = true ∧ t.cox.running = !firstSlot s
        else t.up.fwRecovery = true ∧ t.up.coxUp = false) ∧
          t.mem = s.mem ∧ t.sec = s.sec) ∧
  (∀ (s : State), s.up.coxUp = true → s.up.mainUp = false → s.up.recordsOk = false →
      Gives .recordAuthentication s fun t =>
        t.up.recordsOk = (tfind t.cox.inForce 1).isSome ∧
          (rpmbOf t 0).toNat = max (rpmbOf s 0).toNat (slotVersion s s.cox.committed) ∧
          (∀ j, j ≠ 0 → rpmbOf t j = rpmbOf s j) ∧ t.mem = s.mem) ∧
  (∀ (s : State), mayStart s = true →
      Gives .mainDomainStart s fun t =>
        t.up.mainUp = true ∧ t.up.pwrGood = true ∧ t.up.goodSince = s.clk.now ∧ t.clk.pll = true ∧ t.clk.alm = 0 ∧
          t.mem = s.mem ∧ t.cox = s.cox ∧ t.sec = s.sec) ∧
  (∀ (failed : List (Fin 8 × Fin 66)) (s : State), s.up.mainUp = true → s.up.memDone = false → s.pwr.stage < 3 →
    s.portA.heldAcc = [] → s.portB.heldAcc = [] →
      Gives (.memoryTrainingDone failed) s fun t =>
        t.up.memDone = true ∧ t.mem = [] ∧ t.portA.memActive = true ∧ t.portB.memActive = true ∧
          (s.up.shellDone = true → s.up.ready = .start →
            t.up.ready = if s.up.hold then .recovery else .ready)) ∧
  (∀ (x : SelfTest) (s : State), s.up.mainUp = true → s.up.shellDone = false → s.pwr.stage < 3 → x.fatal = false →
      Gives (.shellMapBuild x) s fun t =>
        t.up.shellDone = true ∧
          (∀ L, L < 64 → (t.shell L).sp = [] ∧ (t.shell L).regions = [] ∧ (t.shell L).windows = [] ∧
            (t.shell L).tags = [] ∧
            (unusable (noteTests x { s with phys := [] }) (34 * dieOf L + L % 32) = false →
              (t.shell L).phys = L % 32 ∧ (t.shell L).vacant = false)) ∧
          (s.up.memDone = true → s.up.ready = .start →
            t.up.ready = if s.up.hold then .recovery else .ready)) ∧
  (∀ (x : SelfTest) (s : State), s.up.mainUp = true → s.up.shellDone = false → s.pwr.stage < 3 → x.fatal = true →
      Gives (.shellMapBuild x) s fun t => t.up.ready = .fatal) ∧
  (∀ (p : Port) (f : Fin 32) (s : State), f.val = 0 → s.up.ready = .recovery →
    s.tasks.all (fun e => decide (e.2.st = .done)) = true →
      Gives (.recoveryRelease p f) s fun t =>
        t.up.ready = .ready ∧ ∀ L, L < 64 → (t.shell L).sp = [] ∧ (t.shell L).maint = false)

/-- Module resets and the fatal state (R566, R567, R600–R603): a PF's request takes the main domains down, cold from phase 1 and warm
from phase 4, with the log, the rollback counters and the module's counters kept; a fatal error leaves no task that runs,
and a task without an earlier fault ends with 0xFF. -/
def Obligations.ModuleResets : Prop :=
  (∀ (p : Port) (f : Fin 32) (s : State), f.val = 0 → s.up.aux = true →
      Gives (.coldResetRequest p f) s fun t =>
        t.mem = [] ∧ t.tasks = [] ∧ t.ctxs = [] ∧ t.shells = State.reset.shells ∧ t.sems = [] ∧
          t.up = { StartUp.reset with aux := true, coldPending := true, cause := 2, resetLevel := s.up.resetLevel } ∧
          t.sec.secret = false ∧ t.sec.rpmb = s.sec.rpmb ∧ t.cox.log = s.cox.log ∧
          t.cox.logBuf = (logReleases s).cox.logBuf ∧
          (∀ k, tget 0 t.ctr k = if k < 64 then tget 0 s.ctr k else 0) ∧ t.pending = s.pending) ∧
  (∀ (p : Port) (f : Fin 32) (s : State), f.val = 0 → s.up.ready ≠ .start → s.up.ready ≠ .fatal →
      Gives (.warmResetRequest p f) s fun t =>
        t.mem = [] ∧ t.tasks = [] ∧ t.ctxs = [] ∧ t.sems = [] ∧ t.up.ready = .start ∧ t.up.cause = 3 ∧
          t.up.hold = s.up.hold ∧ t.up.recordsOk = s.up.recordsOk ∧ t.up.memDone = false ∧ t.up.shellDone = false ∧
          t.sec.rpmb = s.sec.rpmb ∧ t.sec.secret = s.sec.secret ∧ t.pending = s.pending) ∧
  (∀ (p : Port) (f : Fin 32) (s : State), (f.val ≠ 0 ∨ s.up.ready = .start ∨ s.up.ready = .fatal) →
      Gives (.warmResetRequest p f) s fun t => t = s) ∧
  (∀ (ty : BitVec 16) (s : State), s.up.mainUp = true →
      Gives (.fatalError ty) s fun t =>
        t.up.ready = .fatal ∧ t.mem = s.mem ∧ nextAdmitted t = none ∧
          ∀ tid x, tfind s.tasks tid = some x → x.st ≠ .done → x.fault = none →
            ∃ y, tfind t.tasks tid = some y ∧ y.st = .ending ∧
              y.fault.map (fun e => (e.code, e.detail.toNat)) = some (0xFF, ty.toNat))

/-- Function and port resets (R352, R363, R548, R549, R601, R612): a function-level reset ends the function's tasks without an entry,
disables its rings and destroys its contexts, and a PF's takes its VFs and its semaphores with it; a hot reset or 100 µs of
PERST# does so for the port and takes its link down, and a shorter assertion does not. -/
def Obligations.FunctionAndPortResets : Prop :=
  (∀ (p : Port) (f : Fin 32) (s : State),
      Gives (.functionLevelReset p f) s fun t =>
        (∀ g : Fin 32, (g = f ∨ f.val = 0) →
          (∀ r, r < 8 → (t.ring (ringKey p g r)).active = false) ∧ (∀ c, seesCtx (t.ctx c) p g = false) ∧
            ∀ tid x, tfind s.tasks tid = some x → x.ref.port = p → x.ref.fn = g →
              ∃ y, tfind t.tasks tid = some y ∧ y.st = .done) ∧
          (∀ j, j / 256 ≠ portNum p → t.ring j = s.ring j) ∧
          (f.val = 0 → ∀ k, k < 6 → t.holds p k = false) ∧ t.mem = s.mem ∧ t.portA.host = s.portA.host ∧
          t.portB.host = s.portB.host) ∧
  (∀ (p : Port) (s : State), (s.port p).linkUp = true →
      Gives (.hotReset p) s fun t =>
        (t.port p).linkUp = false ∧ (t.port p).training = true ∧ (t.port p).resetting = true ∧
          (∀ j, j / 256 = portNum p → (t.ring j).active = false) ∧ t.mem = s.mem) ∧
  (∀ (p : Port) (us : Nat) (s : State), 100 ≤ us → (s.port p).perst = false → s.up.resetLevel = false →
      Gives (.perstAssert p us) s fun t =>
        (t.port p).perst = true ∧ (t.port p).perstUs = us ∧ (t.port p).linkUp = false ∧
          (∀ j, j / 256 = portNum p → (t.ring j).active = false) ∧ t.mem = s.mem) ∧
  (∀ (p : Port) (us : Nat) (s : State), us < 100 →
      Gives (.perstAssert p us) s fun t =>
        (t.port p).perst = true ∧ (t.port p).perstUs = us ∧ (t.port p).linkUp = (s.port p).linkUp ∧
          t.rings = s.rings ∧ t.tasks = s.tasks ∧ t.mem = s.mem) ∧
  (∀ (p : Port) (s : State),
      Gives (.perstDeassert p) s fun t =>
        (t.port p).perst = false ∧ (t.port p).perstUs = 0 ∧ (t.port p).wake = false ∧
          (t.port p).perstHold = (!s.up.pwrGood || decide (s.since s.up.goodSince < perstEarliest)) ∧
          t.mem = s.mem ∧ t.tasks = s.tasks)

/-! ## Mailboxes and management (15_management_and_live_service R494–R532) -/

/-- Blocks and words (R506–R511, R514, R515): a submitted block waits for Cox, which answers a reserved opcode at once; a further `go`
is lost; a block that is not taken is aborted; an answer places status, length and payload, clears `go` and sets `done`; a
heartbeat word is taken with its Almanac count and an announcement follows the word released before it. -/
def Obligations.MailboxProtocol : Prop :=
  (∀ (c : Chan) (s : State), chanExists c = true → (s.chan c).go = false → (s.chan c).busy = false → serves s c = true →
    opcodes.contains (blkOpcode (s.chan c)) = false →
      Gives (.mailboxGo c) s fun t => t = respond c stBadOpcode [] (s.modChan c fun x => { x with go := true })) ∧
  (∀ (c : Chan) (s : State), chanExists c = true → (s.chan c).go = false →
    (serves s c = false ∨ opcodes.contains (blkOpcode (s.chan c)) = true) →
      Gives (.mailboxGo c) s fun t =>
        t.chan c = { s.chan c with go := true } ∧ (∀ d, chanKey d ≠ chanKey c → t.chan d = s.chan d) ∧
          t.mem = s.mem ∧ t.cox = s.cox ∧ t.sec = s.sec) ∧
  (∀ (c : Chan) (s : State), chanExists c = true → (s.chan c).go = true →
      Gives (.mailboxGo c) s fun t => t.chan c = { s.chan c with wlost := true } ∧ t.cox = s.cox) ∧
  (∀ (c : Chan) (s : State), (s.chan c).go = true → (s.chan c).busy = false →
      Gives (.mailboxAbort c) s fun t => t = respond c stAborted [] s) ∧
  (∀ (c : Chan) (s : State), ((s.chan c).go = false ∨ (s.chan c).busy = true) →
      Gives (.mailboxAbort c) s fun t => t = s) ∧
  (∀ (c : Chan) (st : Nat) (pl : List Byte) (s : State), st < 256 → pl.length ≤ payloadMax →
      let t := respond c st pl s
      (t.chan c).go = false ∧ (t.chan c).busy = false ∧ (t.chan c).done = true ∧ mnum (t.chan c).buf 6 1 = st ∧
        blkLength (t.chan c) = pl.length ∧ mslice (t.chan c).buf 16 pl.length = pl ∧
        blkSeq (t.chan c) = blkSeq (s.chan c) ∧ (∀ d, chanKey d ≠ chanKey c → t.chan d = s.chan d) ∧ t.mem = s.mem ∧
        t.cox = s.cox ∧ t.sec = s.sec ∧ t.tasks = s.tasks) ∧
  (∀ (c : Chan) (v : BitVec 32) (s : State), hasWords c = true →
      Gives (.inboundWordWrite c v) s fun t =>
        t.chan c = (if (s.chan c).inFull then { s.chan c with inOvf := true }
          else { s.chan c with inWord := v, inFull := true }) ∧
          ∀ d, chanKey d ≠ chanKey c → t.chan d = s.chan d) ∧
  (∀ (c : Chan) (s : State), (s.chan c).inFull = true → serves s c = true →
      Gives (.inboundWordTaken c) s fun t =>
        t.chan c = { s.chan c with heart := some ((s.chan c).inWord, s.clk.alm), inFull := false } ∧
          ∀ d, chanKey d ≠ chanKey c → t.chan d = s.chan d) ∧
  (∀ (c : Chan) (s : State), (s.chan c).outFull = true → (s.chan c).queue = [] →
      Gives (.outboundWordRelease c) s fun t => t.chan c = { s.chan c with outFull := false }) ∧
  (∀ (c : Chan) (s : State) (w : BitVec 32) (r : List (BitVec 32)), (s.chan c).outFull = true →
    (s.chan c).queue = w :: r → (s.chan c).lostAnn = false →
      Gives (.outboundWordRelease c) s fun t =>
        (t.chan c).outWord = w ∧ (t.chan c).outFull = true ∧ (t.chan c).queue = r)

/-- What stands against an operation, in order (R512, R515, R542): an operation of the secure set on a channel of the other, one whose
semaphore the sender's port does not hold, and one that recovery state does not serve are answered with their status and have
no effect; so for every operation of R515 and R561. -/
def Obligations.MailboxChecks : Prop :=
  (∀ (c : Chan) (s : State) (L : Fin 64) (o : DrainOpts) (u : Fin 16) (q : Port) (slot : Fin 64) (a : BitVec 256)
    (r : PkReq) (n : BitVec 256) (seq : BitVec 32) (ty : BitVec 8) (bs : List Byte) (off m : Nat),
    ∀ z ∈ ([(.status c, mbStatus, false, none), (.sensorRead c, mbSensorRead, false, none),
        (.logRead c seq, mbLogRead, false, none), (.cfgRead c ty, mbCfgRead, false, none),
        (.cfgWrite c bs, mbCfgWrite, true, some 0), (.fwStage c, mbFwStage, true, some 0),
        (.fwVerify c, mbFwVerify, true, some 0), (.fwActivate c, mbFwActivate, true, some 0),
        (.fwCommit c, mbFwCommit, true, some 0), (.shellDrain c L o, mbShellDrain, true, some 5),
        (.shellRejoin c L, mbShellRejoin, true, some 5), (.unitReset c u, mbUnitReset, true, some 5),
        (.portReset c q, mbPortReset, true, none), (.calibRun c, mbCalibRun, true, some 1),
        (.stageWrite c, mbStageWrite, true, some 2), (.stageRead c off m, mbStageRead, true, some 2),
        (.ksInfo c slot, mbKsInfo, true, some 2), (.ksImport c slot a, mbKsImport, true, some 2),
        (.ksErase c slot, mbKsErase, true, some 2), (.ksRoll c slot a, mbKsRoll, true, some 2),
        (.pkRun c r, mbPkRun, true, some 2), (.attest c n, mbAttest, true, some 2), (.idRead c, mbIdRead, true, some 2)] :
        List (Instr × Nat × Bool × Option Nat)),
      Asked s c z.2.1 → admits s c z.2.1 z.2.2.1 z.2.2.2 ≠ stOk →
        Gives z.1 s fun t => t = respond c (admits s c z.2.1 z.2.2.1 z.2.2.2) [] (serveTurn c s)) ∧
  (∀ (c : Chan) (s : State) (op k : Nat), chanSecure c = false → admits s c op true (some k) = stNotSecure) ∧
  (∀ (c : Chan) (s : State) (op k : Nat), chanSecure c = true → chanHolds s c k = false →
      admits s c op true (some k) = stNotOwner) ∧
  (∀ (c : Chan) (s : State) (op : Nat), s.up.fwRecovery = true → recoveryOps.contains op = false →
      admits s c op false none = stRefused)

/-- The operations that read (R504, R512, R515, R544, R549, R561): each answers `OK` with what the spec lists and changes nothing but
the last `seq` read; `SENSOR_READ` gives a snapshot to the full view and averages to the others. -/
def Obligations.ReadingOperations : Prop :=
  (∀ (c : Chan) (s : State), Admitted s c mbStatus false none →
      Gives (.status c) s fun t => t = respond c stOk (Config.payload mbStatus (statusNumbers s c)) (serveTurn c s)) ∧
  (∀ (c : Chan) (s : State) (x : List Nat), Admitted s c mbSensorRead false none → seesSnapshot c = true →
    s.cox.snapshot = some x →
      Gives (.sensorRead c) s fun t => t = respond c stOk (Config.payload mbSensorRead x) (serveTurn c s)) ∧
  (∀ (c : Chan) (s : State), Admitted s c mbSensorRead false none → seesSnapshot c = false →
      Gives (.sensorRead c) s fun t => t = respond c stOk (Config.payload mbSensorRead (averages s)) (serveTurn c s)) ∧
  (∀ (c : Chan) (seq : BitVec 32) (s : State), Admitted s c mbLogRead false none →
      Gives (.logRead c seq) s fun t =>
        ∃ rs : List LogRec, AnsweredBy s c stOk (rs.flatMap recordBytes) t ∧ rs.length ≤ 15 ∧
          (∀ r ∈ rs, r ∈ s.cox.log ++ s.cox.logBuf ∧ seq.toNat ≤ r.seq.toNat ∧ seesRecord s c r = true) ∧
          t.cox.log = s.cox.log ∧ t.cox.logBuf = s.cox.logBuf ∧ t.mem = s.mem) ∧
  (∀ (c : Chan) (ty : BitVec 8) (s : State) (x : TwoCopy (List Byte)) (r : List Byte), Admitted s c mbCfgRead false none → ty.toNat ≠ 0 →
    ty.toNat ≤ 4 → tfind s.cox.config ty.toNat = some x → x.take (fun _ => true) = some r →
      Gives (.cfgRead c ty) s fun t => t = respond c stOk ((r.take (64 + recLength r)).take payloadMax) (serveTurn c s)) ∧
  (∀ (c : Chan) (off n : Nat) (s : State), Admitted s c mbStageRead true (some 2) → n ≤ 1000 → off + n ≤ stagingSize →
      Gives (.stageRead c off n) s fun t => t = respond c stOk (mslice (staging s c) off n) (serveTurn c s)) ∧
  (∀ (c : Chan) (slot : Fin 64) (s : State), Admitted s c mbKsInfo true (some 2) → ksWorks s = true →
      Gives (.ksInfo c slot) s fun t =>
        t = respond c stOk
          ((List.range (min 31 (64 - slot.val))).flatMap fun i => leBytes 32 (ksAttr s (slot.val + i)).toNat) (serveTurn c s)) ∧
  (∀ (c : Chan) (s : State), Admitted s c mbIdRead true (some 2) → ksWorks s = true →
      Gives (.idRead c) s fun t => t = respond c stOk ((idContent s).take payloadMax) (serveTurn c s))

/-- Configuration records and firmware (R518, R519, R527–R530): an accepted record is stored and its counter raised to its own; one
that is not is answered with its verdict and changes nothing; staging writes the slot that does not run; and activation,
revert and commit move between running, trial and committed slot. -/
def Obligations.RecordsAndFirmware : Prop :=
  (∀ (c : Chan) (r : List Byte) (s : State), Admitted s c mbCfgWrite true (some 0) → recForm r = true →
      Gives (.cfgWrite c r) s fun t =>
        (recVerdict s r = stOk → AnsweredBy s c stOk [] t ∧
            (let old := tget TwoCopy.none s.cox.config (recType r)
            ∃ x, tfind t.cox.config (recType r) = some x ∧ x.take (fun _ => true) = some r ∧
              (if copySeq old.b < copySeq old.a then x.a = old.a else x.b = old.b)) ∧
          (rpmbOf t (recType r)).toNat = recCounter r ∧ (∀ j, j ≠ recType r → rpmbOf t j = rpmbOf s j) ∧
          (recType r = 4 → tfind t.cox.inForce 4 = some r) ∧ t.mem = s.mem) ∧
          (recVerdict s r ≠ stOk → t = respond c (recVerdict s r) [] (serveTurn c s))) ∧
  (∀ (c : Chan) (s : State), Admitted s c mbFwStage true (some 0) →
      let pl := blkPayload (s.chan c)
      let off := leNat (pl.take 8)
      8 ≤ pl.length → off + (pl.drop 8).length ≤ slotBytes →
      Gives (.fwStage c) s fun t =>
        AnsweredBy s c stOk [] t ∧ mslice (t.cox.slot (inactive s)).image off (pl.drop 8).length = pl.drop 8 ∧
          t.cox.slot s.cox.running = s.cox.slot s.cox.running ∧ t.cox.verified = false ∧ t.cox.running = s.cox.running) ∧
  (∀ (c : Chan) (s : State), Admitted s c mbFwVerify true (some 0) →
      let b := inactive s
      Gives (.fwVerify c) s fun t =>
        if Config.signatureOk (s.cox.slot b).bytes then
          (if slotVersion s b < (rpmbOf s 0).toNat then t = respond c stRollback [] (serveTurn c s)
          else AnsweredBy s c stOk [] t ∧ t.cox.verified = true)
        else t = respond c stAuthFail [] (serveTurn c s)) ∧
  (∀ (c : Chan) (s : State), Admitted s c mbFwActivate true (some 0) → activateRefused s = false →
      Gives (.fwActivate c) s fun t =>
        AnsweredBy s c stAccepted [] t ∧ t.cox.handover = true ∧ t.cox.running = s.cox.running ∧
          t.cox.longOps = s.cox.longOps ++ [{ ch := c, opcode := mbFwActivate, seq := blkSeq (s.chan c), act := .activate }]) ∧
  (∀ (c : Chan) (s : State), Admitted s c mbFwActivate true (some 0) → activateRefused s = true →
      Gives (.fwActivate c) s fun t => t = respond c stRefused [] (serveTurn c s)) ∧
  (∀ (c : Chan) (s : State) (o : LongOp), EndsNext s c o → o.act = .activate →
      Gives (.longOperationEnd c) s fun t =>
        t.cox.running = (!s.cox.running) ∧ t.cox.trial = some (!s.cox.running) ∧ t.cox.handover = false ∧
          t.cox.committed = s.cox.committed ∧ t.sec = s.sec) ∧
  (∀ (s : State), s.cox.handover = true →
      Gives .fwActivateRevert s fun t =>
        t.cox.handover = false ∧ t.cox.running = s.cox.running ∧ t.cox.committed = s.cox.committed ∧
          t.cox.longOps.length = (match s.cox.longOps.find? fun o => decide (o.act = .activate) with
            | none => s.cox.longOps.length
            | some _ => s.cox.longOps.length - 1)) ∧
  (∀ (c : Chan) (s : State) (b : Bool), Admitted s c mbFwCommit true (some 0) → s.cox.trial = some b →
      Gives (.fwCommit c) s fun t =>
        AnsweredBy s c stOk [] t ∧ t.cox.committed = b ∧ t.cox.trial = none ∧
          (rpmbOf t 0).toNat = max (rpmbOf s 0).toNat (slotVersion s b))

/-- Drains, spares and unit and port resets (R26, R28, R218, R321, R522–R526, R531): a drain marks its Shell, enters maintenance state
once no task holds it, and ends in a rejoin or, marked for the pass, on a spare or vacant; a unit is reset when its streams
have closed or 10 ms are over; a port reset takes the link down and keeps contexts and semaphores. -/
def Obligations.DrainsAndUnitResets : Prop :=
  (∀ (c : Chan) (L : Fin 64) (o : DrainOpts) (s : State), Admitted s c mbShellDrain true (some 5) → isReady s = true →
    (s.shell L).vacant = false → (s.shell L).drain = .none → (o.replace = false ∨ s.mode.fixed = false) →
      Gives (.shellDrain c L o) s fun t =>
        AnsweredBy s c stAccepted [] t ∧ (t.shell L).drain = .marked o ∧
          t.cox.longOps = s.cox.longOps ++ [{ ch := c, opcode := mbShellDrain, seq := blkSeq (s.chan c), act := .drain L }] ∧
          (o.abort = false → t.tasks = s.tasks) ∧
          (o.abort = true → ∀ tid x, tfind s.tasks tid = some x → holdsShell x L = true → x.fault = none →
            ∃ y, tfind t.tasks tid = some y ∧ y.st = .ending)) ∧
  (∀ (L : Fin 64) (ok : Bool) (s : State) (o : DrainOpts), (s.shell L).drain = .marked o → drainHeld s = false →
    s.tasks.any (fun e => holdsShell e.2 L) = false → drained s L = true →
      Gives (.shellDrainProceed L ok) s fun t =>
        (t.shell L).maint = true ∧ t.mem = s.mem ∧ (t.shell L).sp = (s.shell L).sp ∧
          (if (o.test && !ok) || o.replace then
            (t.shell L).drain = .remap ∧ t.cox.marked = s.cox.marked ++ [L.val] ∧ t.cox.longOps = s.cox.longOps
          else (t.shell L).drain = .drained ∧ t.cox.marked = s.cox.marked)) ∧
  (∀ (c : Chan) (L : Fin 64) (s : State), Admitted s c mbShellRejoin true (some 5) → (s.shell L).drain = .drained →
      Gives (.shellRejoin c L) s fun t =>
        AnsweredBy s c stOk [] t ∧ t.shell L = { s.shell L with drain := .none, maint := false, handles := [] } ∧
          OtherShells L s t) ∧
  (∀ (s : State) (L : Fin 64) (p : Nat) (r : List Nat), coxRuns s = true → s.cox.marked = [L.val] →
    freeSpares s (dieOf L) = p :: r →
      Gives .managementPass s fun t =>
        (t.shell L).phys = p ∧ (t.shell L).maint = false ∧ (t.shell L).vacant = false ∧ t.cox.marked = [] ∧
          (∀ a, inContextRegion (s.shell L) (a / 72) = true → mget (t.shell L).sp a = mget (s.shell L).sp a) ∧
          OtherShells L s t ∧ t.cox.calNext = some (s.cox.calWeights * s.pwr.scale / 64) ∧ t.pwr = s.pwr) ∧
  (∀ (s : State) (L : Fin 64), coxRuns s = true → s.cox.marked = [L.val] → freeSpares s (dieOf L) = [] →
      Gives .managementPass s fun t =>
        (t.shell L).vacant = true ∧ (t.shell L).regions = [] ∧ (t.shell L).windows = [] ∧ OtherShells L s t) ∧
  (∀ (failed : List (Fin 68)) (s : State), coxRuns s = true → mainOn s = true →
      Gives (.spareSelfTest failed) s fun t =>
        (∀ k ∈ failed, 32 ≤ k.val % 34 → (s.physOf k).used = false → k.val ∈ t.cox.spareFailed) ∧
          t.shells = s.shells ∧ t.mem = s.mem) ∧
  (∀ (c : Chan) (u : Fin 16) (s : State), Admitted s c mbUnitReset true (some 5) → mainOn s = true →
    tfind s.cox.unitReset u = none →
      Gives (.unitReset c u) s fun t =>
        AnsweredBy s c stAccepted [] t ∧ tfind t.cox.unitReset u = some s.clk.now ∧ t.streams = s.streams ∧
          t.tasks = s.tasks) ∧
  (∀ (u : Fin 16) (s : State) (n : Nat), tfind s.cox.unitReset u = some n →
      (unitStreams s u = [] → Gives (.unitResetTimeout u true) s fun t =>
        tfind t.cox.unitReset u = none ∧ t.tasks = s.tasks ∧ t.up = s.up) ∧
      (unitStreams s u = [] → Gives (.unitResetTimeout u false) s fun t =>
        tfind t.cox.unitReset u = none ∧ t.up.keyUnitOut.getLsbD u = true) ∧
      (unitStreams s u ≠ [] → s.since n < unitGrace → Gives (.unitResetTimeout u true) s fun t => t = s) ∧
      (∀ id x m r, unitGrace ≤ s.since n → (id, x) ∈ unitStreams s u → x.members = m :: r →
        ∀ k, tfind s.tasks x.task = some k → k.fault = none → k.st ≠ .done →
          Gives (.unitResetTimeout u true) s fun t => ∃ y, tfind t.tasks x.task = some y ∧ y.st = .ending)) ∧
  (∀ (c : Chan) (q : Port) (s : State), Admitted s c mbPortReset true none → mainOn s = true →
    senderPort c ≠ some q → (senderPort c).any (fun p => (s.port p).resetting) = false → portResetBusy s = false →
      Gives (.portReset c q) s fun t =>
        (t.port q).linkUp = false ∧ (t.port q).resetting = true ∧ t.ctxs = s.ctxs ∧ t.sems = s.sems ∧ t.mem = s.mem) ∧
  (∀ (c : Chan) (s : State) (o : LongOp) (q : Port), EndsNext s c o → o.act = .portReset q →
      Gives (.longOperationEnd c) s fun t => (t.port q).resetting = false ∧ t.cox.longOps = s.cox.longOps.erase o) ∧
  (∀ (c : Chan) (s : State), Admitted s c mbCalibRun true (some 1) → isReady s = true →
      Gives (.calibRun c) s fun t =>
        AnsweredBy s c stAccepted [] t ∧
          t.cox.longOps = s.cox.longOps ++ [{ ch := c, opcode := mbCalibRun, seq := blkSeq (s.chan c), act := .calib }] ∧
          t.pwr = s.pwr) ∧
  (∀ (c : Chan) (s : State) (o : LongOp), EndsNext s c o → o.act = .calib →
      Gives (.longOperationEnd c) s fun t =>
        t.cox.calNext = some (s.cox.calWeights * s.pwr.scale / 64) ∧
          t.cox.longOps = s.cox.longOps.erase o) ∧
  (∀ (s : State), coxRuns s = true →
      Gives .calibrationDaily s fun t =>
        if s.pwr.scale < 62 ∨ 66 < s.pwr.scale then
          t.cox.calNext = some (s.cox.calWeights * s.pwr.scale / 64) ∧ t.pwr = s.pwr ∧ t.tasks = s.tasks
        else t = s)

/-- Cox at its own times and the guard of a powered-down domain (R496, R499, R502, R503, R516, R564): a snapshot is published with the
Almanac, the log's buffer is written to flash, the second's corrected events are gathered; a missed kick restarts Cox from
the committed slot, answers the blocks it had taken and leaves the tasks; and the guard answers each kind of requester. -/
def Obligations.CoxAtItsOwnTimes : Prop :=
  (∀ (x : Readings) (s : State), coxRuns s = true →
      Gives (.sensorSnapshot x) s fun t =>
        t.cox.snapshot = some (snapshotOf s x) ∧ t.tasks = s.tasks ∧ t.mem = s.mem ∧ t.shells = s.shells) ∧
  (∀ (s : State), coxRuns s = true →
      Gives .logFlush s fun t =>
        t.cox.log = (if logCapacity < s.cox.log.length + s.cox.logBuf.length then s.cox.log.drop logErase
          else s.cox.log) ++ s.cox.logBuf ∧ t.mem = s.mem ∧ t.tasks = s.tasks) ∧
  (∀ (s : State), coxRuns s = true →
      Gives .correctedSummary s fun t => t.cox.corr = [] ∧ t.cox.log = s.cox.log ∧ t.tasks = s.tasks) ∧
  (∀ (pc : BitVec 32) (s : State), coxRuns s = true →
      Gives (.coxWatchdog pc) s fun t =>
        t.cox.running = s.cox.committed ∧ t.cox.trial = none ∧ t.cox.verified = false ∧ t.cox.longOps = [] ∧
          (∀ c, (s.chan c).busy = true → (t.chan c).done = true ∧ (t.chan c).go = false ∧
            mnum (t.chan c).buf 6 1 = 0x0A) ∧
          t.tasks = s.tasks ∧ t.mem = s.mem ∧ t.ctxs = s.ctxs) ∧
  (∀ (sh : Fin 64) (a : BitVec 64) (s : State) (tid : Nat), (s.shell sh).holder = some tid →
      Gives (.domainGuardResponse (.task sh a)) s fun t =>
        t = abortTask tid { code := 0x11, detail := a.toNat } sh (s.shell sh).stroke.idx s) ∧
  (∀ (p : Port) (f : Fin 32) (s : State),
      Gives (.domainGuardResponse (.hostRead p f)) s fun t =>
        (t.fn (fnKey p f)).cause.getLsbD 7 = true ∧ (t.port p).answer = .data (List.replicate 8 0)) ∧
  (∀ (p : Port) (f : Fin 32) (s : State),
      Gives (.domainGuardResponse (.hostWrite p f)) s fun t =>
        (t.fn (fnKey p f)).cause.getLsbD 7 = true ∧ t.mem = s.mem ∧ t.shells = s.shells) ∧
  (∀ (p : Port) (s : State),
      Gives (.domainGuardResponse (.peer p true)) s fun t =>
        (t.port p).answer = .abort ∧ t.mem = s.mem ∧ t.shells = s.shells ∧
          tget 0 t.ctr (portCtr p 11) = min (tget 0 s.ctr (portCtr p 11) + 1) (ctrMax (portCtr p 11))) ∧
  (∀ (p : Port) (s : State), Gives (.domainGuardResponse (.peer p false)) s fun t => t = s.bump (portCtr p 11)) ∧
  (∀ (s : State), s.cox.logBuf.length < logMax →
      Gives (.domainGuardResponse .cox) s fun t =>
        t.cox.logBuf.length = s.cox.logBuf.length + 1 ∧ t.tasks = s.tasks ∧ t.mem = s.mem) ∧
  (∀ (c : Chan) (s : State), (s.chan c).go = true → serves s c = true →
      Gives (.domainGuardResponse (.mailbox c)) s fun t => t = respond c stDomainOff [] s)

/-! ## Security (16_security_engines R533–R562) -/

/-- Staging, key store, the engine's operations and attestation (R545–R549, R552–R554, R557, R561): a stage write reaches its
channel's own buffer alone; an import is accepted for an empty slot and fills it only when its secret opens; an erase
empties its slot and no other; an operation with a secret is accepted only from a sender the slot covers; and an attestation
is accepted while signatures are left, counts one in counter 5, and reports its version and the nonce. -/
def Obligations.KeyStoreAndAttestation : Prop :=
  (∀ (c : Chan) (s : State), Admitted s c mbStageWrite true (some 2) → stagingBusy s c = false →
      let pl := blkPayload (s.chan c)
      let off := leNat (pl.take 8)
      8 ≤ pl.length → off + (pl.drop 8).length ≤ stagingSize →
      Gives (.stageWrite c) s fun t =>
        AnsweredBy s c stOk [] t ∧ mslice (staging t c) off (pl.drop 8).length = pl.drop 8 ∧
          (∀ a, a < off ∨ off + (pl.drop 8).length ≤ a → mget (staging t c) a = mget (staging s c) a) ∧
          (∀ d, chanKey d ≠ chanKey c → staging t d = staging s d) ∧ t.sec.ks = s.sec.ks) ∧
  (∀ (c : Chan) (slot : Fin 64) (a : BitVec 256) (s : State), Admitted s c mbKsImport true (some 2) → ksWorks s = true →
    attrOk a = true → tfind s.sec.ks slot = none →
      Gives (.ksImport c slot a) s fun t =>
        AnsweredBy s c stAccepted [] t ∧ t.sec = s.sec ∧
          t.cox.longOps = s.cox.longOps ++
            [{ ch := c, opcode := mbKsImport, seq := blkSeq (s.chan c), act := .ksImport slot a }]) ∧
  (∀ (c : Chan) (s : State) (o : LongOp) (slot : Fin 64) (a : BitVec 256), EndsNext s c o → o.act = .ksImport slot a →
    tfind s.sec.ks slot = none →
      Gives (.longOperationEnd c) s fun t =>
        staging t c = [] ∧ t.cox.longOps = s.cox.longOps.erase o ∧
          (∀ j, j ≠ slot.val → tfind t.sec.ks j = tfind s.sec.ks j) ∧
          tfind t.sec.ks slot = (unwrapped s c a).map fun x => { attr := a, secret := x }) ∧
  (∀ (c : Chan) (slot : Fin 64) (s : State), Admitted s c mbKsErase true (some 2) → ksWorks s = true →
      Gives (.ksErase c slot) s fun t =>
        AnsweredBy s c stOk [] t ∧ tfind t.sec.ks slot = none ∧
          ∀ j, j ≠ slot.val → tfind t.sec.ks j = tfind s.sec.ks j) ∧
  (∀ (c : Chan) (slot : Fin 64) (a : BitVec 256) (s : State) (k : KsSlot), Admitted s c mbKsRoll true (some 2) →
    ksWorks s = true → tfind s.sec.ks slot = some k → attrOk a = true → sameKind a k.attr = true →
      Gives (.ksRoll c slot a) s fun t =>
        AnsweredBy s c stAccepted [] t ∧ t.sec = s.sec ∧
          t.cox.longOps = s.cox.longOps ++ [{ ch := c, opcode := mbKsRoll, seq := blkSeq (s.chan c), act := .ksRoll slot a }]) ∧
  (∀ (c : Chan) (s : State) (o : LongOp) (slot : Fin 64) (a : BitVec 256) (k : KsSlot), EndsNext s c o →
    o.act = .ksRoll slot a → tfind s.sec.ks slot = some k →
      Gives (.longOperationEnd c) s fun t =>
        staging t c = [] ∧ (∀ j, j ≠ slot.val → tfind t.sec.ks j = tfind s.sec.ks j) ∧
          tfind t.sec.ks slot = some (match unwrapped s c a with
            | some x => { attr := a ||| ((ksGen k.attr + 1).setWidth 256 <<< 64), secret := x }
            | none => k)) ∧
  (∀ (c : Chan) (q : PkReq) (s : State) (x : List Byte), Admitted s c mbPkRun true (some 2) → ksWorks s = true →
    q.src + q.len ≤ stagingSize → q.dst < stagingSize → pkSecret s c q = some x →
      Gives (.pkRun c q) s fun t =>
        AnsweredBy s c stAccepted [] t ∧ t.sec = s.sec ∧
          t.cox.longOps = s.cox.longOps ++ [{ ch := c, opcode := mbPkRun, seq := blkSeq (s.chan c), act := .pkRun q x }]) ∧
  (∀ (c : Chan) (q : PkReq) (s : State), Admitted s c mbPkRun true (some 2) → ksWorks s = true →
    q.src + q.len ≤ stagingSize → q.dst < stagingSize → pkSecret s c q = none →
      Gives (.pkRun c q) s fun t => t = respond c stNotOwner [] (serveTurn c s)) ∧
  (∀ (c : Chan) (s : State) (o : LongOp) (q : PkReq) (x : List Byte), EndsNext s c o → o.act = .pkRun q x →
    s.sec.bnLocked = true → q.dst < stagingSize →
      Gives (.longOperationEnd c) s fun t =>
        mget (staging t c) q.dst = 0x60 ∧ (∀ a, a ≠ q.dst → mget (staging t c) a = mget (staging s c) a) ∧
          t.sec.ks = s.sec.ks) ∧
  (∀ (c : Chan) (n : BitVec 256) (s : State), Admitted s c mbAttest true (some 2) → ksWorks s = true →
      Gives (.attest c n) s fun t =>
        if (rpmbOf s 5).toNat < 2 ^ 20 then
          AnsweredBy s c stAccepted [] t ∧ t.sec = s.sec ∧
            t.cox.longOps = s.cox.longOps ++ [{ ch := c, opcode := mbAttest, seq := blkSeq (s.chan c), act := .attest n }]
        else t = respond c stRefused [] (serveTurn c s)) ∧
  (∀ (c : Chan) (s : State) (o : LongOp) (n : BitVec 256), EndsNext s c o → o.act = .attest n →
    (rpmbOf s 5).toNat < 2 ^ 20 →
      Gives (.longOperationEnd c) s fun t =>
        rpmbOf t 5 = rpmbOf s 5 + 1 ∧ (∀ j, j ≠ 5 → rpmbOf t j = rpmbOf s j) ∧
          mslice (staging t c) 0 36 = leBytes 4 1 ++ leBytes 32 n.toNat ∧ t.cox.longOps = s.cox.longOps.erase o)

/-! ## Service ports (R517, R585, R586, R610) -/

/-- SMBus, UART and test port (R517, R585, R586, R610): a transaction whose PEC fails changes nothing but a count; a block is written and
read through the selected channel's 10-bit offset; a UART frame with its CRC submits its block; and the test port answers
its four instructions while TRST# is high. -/
def Obligations.ServicePorts : Prop :=
  (∀ (s : State) (w : BitVec 16) (bs : List Byte) (n : Nat) (y : Option Byte), s.up.aux = true →
    ∀ i ∈ [Instr.smbStatusByte false, .smbSensorBlockRead false, .smbSelectChannel false w, .smbBlockWrite false bs,
        .smbBlockRead false n, .smbControlAccess false y],
      Gives i s fun t => t = s.bump (errCtr 24)) ∧
  (∀ (s : State), s.up.aux = true → Gives (.smbStatusByte true) s fun t =>
      t = { s with svc := { s.svc with smbResp := [statusByte s] } }) ∧
  (∀ (s : State) (x : List Nat), s.up.aux = true → s.cox.snapshot = some x →
      Gives (.smbSensorBlockRead true) s fun t =>
        t.svc.smbResp = (Config.payload mbSensorRead x).take 32 ∧ t.chans = s.chans) ∧
  (∀ (s : State) (w : BitVec 16), s.up.aux = true →
      Gives (.smbSelectChannel true w) s fun t =>
        t.svc.smbSecure = w.getLsbD 15 ∧ t.svc.smbOff = w.setWidth 10 ∧ t.chans = s.chans) ∧
  (∀ (s : State) (bs : List Byte), s.up.aux = true → bs.length ≤ 32 → (s.chan (smbChan s)).go = false →
      Gives (.smbBlockWrite true bs) s fun t =>
        (∀ i b, bs[i]? = some b → mget (t.chan (smbChan s)).buf ((s.svc.smbOff.toNat + i) % 1024) = b) ∧
          t.svc.smbOff = s.svc.smbOff + BitVec.ofNat 10 bs.length ∧ t.svc.smbSecure = s.svc.smbSecure) ∧
  (∀ (s : State) (n : Nat), s.up.aux = true → n ≤ 32 →
      Gives (.smbBlockRead true n) s fun t =>
        t.svc.smbResp =
            (List.range n).map (fun i => mget (s.chan (smbChan s)).buf ((s.svc.smbOff.toNat + i) % 1024)) ∧
          t.svc.smbOff = s.svc.smbOff + BitVec.ofNat 10 n ∧ t.chans = s.chans) ∧
  (∀ (s : State), s.up.aux = true →
      Gives (.smbControlAccess true none) s fun t =>
        t.svc.smbResp = [ctlByte (s.chan (smbChan s))] ∧ t.chans = s.chans) ∧
  (∀ (block : List Byte) (s : State), s.up.aux = true → s.svc.uartIn = false → 16 ≤ block.length →
    block.length ≤ 1024 → (s.chan .uart).go = false →
      Gives (.uartFrame block (crc32 block)) s fun t =>
        t = submit .uart (s.modChan .uart fun x => { x with buf := mput x.buf 0 block })) ∧
  (∀ (block : List Byte) (crc : BitVec 32) (s : State), s.up.aux = true → s.svc.uartIn = false → 16 ≤ block.length →
    block.length ≤ 1024 → crc32 block ≠ crc →
      Gives (.uartFrame block crc) s fun t => t = s.bump (errCtr 25)) ∧
  (∀ (s : State), s.up.aux = true → s.svc.uartIn = false → (s.chan .uart).go = true → (s.chan .uart).busy = false →
      Gives .uartAbortFrame s fun t => t = respond .uart stAborted [] s) ∧
  (∀ (s : State), Gives .uartSilenceTimeout s fun t => t = { s with svc := { s.svc with uartIn := false } }) ∧
  (∀ (s : State), s.svc.trst = true → Gives .jtagIdcode s fun t => t.svc.tdo = 0x1481666F ∧ t.svc.ir = irIdcode) ∧
  (∀ (s : State) (tdi : Bool), s.svc.trst = true →
      Gives (.jtagBypass tdi) s fun t =>
        t.svc.bypass = tdi ∧ t.svc.tdo = (if s.svc.bypass then 1 else 0) ∧ t.svc.driven = []) ∧
  (∀ (s : State) (pins cells : List Bool), s.svc.trst = true →
      Gives (.jtagSamplePreload pins cells) s fun t => t.svc.sampled = pins ∧ t.svc.cells = cells ∧ t.svc.driven = []) ∧
  (∀ (s : State) (tdi : Bool), s.svc.trst = true →
      Gives (.jtagExtest tdi) s fun t =>
        if mainOn s then t.svc.driven = [] ∧ t.svc.bypass = tdi else t.svc.driven = s.svc.cells ∧ t.svc.ir = irExtest) ∧
  (∀ (s : State) (high : Bool),
      Gives (.trst high) s fun t => t.svc.trst = high ∧ (high = false → t.svc.driven = [] ∧ t.svc.ir = irIdcode)) ∧
  (∀ (s : State) (tdi : Bool), s.svc.trst = false →
      Gives (.jtagBypass tdi) s (fun t => t = s) ∧ Gives .jtagIdcode s (fun t => t = s))

/-! ## Stacked memory (12_stacked_memory R396–R428) and errors of lines (06_shell_and_scratchpad R194, R195) -/

/-- Reads and writes that reach a stack controller (R402, R405, R408, R411, R419, R438): a read answers the memory with the bytes still
in the write-combining buffer; a buffered write is what the next read of its bytes returns, and no other byte reads
differently; one unit of an accumulate window takes its sum. -/
def Obligations.StackReadsAndWrites : Prop :=
  (∀ (q : StackReq) (a n : Nat) (s u : State) (bs : List Byte), a + n ≤ 2 ^ 38 → (∀ p, q ≠ .host p) →
    taking s a = true → (stackRead (reqNode q) (classOf q) a n).go s = (.ok bs, u) →
      Gives (.stackRead q a n) s fun t =>
        t = u ∧ bs = memSlice t a n ∧
          ((∀ c ∈ chunksOf a n, marksIn s (max a c) (min (a + n) (c + 256) - max a c) = []) →
            t.mem = s.mem ∧ bs = memSlice s a n)) ∧
  (∀ (p : Port) (a n : Nat) (s u : State) (bs : List Byte), a + n ≤ 2 ^ 38 → taking s a = true →
    (stackRead .iod 2 a n).go s = (.ok bs, u) →
      Gives (.stackRead (.host p) a n) s fun t => (t.port p).answer = .data bs ∧ t.mem = u.mem ∧ t.tasks = s.tasks) ∧
  (∀ (p : Port) (a n : Nat) (s : State), a + n ≤ 2 ^ 38 → taking s a = false →
      Gives (.stackRead (.host p) a n) s fun t =>
        (t.port p).heldAcc = (s.port p).heldAcc ++ [{ parts := [(a, n)], acc := .read n, since := s.clk.now }] ∧
          t.mem = s.mem) ∧
  (∀ (q : StackReq) (a n : Nat) (s : State), a + n ≤ 2 ^ 38 → (∀ p, q ≠ .host p) → taking s a = false →
      Gives (.stackRead q a n) s fun t =>
        t = s.modStack (stackOf a) fun x =>
          { x with queue := x.queue ++ [{ q := q, addr := a, n := n, since := s.clk.now }] }) ∧
  (∀ (q : StackReq) (a : Nat) (bs : List Byte) (s : State), a + bs.length ≤ 2 ^ 38 → a % 64 + bs.length ≤ 64 →
    taking s a = true → accWindow s a = none → outOfService s (256 * (a / 256)) = false →
    partialMark s a bs.length = none →
      let wcb := (s.stack (stackOf a)).wcb
      Gives (.stackWrite q a bs) s fun t =>
        memSlice t a bs.length = cycleBytes s (reqRank q) a bs ∧
          ((∀ e ∈ wcb, e.line = a / 64 → e.since ≠ s.clk.now) → memSlice t a bs.length = bs) ∧
          ((wcb.length < wcbAll ∨ ∃ e ∈ wcb, e.line = a / 64) →
            (∀ b, b < a ∨ a + bs.length ≤ b → memSlice t b 1 = memSlice s b 1) ∧
              t.mem = s.mem ∧ t.tasks = s.tasks ∧ t.shells = s.shells)) ∧
  (∀ (q : StackReq) (a : Nat) (bs : List Byte) (s u : State), a + bs.length ≤ 2 ^ 38 → taking s a = true →
    (bufferWrite q a bs).go s = (.ok (), u) → Gives (.accumulateWrite q a bs) s fun t => t = u) ∧
  (∀ (q : StackReq) (a c w off : Nat) (bs : List Byte) (m : MWin) (s : State), a + 4 ≤ 2 ^ 38 → bs.length = 4 →
    taking s a = true → accWindow s a = some (c, w, m, off) → m.etype = 1 → m.wstate ≠ 3 → off % 4 = 0 →
    stackOf (2 ^ 21 * m.frames.headD 0) = stackOf a → outOfService s (256 * (a / 256)) = false → marksIn s a 4 = [] →
    (∀ y ∈ (s.stack (stackOf a)).accNow, y.at_ ≠ s.clk.now) → (s.stack (stackOf a)).wcb.length < wcbAll →
      Gives (.accumulateWrite q a bs) s fun t =>
        leNat (memSlice t a 4) = (leNat (memSlice s a 4) + leNat bs) % 2 ^ 32 ∧
          (∀ b, b < a ∨ a + 4 ≤ b → memSlice t b 1 = memSlice s b 1) ∧ t.tasks = s.tasks)

/-- An entry of the write-combining buffer retires unseen (R402, R409): the oldest full entry, or a partial one after its time on a line
that can be merged, leaves the buffer and no byte of memory reads differently. -/
def Obligations.RetiringEntriesIsTransparent : Prop :=
  (∀ (st : Fin 8) (i : Nat) (s : State) (e : WEntry), (s.stack st).wcb[i]? = some e →
    ((s.stack st).wcb.map (·.line)).Nodup → stackOf (64 * e.line) = st.val →
    (e.mask = BitVec.allOnes 64 ∧
        ((s.stack st).wcb.take i).any (fun y => decide (y.mask = BitVec.allOnes 64)) = false ∨
      e.mask ≠ BitVec.allOnes 64 ∧ e.reserve = false ∧ wcbHigh ≤ generalCount (s.stack st) ∧
        tfind (s.stack st).lineErr (stackOff (64 * e.line) / 64) = none) →
      Gives (.wcbRetire st i) s fun t =>
        (t.stack st).wcb = (s.stack st).wcb.filter (fun y => decide (y.line ≠ e.line)) ∧
          (∀ a, memSlice t a 1 = memSlice s a 1) ∧ t.tasks = s.tasks) ∧
  (∀ (st : Fin 8) (i : Nat) (s : State) (e : WEntry), (s.stack st).wcb[i]? = some e →
    ((s.stack st).wcb.map (·.line)).Nodup → stackOf (64 * e.line) = st.val → e.mask ≠ BitVec.allOnes 64 →
    partialNs ≤ s.since e.since → tfind (s.stack st).lineErr (stackOff (64 * e.line) / 64) = none →
      Gives (.wcbPartialTimeout st i) s fun t =>
        (t.stack st).wcb = (s.stack st).wcb.filter (fun y => decide (y.line ≠ e.line)) ∧
          (∀ a, memSlice t a 1 = memSlice s a 1) ∧ t.tasks = s.tasks) ∧
  (∀ (st : Fin 8) (i : Nat) (s : State) (e : WEntry), (s.stack st).wcb[i]? = some e → s.since e.since < partialNs →
      Gives (.wcbPartialTimeout st i) s fun t => t = s)

/-- Refresh, retraining, sparing and repair (R194, R195, R403, R413, R420–R428): a refreshed bank closes its row and moves its interval
on; the rotation retrains the next channel in free mode; a second failure calls for the spare, which takes the number at the
end of its copy; a due row moves to a spare row; and the patrols visit the next line or group, and fault no task. -/
def Obligations.RefreshSparingAndPatrols : Prop :=
  (∀ (st : Fin 8) (ch : Fin 64) (bank : Fin 16) (s : State),
    let k := 16 * ch.val + bank.val
    let due := tget ((s.stack st).refBase + refreshNs (s.stack st)) (s.stack st).refresh k
    s.mode.fixed = false → (s.stack st).selfRefresh = false →
    due ≤ s.clk.now + 4 * refreshNs (s.stack st) →
      Gives (.bankRefresh st ch bank) s fun t =>
        tfind (t.stack st).openRow k = none ∧
          tfind (t.stack st).refresh k = some (due + refreshNs (s.stack st)) ∧ t.mem = s.mem ∧
          ∀ j, j ≠ st.val → t.stack j = s.stack j) ∧
  (∀ (st : Fin 8) (ch : Fin 64) (bank : Fin 16) (s : State), s.mode.fixed = true → (s.stack st).selfRefresh = false →
      Gives (.bankRefresh st ch bank) s fun t =>
        if fixedRefresh s.clk.alm.toNat ch bank then tfind (t.stack st).openRow (16 * ch.val + bank.val) = none ∧
          t.mem = s.mem ∧ ∀ j, j ≠ st.val → t.stack j = s.stack j
        else t = s) ∧
  (∀ (st : Fin 8) (b : Bool) (s : State), s.mode.fixed = false → (s.stack st).selfRefresh = false →
      Gives (.channelRetrain st b) s fun t =>
        (t.stack st).nextRetrain = ((s.stack st).nextRetrain + 1) % 66 ∧
          tget 0 (t.stack st).retrainFail (s.stack st).nextRetrain =
            (if b then 0 else tget 0 (s.stack st).retrainFail (s.stack st).nextRetrain + 1) ∧
          t.mem = s.mem ∧ t.tasks = s.tasks) ∧
  (∀ (st : Fin 8) (b : Bool) (s : State), s.mode.fixed = true → Gives (.channelRetrain st b) s fun t => t = s) ∧
  (∀ (st : Fin 8) (ch : Fin 66) (s : State) (l : Nat), (s.stack st).selfRefresh = false →
    tget 0 (s.stack st).retrainFail ch = 1 → logicalOf (s.stack st) ch = some l → physChan (s.stack st) l ≠ lostChan →
    (s.stack st).spareUsed.getLsbD (l / 32) = false →
    (s.stack st).copying.any (fun c => decide (c.logical / 32 = l / 32)) = false →
      Gives (.marginRetrain st ch false) s fun t =>
        (t.stack st).copying = (s.stack st).copying ++ [{ logical := l, spare := 64 + l / 32 }] ∧ t.mem = s.mem) ∧
  (∀ (st : Fin 8) (ch : Fin 66) (s : State), (s.stack st).selfRefresh = false →
      Gives (.marginRetrain st ch true) s fun t => tfind (t.stack st).retrainFail ch = none ∧ t.mem = s.mem) ∧
  (∀ (st : Fin 8) (half : Fin 2) (s : State) (c : ChanCopy),
    (s.stack st).copying.find? (fun c => c.logical / 32 = half.val) = some c →
      Gives (.channelCopyDone st half) s fun t =>
        tfind (t.stack st).chmap c.logical = some c.spare ∧ (t.stack st).spareUsed.getLsbD half = true ∧
          c ∉ (t.stack st).copying ∧ t.mem = s.mem ∧ t.tasks = s.tasks) ∧
  (∀ (st : Fin 8) (s : State) (r : Row), dueRow (s.stack st) = some r → nextSpare (s.stack st) r < 8 →
      Gives (.rowRepair st) s fun t =>
        (servedRow (s.stack st) r, nextSpare (s.stack st) r) ∈ (t.stack st).rowMap ∧ r ∉ (t.stack st).rowPending ∧
          t.mem = s.mem ∧ t.shells = s.shells) ∧
  (∀ (st : Fin 8) (s : State), (s.stack st).credits = true →
      Gives (.stackPatrol st) s fun t =>
        (t.stack st).patrol = ((s.stack st).patrol + 1) % stackLines ∧ t.tasks = s.tasks ∧ t.shells = s.shells ∧
          (marksIn s (2 ^ 35 * st.val + 64 * (s.stack st).patrol) 64 = [] → t.mem = s.mem)) ∧
  (∀ (sh : Fin 64) (s : State) (g : Nat), patrolGroup (s.shell sh) = some g →
      Gives (.scratchPatrol sh) s fun t =>
        (t.shell sh).patrolGrp = (g + 1) % 4096 ∧ (t.shell sh).sp = (s.shell sh).sp ∧ t.tasks = s.tasks ∧
          OtherShells sh s t) ∧
  (∀ (sh : Fin 64) (line : Fin 262144) (s : State), (s.shell sh).wbPending.contains line.val = true →
      Gives (.correctedWriteback sh line) s fun t =>
        line.val ∉ (t.shell sh).wbPending ∧ (∀ e ∈ (t.shell sh).lineErr, e.1 = line.val → lineClass (t.shell sh) e = .unc) ∧
          (t.shell sh).sp = (s.shell sh).sp ∧ t.tasks = s.tasks ∧ OtherShells sh s t)

/-! ## Windows and several modules (06_shell_and_scratchpad R206–R209, 13_multi_device_and_determinism R429–R449) -/

/-- Windows, aperture, landings and the sampled check (R206–R209, R430, R432, R437, R440, R444): an admitted access has its effect; one
that no open entry admits aborts the requester, or is answered with an abort and counted for a peer; a fence counts a landing
and reaches its counter; and a sample that differs puts its window into the check state. -/
def Obligations.WindowsAndPeers : Prop :=
  (∀ (q : WinReq) (s u : State) (tid : Nat) (t : Task) (win : Window), (s.shell q.src).holder = some tid →
    tfind s.tasks tid = some t → tfind (s.shell q.owner).windows q.win = some win →
    (winAccess q.owner q.src t.ctx (winPieces win.base q.off (accLen q.acc)) q.acc).go s = (.ok (), u) →
      Gives (.windowAccess q) s fun v => v = u) ∧
  (∀ (q : WinReq) (s : State) (tid : Nat) (t : Task), (s.shell q.src).holder = some tid → tfind s.tasks tid = some t →
    tfind (s.shell q.owner).windows q.win = none →
      Gives (.windowAccess q) s fun v =>
        v = abortTask tid { code := 0x11, detail := spAddr q.owner 0 } q.src (s.shell q.src).stroke.idx
          (s.bump (shellCtr q.owner 90))) ∧
  (∀ (p : Port) (f : Fin 32) (rid : BitVec 16) (off : BitVec 36) (a : Access) (s : State), apertureCtx s p f = none →
      Gives (.apertureAccess p f rid off a) s fun t =>
        t.mem = s.mem ∧ t.shells = s.shells ∧ tget 0 t.ctr (portCtr p 11) =
          min (tget 0 s.ctr (portCtr p 11) + 1) (ctrMax (portCtr p 11)) ∧
          (t.port p).answer = if isWrite a then (s.port p).answer else .abort) ∧
  (∀ (p : Port) (f : Fin 32) (rid : BitVec 16) (off : BitVec 36) (a : Access) (c : Nat) (s : State),
    let L := bits off.toNat 34 29
    apertureCtx s p f = some c → off.toNat < 2 ^ 35 →
    (∀ win, tfind (s.shell L).windows (bits off.toNat 28 25) = some win →
      peerWindow (s.shell L) (s.ctx c) c rid win (isWrite a) = false) →
      Gives (.apertureAccess p f rid off a) s fun t => t = refusePeer p a (s.bump (shellCtr L 90))) ∧
  (∀ (p : Port) (f : Fin 32) (rid : BitVec 16) (off : BitVec 36) (a : Access) (c : Nat) (s : State),
    apertureCtx s p f = some c → 2 ^ 35 ≤ off.toNat →
    winTakes (tget MWin.reset (s.ctx c).mwins (bits off.toNat 34 31)) (s.ctx c) rid (isWrite a) = false →
      Gives (.apertureAccess p f rid off a) s fun t => t = refusePeer p a s) ∧
  (∀ (p : Port) (f : Fin 32) (rid : BitVec 16) (off : BitVec 36) (n c : Nat) (s u : State) (bs : List (List Byte)),
    let o := off.toNat
    let m := tget MWin.reset (s.ctx c).mwins (bits o 34 31)
    apertureCtx s p f = some c → 2 ^ 35 ≤ o → winTakes m (s.ctx c) rid false = true →
    s.pwr.stage < 3 → bits o 30 0 + n ≤ 2 ^ 21 * m.pages.toNat → (fenceOff + 8 ≤ bits o 30 0 ∨ bits o 30 0 + n ≤ fenceOff) →
    Act.go ((accPieces m (bits o 30 0) n).mapM fun z => stackRead .iod 2 z.1 z.2) (s.bump (portCtr p 10)) = (.ok bs, u) →
      Gives (.apertureAccess p f rid off (.read n)) s fun t =>
        (t.port p).answer = .data bs.flatten ∧ t.mem = u.mem ∧ t.tasks = u.tasks) ∧
  (∀ (p : Port) (f : Fin 32) (rid : BitVec 16) (off : BitVec 36) (bs : List Byte) (c : Nat) (s u : State),
    let o := off.toNat
    let m := tget MWin.reset (s.ctx c).mwins (bits o 34 31)
    apertureCtx s p f = some c → 2 ^ 35 ≤ o → winTakes m (s.ctx c) rid true = true → m.wstate ≠ 3 →
    s.pwr.stage < 3 → bits o 30 0 + bs.length ≤ 2 ^ 21 * m.pages.toNat →
    (fenceOff + 8 ≤ bits o 30 0 ∨ bits o 30 0 + bs.length ≤ fenceOff) →
    (storeParts .iod (partsOf (accPieces m (bits o 30 0) bs.length) bs)).go (s.bump (portCtr p 10)) = (.ok (), u) →
      Gives (.apertureAccess p f rid off (.write bs)) s fun t => t = u) ∧
  (∀ (p : Port) (f : Fin 32) (rid : BitVec 16) (w : Fin 16) (s : State) (c : Nat),
    let m := tget MWin.reset (s.ctx c).mwins w
    apertureCtx s p f = some c → winTakes m (s.ctx c) rid true = true → m.wstate ≠ 3 →
      Gives (.fenceLanding p f rid w) s fun t =>
        (tget MWin.reset (t.ctx c).mwins w).landings = m.landings + 1 ∧
          t.inbox = s.inbox ++ [{ ctx := c, cnt := m.land.toNat, src := .landing, set := false, v := 1 }] ∧
          t.mem = s.mem ∧ t.tasks = s.tasks) ∧
  (∀ (sh : Fin 64) (s : State) (x : Sample) (q : List Sample), (s.shell sh).checkQ = x :: q → sampleSum x = x.new →
      Gives (.sampledCheck sh none) s fun t => t = s.modShell sh fun y => { y with checkQ := q }) ∧
  (∀ (sh : Fin 64) (s : State) (x : Sample) (q : List Sample) (r : Nat), (s.shell sh).checkQ = x :: q → r ≠ x.new →
    (tget MWin.reset (s.ctx x.ctx).mwins x.win).en = true →
      Gives (.sampledCheck sh (some r)) s fun t =>
        (t.shell sh).checkQ = q ∧ (tget MWin.reset (t.ctx x.ctx).mwins x.win).wstate = 3 ∧
          (t.fn (fnKey (s.ctx x.ctx).port (s.ctx x.ctx).fn)).cause.getLsbD 12 = true ∧ t.mem = s.mem)

/-- The SYNC wires (R446–R449): a master in range sends its count with a CRC and the next number; a follower sets its Almanac by the
first good frame, ignores and counts a frame whose CRC fails, is locked after eight good offsets, and unlocks when frames
stay away. -/
def Obligations.SyncWires : Prop :=
  (∀ (load rtt : Nat) (s : State), s.sync.role = 1 →
      Gives (.syncMeasure load rtt) s fun t =>
        t.sync = { s.sync with load := load, rtt := rtt, range := decide (8 < load) || decide (800 < rtt) } ∧
          t.clk = s.clk) ∧
  (∀ (s : State), s.sync.role = 1 → s.sync.range = false →
      Gives .syncFrameSend s fun t =>
        bits t.sync.out.toNat 63 0 = s.clk.alm.toNat ∧ bits t.sync.out.toNat 91 84 = s.sync.seq % 256 ∧
          BitVec.ofNat 8 (bits t.sync.out.toNat 99 92) = crc8 (bits t.sync.out.toNat 91 0) 92 0 ∧
          t.sync.seq = (s.sync.seq + 1) % 256 ∧ t.clk = s.clk) ∧
  (∀ (s : State), s.sync.role = 1 → s.sync.range = true → Gives .syncFrameSend s fun t => t = s) ∧
  (∀ (fr : BitVec 100) (td : BitVec 64) (r : Nat) (s : State), s.sync.role = 2 → s.sync.synced = false →
    crc8 (bits fr.toNat 91 0) 92 0 = BitVec.ofNat 8 (bits fr.toNat 99 92) →
      Gives (.syncFrameReceive fr td r) s fun t =>
        t.clk.alm = s.clk.alm + (BitVec.ofNat 64 (bits fr.toNat 63 0) +
            BitVec.ofInt 64 (((bits fr.toNat 79 64 : Nat) - (r : Int) + 4) / 8) - td) ∧
          t.sync.synced = true ∧ t.sync.lastSeq = bits fr.toNat 91 84) ∧
  (∀ (fr : BitVec 100) (td : BitVec 64) (r : Nat) (s : State), s.sync.role = 2 →
    crc8 (bits fr.toNat 91 0) 92 0 ≠ BitVec.ofNat 8 (bits fr.toNat 99 92) →
      Gives (.syncFrameReceive fr td r) s fun t =>
        t.clk = s.clk ∧ t.sync = { s.sync with missed := s.sync.missed + 1 }) ∧
  (∀ (fr : BitVec 100) (td : BitVec 64) (r : Nat) (s : State), s.sync.role = 2 → s.sync.synced = true →
    crc8 (bits fr.toNat 91 0) 92 0 = BitVec.ofNat 8 (bits fr.toNat 99 92) →
    bits fr.toNat 91 84 = (s.sync.lastSeq + 1) % 256 →
    let off := (td - (BitVec.ofNat 64 (bits fr.toNat 63 0) +
      BitVec.ofInt 64 (((bits fr.toNat 79 64 : Nat) - (r : Int) + 4) / 8))).toInt
    Gives (.syncFrameReceive fr td r) s fun t =>
        t.clk = s.clk ∧ t.sync.offset = off ∧ t.sync.locked = decide (-2 ≤ off ∧ off ≤ 2 ∧ 7 ≤ s.sync.good) ∧
          (if s.sync.locked = true ∧ t.sync.locked = false then t.sync.synced = false ∧ t.sync.slew = 0
          else t.sync.synced = true ∧ t.sync.slew = -off)) ∧
  (∀ (s : State), s.sync.role = 2 → s.sync.synced = true →
      Gives .followerUnlock s fun t =>
        t.sync.locked = false ∧ t.sync.synced = false ∧ t.sync.slew = 0 ∧ t.clk = s.clk)

/-! ## Power, supplies and thermal control (14_power_supply_thermal R458–R493, 01_architecture R46) -/

/-- Feeds and references (R46, R458–R463, R611): V_in follows the higher feed that the switches let through; a feed that fails, stands
above 61.0 V or feeds back leaves the bus and one that returns joins it; the loss of both references, or of P3V3_AUX, takes
the main domains down. -/
def Obligations.FeedsAndReferences : Prop :=
  (∀ (x : Port) (mv : Nat) (s : State), (feedOf s x).present = true →
      Gives (.feedFailure x mv) s fun t =>
        (feedOf t x).present = false ∧ t.pwr.vin = feedCv (feedOf s (otherPort x)) ∧ t.mem = s.mem ∧ t.tasks = s.tasks ∧
          feedOf t (otherPort x) = feedOf s (otherPort x)) ∧
  (∀ (x : Port) (cv : Nat) (s : State), (feedOf s x).present = true → (feedOf s x).connected = true → 6100 < cv →
      Gives (.feedOvervoltage x cv) s fun t =>
        (feedOf t x).connected = false ∧ t.pwr.vin = feedCv (feedOf s (otherPort x)) ∧ t.tasks = s.tasks) ∧
  (∀ (x : Port) (cv : Nat) (s : State), (feedOf s x).present = true → (feedOf s x).connected = false → cv ≤ 5950 →
    (feedOf s x).reverseOpen = false →
      Gives (.feedReconnect x cv) s fun t =>
        feedCv (feedOf t x) = cv ∧ t.pwr.vin = max cv (feedCv (feedOf s (otherPort x))) ∧ t.tasks = s.tasks) ∧
  (∀ (x : Port) (cv : Nat) (s : State),
      Gives (.feedApplied x cv) s fun t =>
        feedCv (feedOf t x) = (if cv ≤ 6100 then cv else 0) ∧
          t.pwr.vin = max (feedCv (feedOf t x)) (feedCv (feedOf s (otherPort x)))) ∧
  (∀ (x : Port) (s : State),
      Gives (.reverseCurrent x) s fun t =>
        feedCv (feedOf t x) = 0 ∧ t.pwr.vin = feedCv (feedOf s (otherPort x)) ∧ t.tasks = s.tasks) ∧
  (∀ (mv : Nat) (s : State), mv < 3000 →
      Gives (.auxLoss mv) s fun t =>
        t.mem = [] ∧ t.tasks = [] ∧ t.up.aux = false ∧ t.up.coxUp = false ∧ t.up.resetLevel = true ∧ t.sec.ks = [] ∧
          t.sec.secret = false ∧ t.ctr = [] ∧ t.sec.rpmb = s.sec.rpmb ∧ t.cox.log = s.cox.log ∧ t.cox.logBuf = [] ∧
          t.pending = s.pending) ∧
  (∀ (mv : Nat) (s : State), 3000 ≤ mv → Gives (.auxLoss mv) s fun t => t = s) ∧
  (∀ (p : Port) (s : State), refOf s.clk p = true → refOf s.clk (otherPort p) = true → s.clk.pll = true →
    s.clk.coreRef = some p →
      Gives (.refclkLoss p) s fun t =>
        refOf t.clk p = false ∧ (t.port p).linkUp = false ∧ t.clk.coreRef = some (otherPort p) ∧ t.clk.alm = s.clk.alm ∧ t.mem = s.mem ∧
          ∀ tid x, tfind s.tasks tid = some x → live x = true → x.shells ≠ 0 →
            ∃ y, tfind t.tasks tid = some y ∧ y.exact = false ∧ y.st = x.st) ∧
  (∀ (p : Port) (s : State), refOf s.clk p = true → refOf s.clk (otherPort p) = true → s.clk.pll = true →
    s.clk.coreRef ≠ some p →
      Gives (.refclkLoss p) s fun t =>
        refOf t.clk p = false ∧ (t.port p).linkUp = false ∧ t.clk.coreRef = s.clk.coreRef ∧ t.clk.alm = s.clk.alm ∧
          t.mem = s.mem ∧ t.tasks = s.tasks) ∧
  (∀ (p : Port) (s : State), refOf s.clk p = true → refOf s.clk (otherPort p) = false → s.clk.pll = true →
      Gives (.refclkLoss p) s fun t =>
        t.up.mainUp = false ∧ t.up.resetLevel = true ∧ t.up.pwrGood = false ∧ t.pwr.stage = 4 ∧ t.mem = [] ∧
          t.tasks = [] ∧ t.pending = s.pending) ∧
  (∀ (p : Port) (s : State),
      Gives (.referenceClockReturn p) s fun t =>
        refOf t.clk p = true ∧ refOf t.clk (otherPort p) = refOf s.clk (otherPort p) ∧ t.tasks = s.tasks ∧ t.mem = s.mem)

/-- The controller, the ramp limiter and the hints (R465–R475, R489–R493, R531): the package ceiling is at or below every limit but for
the ramp's floor, a Shell with a task is allowed at least 1/128 of the remainder, and no fraction exceeds 224 of 256; the
scale of the meters moves by at most one step and never puts the estimate below the measurement; the ramp ceiling moves by at
most one ramp step while the fall is bounded, and new weights take effect with it; hints and shares end when their time is
over; and an energy charge reaches every task, for each Shell it holds. -/
def Obligations.PowerControl : Prop :=
  (∀ (x : PowerIn) (s : State), mainOn s = true →
      Gives (.controllerInterval x) s fun t =>
        (t.pwr.pkgCeil = s.pwr.ceilFloor ∧ fallFree s = false ∨
          t.pwr.pkgCeil ≤ 1200000000 ∧ t.pwr.pkgCeil ≤ 1000000 * effCap s ∧ t.pwr.pkgCeil ≤ 920000 * effIn s ∧
            t.pwr.pkgCeil ≤ s.pwr.coolCeil ∧ t.pwr.pkgCeil ≤ s.pwr.rampCeil) ∧
          (fallFree s = false → s.pwr.ceilFloor ≤ t.pwr.pkgCeil) ∧
          (∀ L, L < 64 →
            let y := (t.shell L).pw
            y.demand = metered s (x.demand.getD L 0) ∧ y.fNext = min 224 (max y.fCap (dieRequest s (L / 32))) ∧
              y.fCap = (if (s.shell L).holder.isSome then capFraction y.demand y.allow else 0) ∧
              ((s.shell L).holder.isSome = true → fastShare s L = none →
                (t.pwr.pkgCeil - 10000 * x.other) / 128 ≤ y.allow) ∧
              y.f = (s.shell L).pw.f ∧ (t.shell L).sp = (s.shell L).sp ∧ (t.shell L).holder = (s.shell L).holder) ∧
          t.tasks = s.tasks ∧ t.mem = s.mem) ∧
  (∀ (d a : Nat), (capFraction d a = 0 ↔ d ≤ a) ∧ d * (256 - capFraction d a) ≤ 256 * a) ∧
  (∀ (sh : Fin 64) (s : State), mainOn s = true →
      Gives (.bubbleFrameBoundary sh) s fun t =>
        (t.shell sh).pw = { (s.shell sh).pw with f := (s.shell sh).pw.fNext } ∧ OtherShells sh s t ∧ t.mem = s.mem ∧
          ((s.shell sh).pw.fNext = 0 → t.tasks = s.tasks) ∧
          ((s.shell sh).pw.fNext ≠ 0 → ∀ tid x, tfind s.tasks tid = some x → live x = true → x.shells ≠ 0 →
            ∃ y, tfind t.tasks tid = some y ∧ y.exact = false ∧ y.st = x.st)) ∧
  (∀ (a b : Nat) (s : State),
      Gives (.meterScale a b) s fun t =>
        t.pwr.scale ≤ s.pwr.scale + 1 ∧ s.pwr.scale ≤ t.pwr.scale + 1 ∧
          (b * s.pwr.scale < 64 * a → t.pwr.scale = s.pwr.scale + 1) ∧
          (64 * a ≤ b * s.pwr.scale → t.pwr.scale ≤ s.pwr.scale ∧ 64 * a ≤ b * t.pwr.scale) ∧
          t.tasks = s.tasks ∧ t.mem = s.mem ∧ t.shells = s.shells) ∧
  (∀ (e : Nat) (s : State), mainOn s = true →
      let now := { s with pwr := { s.pwr with polEff := s.pwr.pol } }
      let step := rampStep now
      Gives (.rampLimiterTick e) s fun t =>
        t.pwr.polEff = s.pwr.pol ∧ t.pwr.effStep = step ∧ t.pwr.est = 10000 * e ∧
          t.pwr.rampCeil ≤ s.pwr.rampCeil + step ∧
          (fallFree now = false →
            s.pwr.rampCeil ≤ t.pwr.rampCeil + step ∧
              s.pwr.est + s.pwr.ballast ≤ t.pwr.est + t.pwr.ballast + step) ∧
          (∀ w, s.cox.calNext = some w → t.cox.calWeights = w ∧ t.pwr.scale = 64) ∧
          (s.cox.calNext = none → t.cox.calWeights = s.cox.calWeights ∧ t.pwr.scale = s.pwr.scale) ∧
          t.cox.calNext = none ∧ t.tasks = s.tasks ∧ t.mem = s.mem ∧ t.shells = s.shells) ∧
  (∀ (sh : Fin 64) (s : State) (a e share : Nat), (s.shell sh).pw.fast = some (a, e, share) → e ≤ s.clk.now →
      Gives (.fastHintEnd sh) s fun t =>
        (t.shell sh).pw = { (s.shell sh).pw with fast := none } ∧ OtherShells sh s t ∧ t.tasks = s.tasks) ∧
  (∀ (s : State) (h : FeastHint), s.pwr.preRamp = none → s.pwr.stage = 0 → hintsOff s = false → hintDue s = some h →
      Gives .preRampStart s fun t =>
        (∃ power, t.pwr.preRamp = some (power, h.start) ∧ ∀ g ∈ s.pwr.hints, g.power ≤ power) ∧
          t.pwr.hints = s.pwr.hints ∧ t.tasks = s.tasks) ∧
  (∀ (s : State), (s.pwr.stage ≠ 0 ∨ hintsOff s = true) → Gives .preRampStart s fun t => t = s) ∧
  (∀ (s : State) (power start : Nat), s.pwr.preRamp = some (power, start) → start + 10000 ≤ s.clk.now →
      Gives .preRampTimeout s fun t =>
        t.pwr.preRamp = none ∧ t.pwr.hints = s.pwr.hints.filter (fun h => decide (h.start ≠ start)) ∧
          t.tasks = s.tasks) ∧
  (∀ (x : EnergyIn) (s : State),
      let den := (List.range 64).foldl (fun a L => a + x.shells.getD L 0) 0 + x.ballast + 64 * x.share
      Gives (.energyCharge x) s fun t =>
        t.mem = s.mem ∧ t.shells = s.shells ∧
          ∀ tid k, tfind s.tasks tid = some k →
            tfind t.tasks tid = some { k with energyNj := k.energyNj +
              ((heldBy s tid).map fun L => x.total * (x.shells.getD L 0 + x.share) / den).sum })

/-- Thermal control (R416, R417, R476–R479, R500): in each group the highest reading gives level and request, and a group at its trip
threshold, or without a valid sensor, takes the main domains down; the package ceiling falls by 40 W per °C of coolant
above its start and never below 800 W; and a stack's temperature gives its throttle level and request, ends the cycle-exact
timing of its die's tasks, and trips the module at 110 °C or when it is invalid. -/
def Obligations.ThermalControl : Prop :=
  (∀ (s : State) (x : DieReadings) (a b c : Nat), hottest x.die0 = some a → hottest x.die1 = some b →
    hottest x.iod = some c → a < 460 → b < 460 → c < 460 →
      Gives (.dieSensorRead x) s fun t =>
        (∀ g v, (g, v) ∈ [(0, a), (1, b), (2, c)] →
          tget 0 t.pwr.hot g = v ∧
            tget 0 t.pwr.lvlDie g = dieLevel (tget 0 s.pwr.lvlDie g) (4 * effTj s) v ∧
            tget 0 t.pwr.reqDie g = (if tget 0 t.pwr.lvlDie g = 2 then 128
              else if tget 0 t.pwr.lvlDie g = 1 then heatRequest (4 * effTj s) v else 0)) ∧
          t.pwr.tripped = s.pwr.tripped ∧ t.up = s.up ∧ t.tasks = s.tasks ∧ t.mem = s.mem ∧ t.shells = s.shells) ∧
  (∀ (s : State) (x : DieReadings) (r : List Reading), s.pwr.tripped = false → r ∈ [x.die0, x.die1, x.iod] →
    (∀ a, hottest r = some a → 460 ≤ a) →
      Gives (.dieSensorRead x) s fun t =>
        t.up.mainUp = false ∧ t.up.resetLevel = true ∧ t.pwr.tripped = true ∧ t.pwr.alert = true ∧ t.mem = [] ∧
          t.tasks = []) ∧
  (∀ (old t0 t : Nat), 280 ≤ t0 → t0 ≤ 380 →
    (dieLevel old t0 t = 2 ↔ 420 ≤ t ∨ (2 ≤ old ∧ 408 < t)) ∧ (t0 < t → dieLevel old t0 t ≠ 0) ∧
      (t ≤ t0 - 12 → dieLevel old t0 t = 0)) ∧
  (∀ (d : Nat) (s : State),
      Gives (.coolantRead d) s fun t =>
        t.pwr.coolDeci = d ∧ 800000000 ≤ t.pwr.coolCeil ∧ t.pwr.coolCeil ≤ 1200000000 ∧
          (d ≤ 10 * effCool s → t.pwr.coolCeil = 1200000000) ∧
          (10 * effCool s ≤ d → d ≤ 10 * effCool s + 100 →
            t.pwr.coolCeil = 1200000000 - 4000000 * (d - 10 * effCool s)) ∧
          t.pwr.coolAlert = decide (10 * effCool s + 100 ≤ d) ∧ (t.pwr.coolAlert = true → t.pwr.alert = true) ∧
          t.tasks = s.tasks ∧ t.mem = s.mem ∧ t.shells = s.shells) ∧
  (∀ (st : Fin 8) (k : Nat) (s : State), k < 440 ∨ s.pwr.tripped = true →
      Gives (.stackTempReading st (.ok k)) s fun t =>
        let lvl := stackLevel (s.stack st).throttle k
        (t.stack st).temp = k ∧ (t.stack st).throttle = lvl ∧
          (t.stack st).req = (if lvl = 3 then 128 else if lvl = 2 then heatRequest 380 k else 0) ∧
          (∀ j, j ≠ st.val → t.stack j = s.stack j) ∧ t.mem = s.mem ∧ t.shells = s.shells ∧ t.up = s.up ∧
          (k < 440 → 2 ≤ lvl → ∀ tid x, tfind s.tasks tid = some x → live x = true → onDie x (st.val / 4) = true →
            ∃ y, tfind t.tasks tid = some y ∧ y.exact = false ∧ y.st = x.st) ∧
          (lvl < 2 → t.tasks = s.tasks)) ∧
  (∀ (st : Fin 8) (r : Reading) (s : State), s.pwr.tripped = false → (∀ k, r = .ok k → 440 ≤ k) →
      Gives (.stackTempReading st r) s fun t =>
        t.up.mainUp = false ∧ t.up.resetLevel = true ∧ t.pwr.tripped = true ∧ t.pwr.alert = true ∧ t.mem = [] ∧
          t.tasks = []) ∧
  (∀ (st : Fin 8) (s : State), s.pwr.tripped = true →
      Gives (.stackTempReading st .bad) s fun t =>
        t.up = s.up ∧ t.stackTab = s.stackTab ∧ t.tasks = s.tasks ∧ t.mem = s.mem ∧ t.shells = s.shells)

/-- Shedding (R349, R418, R419, R480–R485): a voltage below a falling threshold enters its stage; S2 aborts a task without a save area
with 0x42 and asks every other to yield; S3 aborts what still runs and puts the stacks into self-refresh with their buffers
empty; below S4 the main domains are down; and the stages are left in order. -/
def Obligations.Shedding : Prop :=
  (∀ (v : Nat) (s : State), mainOn s = true → s.pwr.stage = 0 → fallAt s 2 ≤ v → v < fallAt s 1 →
      Gives (.stageEntry v) s fun t =>
        t.pwr.stage = 1 ∧ t.pwr.vin = v ∧ t.pwr.preRamp = none ∧ t.pwr.dip.isSome = true ∧ t.mem = s.mem ∧
          t.shells = s.shells ∧ ∀ tid x, tfind s.tasks tid = some x →
            ∃ y, tfind t.tasks tid = some y ∧ y.st = x.st ∧ (live x = true → x.shells ≠ 0 → y.exact = false)) ∧
  (∀ (v : Nat) (s : State), mainOn s = true → s.pwr.stage = 1 → fallAt s 3 ≤ v → v < fallAt s 2 →
    (s.tasks.map (·.1)).Nodup →
      Gives (.stageEntry v) s fun t =>
        t.pwr.stage = 2 ∧ t.mem = s.mem ∧
          (∀ L, L < 64 → (s.shell L).holder = none → drained t L = true → (t.shell L).pw.parked = true) ∧
          ∀ tid x, tfind s.tasks tid = some x → x.fault = none →
            (x.st = .running → x.save ≠ 0 → x.gate = none →
              ∃ y, tfind t.tasks tid = some y ∧ y.st = .yielding ∧ y.preReq = true) ∧
            (live x = true → x.save = 0 →
              ∃ y, tfind t.tasks tid = some y ∧ y.st = .ending ∧
                y.fault.map (fun e => (e.code, e.detail)) = some (0x42, 2))) ∧
  (∀ (v : Nat) (s : State), mainOn s = true → s.pwr.stage = 2 → fallAt s 4 ≤ v → v < fallAt s 3 →
      Gives (.stageEntry v) s fun t =>
        t.pwr.stage = 3 ∧
          (∀ st, st < 8 → (t.stack st).selfRefresh = true ∧ (t.stack st).credits = false ∧ (t.stack st).wcb = []) ∧
          ∀ tid x, tfind s.tasks tid = some x → x.fault = none → live x = true →
            ∃ y, tfind t.tasks tid = some y ∧ y.st = .ending ∧
              y.fault.map (fun e => (e.code, e.detail)) = some (0x42, 3)) ∧
  (∀ (v : Nat) (s : State), mainOn s = true → s.pwr.stage = 3 → v < fallAt s 4 →
      Gives (.stageEntry v) s fun t =>
        t.pwr.stage = 4 ∧ t.up.resetLevel = true ∧ t.up.mainUp = false ∧ t.mem = [] ∧ t.tasks = []) ∧
  (∀ (v : Nat) (s : State), mainOn s = true → s.pwr.stage = 1 → riseAt s 1 ≤ v →
      Gives (.stageExit v) s fun t => t.pwr.stage = 0 ∧ t.pwr.dip = none ∧ t.tasks = s.tasks ∧ t.mem = s.mem) ∧
  (∀ (v : Nat) (s : State), mainOn s = true → s.pwr.stage = 2 → riseAt s 2 ≤ v →
      Gives (.stageExit v) s fun t =>
        t.pwr.stage = 1 ∧ (∀ L, L < 64 → (t.shell L).pw.parked = false) ∧ t.tasks = s.tasks ∧ t.mem = s.mem) ∧
  (∀ (v : Nat) (s : State), mainOn s = true → s.pwr.stage = 3 → riseAt s 3 ≤ v →
      Gives (.stageExit v) s fun t =>
        t.pwr.stage = 3 ∧ ∀ st, st < 8 → (t.stack st).selfRefresh = false ∧ (t.stack st).inS3Exit = true) ∧
  (∀ (v : Nat) (s : State), mainOn s = true → v < riseAt s s.pwr.stage →
      Gives (.stageExit v) s fun t => t = { s with pwr := { s.pwr with vin := v } }) ∧
  (∀ (s : State), s.pwr.stage = 3 → s.stackTab.all (fun e => e.2.inS3Exit) = true → s.stackTab ≠ [] →
    s.portA.heldAcc = [] → s.portB.heldAcc = [] →
      Gives .s3ExitDone s fun t =>
        t.pwr.stage = 2 ∧ (∀ st, st < 8 → (t.stack st).credits = true) ∧
          ((∀ st, st < 8 → (s.stack st).queue = []) → t.mem = s.mem) ∧
          ∀ e ∈ t.tasks, e.2.s3Held = false)


/-! ## The block as a whole -/

/-- A step takes the command at the front of the queue and runs it on the state with the queue's rest. -/
def Obligations.StepRunsTheFrontCommand : Prop :=
  ∀ (c : Instr) (r : List Instr) (s : State), s.pending = c :: r → step s = exec c (s.withPending r)

/-- Every command answers a next state and leaves the queue that the step left, except that an address that the memory map does
not have stops it (R399); none is refused. -/
def Obligations.CommandsAnswerAndKeepTheQueue : Prop :=
  ∀ (c : Instr) (s : State),
    (∃ t, exec c s = .next t ∧ t.pending = s.pending) ∨
      (exec c s = .fault .noSuchAddress ∧
        ((∃ p a, c = .hostMemoryAccess p a ∧ 2 ^ 38 < a.addr + accessLen a.acc) ∨
          (∃ q a n, c = .stackRead q a n ∧ 2 ^ 38 < a + n) ∨
          (∃ q a bs, c = .stackWrite q a bs ∧ 2 ^ 38 < a + bs.length) ∨
          (∃ q a bs, c = .accumulateWrite q a bs ∧ 2 ^ 38 < a + bs.length)))

/-- With no command waiting one nanosecond passes (the model's choice, log 1): the Almanac counts with the core clock unless it follows
another module's, and host and control registers, contexts, rings, semaphores and key store are left. -/
def Obligations.IdleStep : Prop :=
  ∀ (s : State), s.pending = [] →
    ∃ t, step s = .next t ∧ t.pending = [] ∧ t.clk.now = s.clk.now + 1 ∧
      (s.sync.role ≠ 2 → t.clk.alm = if s.clk.pll then s.clk.alm + 1 else s.clk.alm) ∧
      t.up = s.up ∧ t.sems = s.sems ∧ t.mode = s.mode ∧ t.sec = s.sec ∧ t.dbg = s.dbg

/-- Reset (R25, R337, R361, R392, R396, R453, R492, R588 and the reset columns of 20_register_map): the values the spec gives. -/
def Obligations.ResetValues : Prop :=
  State.reset.pending = [] ∧ State.reset.up.ready = .start ∧ State.reset.mode.fixed = false ∧
    State.reset.mode.hostPad = 3000 ∧ (∀ k, (State.reset.sem k).owner = none) ∧
    (∀ p, (State.reset.port p).pollUs = 4 ∧ (State.reset.port p).hangUs = 0 ∧ (State.reset.port p).maxRate = 2 ∧
      (State.reset.port p).linkUp = false) ∧
    (∀ p f r, r < 8 → (State.reset.ring (ringKey p f r)).coalCnt = 1 ∧
      (State.reset.ring (ringKey p f r)).vector.toNat = r ∧ (State.reset.ring (ringKey p f r)).en = false) ∧
    (∀ d p, p < 32 → (State.reset.shell (32 * d + p)).phys = p) ∧
    (∀ st k, k < 64 → physChan (State.reset.stack st) k = k) ∧
    State.reset.pwr.pol = { capW := 1200, inCapW := 1400, rampW := 60, shedUp := 0, tjSoft := 95, coolMax := 40,
                            hintsEn := true } ∧
    State.reset.trace.en = false ∧ State.reset.trace.size = 16 ∧ (∀ c, (State.reset.ctx c).live = false) ∧
    State.reset.tasks = [] ∧ State.reset.mem = []

/-- Every memory is in its canonical form at reset. -/
def Obligations.MemoriesCanonicalAtReset : Prop := Canonical State.reset

/-- Every step keeps every memory of the module and of its hosts in its canonical form: addresses strictly rising, no zero byte
listed (the model's form of a memory). -/
def Obligations.EveryStepKeepsMemoriesCanonical : Prop :=
  ∀ (s t : State), Canonical s → step s = .next t → Canonical t

/-- No step lowers a rollback counter: a counter only ever rises, one that has reached its limit included (R538). -/
def Obligations.EveryStepKeepsRollbackCounters : Prop :=
  ∀ (s t : State), step s = .next t → RollbackKept s t
end

