-- ==== Sys2Proof/Laws/Acts.lean ====
section
/-! SUPPORT. How an action runs, construct by construct, how a native command issues, and what an action keeps whatever its
outcome: the lemmas that spare a proof the unfolding of the monad. -/

namespace Sys2Proof.Machine

variable {α β : Type}

/-! ## The outcome of an action -/

@[simp] theorem Act.go_pure (x : α) (s : State) : Act.go (pure x) s = (.ok x, s) := rfl

@[simp] theorem Act.go_throw (f : Flt) (s : State) : Act.go (α := α) (throw f) s = (.error f, s) := rfl

@[simp] theorem Act.go_get (s : State) : Act.go get s = (.ok s, s) := rfl

@[simp] theorem Act.go_set (s t : State) : Act.go (set t) s = (.ok ⟨⟩, t) := rfl

@[simp] theorem Act.go_modify (f : State → State) (s : State) : Act.go (modify f) s = (.ok ⟨⟩, f s) := rfl

@[simp] theorem Act.go_upd (f : State → State) (s : State) : (upd f).go s = (.ok (), f s) := rfl

theorem Act.go_bind (a : Act α) (f : α → Act β) (s : State) :
    Act.go (a >>= f) s = match a.go s with
      | (.ok x, u) => (f x).go u
      | (.error e, u) => (.error e, u) := by
  show Act.go (ExceptT.bind a f) s = _
  unfold Act.go ExceptT.bind ExceptT.mk
  show (match a s with
    | (r, u) => (ExceptT.bindCont f r) u) = _
  cases a s with
  | mk r u => cases r <;> rfl

@[simp] theorem Act.go_map (f : α → β) (a : Act α) (s : State) :
    Act.go (f <$> a) s = match a.go s with
      | (.ok x, u) => (.ok (f x), u)
      | (.error e, u) => (.error e, u) := by
  rw [map_eq_pure_bind, Act.go_bind]
  rfl

/-- A sequence that answers: its first part answered, and the rest answered from there. -/
theorem Act.go_bind_ok {a : Act α} {f : α → Act β} {s t : State} {y : β} :
    Act.go (a >>= f) s = (.ok y, t) ↔ ∃ x u, a.go s = (.ok x, u) ∧ (f x).go u = (.ok y, t) := by
  rw [Act.go_bind]
  cases a.go s with
  | mk r u =>
    cases r with
    | error e => simp
    | ok x =>
      constructor
      · exact fun h => ⟨x, u, rfl, h⟩
      · rintro ⟨_, _, h, h'⟩
        cases h
        exact h'

/-- A sequence whose first part answers goes on from there. -/
theorem Act.go_bind_of {a : Act α} {f : α → Act β} {s u : State} {x : α} (h : a.go s = (.ok x, u)) :
    Act.go (a >>= f) s = (f x).go u := by
  rw [Act.go_bind, h]

/-- A sequence whose first part fails ends there. -/
theorem Act.go_bind_error {a : Act α} {f : α → Act β} {s u : State} {e : Flt} (h : a.go s = (.error e, u)) :
    Act.go (a >>= f) s = (.error e, u) := by
  rw [Act.go_bind, h]

theorem Act.go_ite {c : Prop} [Decidable c] (a b : Act α) (s : State) :
    Act.go (if c then a else b) s = if c then a.go s else b.go s := by
  split <;> rfl

theorem need_go (c : Bool) (code detail : Nat) (s : State) :
    (need c code detail).go s = (if c then .ok () else .error { code := code, detail := detail }, s) := by
  unfold need
  cases c <;> rfl

theorem liftExcept_go (r : Except Flt α) (s : State) : (liftExcept r).go s = (r, s) := by
  cases r <;> rfl

theorem plain_go (a : Act Unit) (s : State) :
    (plain a).go s = match a.go s with
      | (.ok (), u) => (.ok .done, u)
      | (.error e, u) => (.error e, u) := by
  unfold plain
  rw [Act.go_bind]
  cases a.go s with
  | mk r u => cases r <;> rfl

/-- A list of actions passes when each passes where it stands. -/
theorem Act.go_forM_nil (f : α → Act Unit) (s : State) : Act.go ([].forM f) s = (.ok (), s) := rfl

theorem Act.go_forM_cons (x : α) (l : List α) (f : α → Act Unit) (s : State) :
    Act.go ((x :: l).forM f) s = match (f x).go s with
      | (.ok (), u) => Act.go (l.forM f) u
      | (.error e, u) => (.error e, u) := by
  show Act.go (f x >>= fun _ => l.forM f) s = _
  rw [Act.go_bind]
  cases (f x).go s with
  | mk r u => cases r <;> rfl

/-! ## Checks -/

/-- A check that passes at a state passes for every element of a list. -/
theorem forM_passes {l : List α} {f : α → Act Unit} {s : State} (h : ∀ x ∈ l, (f x).go s = (.ok (), s)) :
    Act.go (l.forM f) s = (.ok (), s) := by
  induction l with
  | nil => rfl
  | cons x l ih =>
    rw [Act.go_forM_cons, h x (List.mem_cons_self ..)]
    exact ih fun y hy => h y (List.mem_cons_of_mem _ hy)

/-- The check of the reserved fields passes exactly where no reserved field is set (R290). -/
theorem reservedHead_passes {enc : Enc} {w : Cmd} {s : State} :
    Safety.Passes (reservedHead enc w) s ↔ cmdBad enc w = none := by
  unfold Safety.Passes Safety.Answers reservedHead
  cases cmdBad enc w <;> simp

/-! ## A native command -/

/-- The task for which a Shell's Stroke core runs is running, and a command behind another one is not held back (R313). -/
theorem restsAfter_running {s u : State} {L tid : Nat} {t : Task} (h : runningTask s L = some (tid, t)) :
    restsAfter L t u = u := by
  unfold runningTask taskOn at h
  unfold restsAfter
  have : t.st = .running := by
    cases hh : (s.shell L).holder with
    | none => simp [hh] at h
    | some k =>
      cases hk : tfind s.tasks k with
      | none => simp [hh, hk] at h
      | some y =>
        simp only [hh, hk] at h
        split at h
        · rename_i hc
          cases h
          simp only [Bool.and_eq_true, decide_eq_true_eq] at hc
          exact hc.1.1.1.1.1.1
        · cases h
  rw [this]
  rfl

/-- A command that issues leaves the Stroke core as its run settles it (R294). -/
theorem issue_of_issues {n : Native} {w : Cmd} {s : State} {L tid : Nat} {t : Task} (h : Safety.Issues s L tid t) :
    issue L n w s =
      settleIssue L tid t n.enc.op (s.shell L).stroke.idx w s ((n.run (s.shell L).stroke.loops tid t w).go s) := by
  obtain ⟨h1, h2, h3, ⟨r, hr, ho⟩, -, -⟩ := h
  have hc : commandAt L t.ctx (s.shell L).stroke.idx s = (some r, s) := by
    unfold commandAt
    rw [hr]
  have hn : (nativeOf (Fin.ofNat 64 L) r).isNone = false := by
    cases hx : nativeOf (Fin.ofNat 64 L) r with
    | none => rw [hx] at ho; cases ho
    | some _ => rfl
  unfold issue issuing
  simp only [h1, h2, Nat.lt_irrefl, if_false, Nat.not_le.mpr h3, hc]
  unfold issueHeld
  exact if_neg (by rw [hn]; decide)

/-- The run of a command whose effective fields are e is its body on them (R290, R300). -/
theorem run_of_effective {n : Native} {w e : Cmd} {s : State} {L tid : Nat} {t : Task}
    (h : Safety.Effective n s L tid t w e) :
    (n.run (s.shell L).stroke.loops tid t w).go s = (n.body tid t e).go s := by
  obtain ⟨h1, h2, h3⟩ := h
  unfold Native.run
  rw [Act.go_bind_of (Act.go_get s), h1, if_neg (by decide)]
  rw [Act.go_bind_of h2, h3]
  rfl

/-- A command of which the count is zero is a no-op (R306). -/
theorem run_of_zero {n : Native} {ls : List Loop} {tid : Nat} {t : Task} {w : Cmd} {s : State} (h : n.zero = true) :
    (n.run ls tid t w).go s = (.ok .done, s) := by
  unfold Native.run
  rw [Act.go_bind_of (Act.go_get s), h]
  rfl

/-- A command whose body ends with `done` completes (R294). -/
theorem issue_done {n : Native} {w e : Cmd} {s u : State} {L tid : Nat} {t : Task} (hi : Safety.Issues s L tid t)
    (he : Safety.Effective n s L tid t w e) (hb : (n.body tid t e).go s = (.ok .done, u)) :
    issue L n w s = Safety.after s L t n.enc.op w u := by
  rw [issue_of_issues hi, run_of_effective he, hb]
  exact restsAfter_running hi.1

/-- A command whose body fails aborts its task (R390). -/
theorem issue_fault {n : Native} {w e : Cmd} {s u : State} {L tid : Nat} {t : Task} {f : Flt} (hi : Safety.Issues s L tid t)
    (he : Safety.Effective n s L tid t w e) (hb : (n.body tid t e).go s = (.error f, u)) (hf : f.code ≠ heldCode) :
    issue L n w s = abortLaid tid f L (s.shell L).stroke.idx u := by
  rw [issue_of_issues hi, run_of_effective he, hb]
  show (if f.code = heldCode then s else _) = _
  rw [if_neg hf]

/-- A command that waits is issued and goes no further (R131, R167). -/
theorem issue_wait {n : Native} {w e : Cmd} {s u : State} {L tid : Nat} {t : Task} (hi : Safety.Issues s L tid t)
    (he : Safety.Effective n s L tid t w e) (hb : (n.body tid t e).go s = (.ok .wait, u)) :
    issue L n w s = issued L t n.enc.op (s.shell L).stroke.idx w u := by
  rw [issue_of_issues hi, run_of_effective he, hb]
  rfl

/-- A command completes with the effect of its action. -/
theorem does_of {i : Instr} {n : Native} {w e : Cmd} {s u : State} {L tid : Nat} {t : Task} {P : State → Prop} {a : Act Unit}
    (hx : exec i s = .next (issue L n w s)) (hn : n.body tid t e = plain a) (hi : Safety.Issues s L tid t)
    (he : Safety.Effective n s L tid t w e) (ha : a.go s = (.ok (), u)) (hP : P u) : Safety.Does i n s L t w P := by
  refine ⟨_, hx, u, issue_done hi he ?_, hP⟩
  rw [hn, plain_go, ha]

/-! ## What an action keeps -/

/-- Whatever the action's outcome, the property survives it. -/
def Act.Keeps (P : State → Prop) (a : Act α) : Prop := ∀ s, P s → P (a.go s).2

variable {P : State → Prop}

theorem Act.keeps_pure (x : α) : Act.Keeps P (pure x : Act α) := fun _ h => h

theorem Act.keeps_throw (f : Flt) : Act.Keeps P (throw f : Act α) := fun _ h => h

theorem Act.keeps_get : Act.Keeps P (get : Act State) := fun _ h => h

theorem Act.keeps_upd {f : State → State} (h : ∀ s, P s → P (f s)) : Act.Keeps P (upd f) := h

theorem Act.keeps_need (c : Bool) (code detail : Nat) : Act.Keeps P (need c code detail) := by
  intro s h
  rw [need_go]
  exact h

theorem Act.keeps_bind {a : Act α} {f : α → Act β} (ha : Act.Keeps P a) (hf : ∀ x, Act.Keeps P (f x)) :
    Act.Keeps P (a >>= f) := by
  intro s h
  have h1 := ha s h
  rw [Act.go_bind]
  cases hr : a.go s with
  | mk r u =>
    rw [hr] at h1
    cases r with
    | error e => exact h1
    | ok x => exact hf x u h1

/-- After `get` the rest may lean on the state it has read. -/
theorem Act.keeps_get_bind {f : State → Act β} (hf : ∀ s, P s → P ((f s).go s).2) : Act.Keeps P (get >>= f) := by
  intro s h
  rw [Act.go_bind_of (Act.go_get s)]
  exact hf s h

theorem Act.keeps_ite {c : Prop} [Decidable c] {a b : Act α} (ha : Act.Keeps P a) (hb : Act.Keeps P b) :
    Act.Keeps P (if c then a else b) := by
  split
  · exact ha
  · exact hb

theorem Act.keeps_forM {l : List α} {f : α → Act Unit} (h : ∀ x ∈ l, Act.Keeps P (f x)) : Act.Keeps P (l.forM f) := by
  induction l with
  | nil => exact Act.keeps_pure ()
  | cons x l ih =>
    show Act.Keeps P (f x >>= fun _ => l.forM f)
    exact Act.keeps_bind (h x (List.mem_cons_self ..)) fun _ => ih fun y hy => h y (List.mem_cons_of_mem _ hy)

theorem Act.keeps_mapM {l : List α} {f : α → Act β} (h : ∀ x ∈ l, Act.Keeps P (f x)) : Act.Keeps P (l.mapM f) := by
  induction l with
  | nil => exact Act.keeps_pure []
  | cons x l ih =>
    rw [List.mapM_cons]
    exact Act.keeps_bind (h x (List.mem_cons_self ..)) fun _ =>
      Act.keeps_bind (ih fun y hy => h y (List.mem_cons_of_mem _ hy)) fun _ => Act.keeps_pure _

end Sys2Proof.Machine
end

