-- ==== Sys2Proof/Laws/Tables.lean ====
section
/-! SUPPORT. What the operations over tables and memories do: a read after a write, what a write leaves, and the canonical
form of a memory, which every memory operation keeps. -/

namespace Sys2Proof.Machine

variable {α : Type}

/-! ## Tables -/

theorem tfind_append (a b : Tab α) (k : Nat) : tfind (a ++ b) k = (tfind a k).or (tfind b k) := by
  induction a with
  | nil => simp [tfind]
  | cons e r ih =>
    obtain ⟨i, v⟩ := e
    by_cases h : i = k <;> simp [tfind, h, ih]

theorem tfind_filter_keep (t : Tab α) (p : Nat → Bool) (k : Nat) (h : p k = true) :
    tfind (t.filter fun e => p e.1) k = tfind t k := by
  induction t with
  | nil => rfl
  | cons e r ih =>
    obtain ⟨i, v⟩ := e
    by_cases hi : i = k
    · subst hi; simp [List.filter, tfind, h]
    · by_cases hp : p i = true <;> simp [List.filter, tfind, hp, hi, ih]

theorem tfind_filter_drop (t : Tab α) (p : Nat → Bool) (k : Nat) (h : p k = false) :
    tfind (t.filter fun e => p e.1) k = none := by
  induction t with
  | nil => rfl
  | cons e r ih =>
    obtain ⟨i, v⟩ := e
    by_cases hi : i = k
    · subst hi; simp [List.filter, h, ih]
    · by_cases hp : p i = true <;> simp [List.filter, tfind, hp, hi, ih]

/-- A unit that was set reads back. -/
@[simp] theorem tfind_tset_same (t : Tab α) (k : Nat) (v : α) : tfind (tset t k v) k = some v := by
  have h := tfind_filter_drop t (fun i => decide (i < k)) k (by simp)
  simp only [tset, tfind_append, h, Option.none_or]
  simp [tfind]

/-- Setting a unit leaves every other unit. -/
theorem tfind_tset_ne (t : Tab α) {j k : Nat} (v : α) (h : j ≠ k) : tfind (tset t k v) j = tfind t j := by
  rcases Nat.lt_or_gt_of_ne h with hlt | hgt
  · have h1 := tfind_filter_keep t (fun i => decide (i < k)) j (by simpa using hlt)
    have h2 := tfind_filter_drop t (fun i => decide (k < i)) j (by simp; omega)
    have hk : ¬ k = j := fun e => h e.symm
    simp only [tset, tfind_append, h1]
    simp only [tfind, hk, if_false, h2, Option.or_none]
  · have h1 := tfind_filter_drop t (fun i => decide (i < k)) j (by simp; omega)
    have h2 := tfind_filter_keep t (fun i => decide (k < i)) j (by simpa using hgt)
    have hk : ¬ k = j := fun e => h e.symm
    simp only [tset, tfind_append, h1, Option.none_or]
    simp only [tfind, hk, if_false, h2]

@[simp] theorem tget_tset_same (d : α) (t : Tab α) (k : Nat) (v : α) : tget d (tset t k v) k = v := by simp [tget]

theorem tget_tset_ne (d : α) (t : Tab α) {j k : Nat} (v : α) (h : j ≠ k) : tget d (tset t k v) j = tget d t j := by
  simp [tget, tfind_tset_ne t v h]

/-- A unit read after a unit was set. -/
theorem tget_tset (d : α) (t : Tab α) (j k : Nat) (v : α) :
    tget d (tset t k v) j = if j = k then v else tget d t j := by
  by_cases h : j = k
  · subst h; simp
  · simp [h, tget_tset_ne d t v h]

theorem tfind_tset (t : Tab α) (j k : Nat) (v : α) :
    tfind (tset t k v) j = if j = k then some v else tfind t j := by
  by_cases h : j = k
  · subst h; simp
  · simp [h, tfind_tset_ne t v h]

theorem tfind_tmap (f : Nat → α → α) (t : Tab α) (k : Nat) : tfind (tmap f t) k = (tfind t k).map (f k) := by
  induction t with
  | nil => rfl
  | cons e r ih =>
    obtain ⟨i, v⟩ := e
    by_cases h : i = k
    · subst h; simp [tmap, tfind]
    · simpa [tmap, tfind, h] using ih

@[simp] theorem tfind_tdel_same (t : Tab α) (k : Nat) : tfind (tdel t k) k = none :=
  tfind_filter_drop t (fun i => decide (i ≠ k)) k (by simp)

theorem tfind_tdel_ne (t : Tab α) {j k : Nat} (h : j ≠ k) : tfind (tdel t k) j = tfind t j :=
  tfind_filter_keep t (fun i => decide (i ≠ k)) j (by simpa using h)

@[simp] theorem tfind_nil (k : Nat) : tfind ([] : Tab α) k = none := rfl

@[simp] theorem tget_nil (d : α) (k : Nat) : tget d ([] : Tab α) k = d := rfl

/-! ## Memories -/

theorem tfind_mcells_out (a : Nat) (bs : List Byte) (x : Nat) (h : x < a ∨ a + bs.length ≤ x) :
    tfind (mcells a bs) x = none := by
  induction bs generalizing a with
  | nil => rfl
  | cons b bs ih =>
    have h' : x < a + 1 ∨ a + 1 + bs.length ≤ x := by simp only [List.length_cons] at h; omega
    have hne : ¬ a = x := by simp only [List.length_cons] at h; omega
    rw [mcells]
    split
    · exact ih (a + 1) h'
    · rw [tfind, if_neg hne]; exact ih (a + 1) h'

theorem tfind_mcells_in (a : Nat) (bs : List Byte) (x : Nat) (h1 : a ≤ x) :
    (tfind (mcells a bs) x).getD 0 = bs.getD (x - a) 0 := by
  induction bs generalizing a with
  | nil => simp [mcells]
  | cons b bs ih =>
    by_cases hx : a = x
    · subst hx
      have := tfind_mcells_out (a + 1) bs a (by omega)
      rw [mcells]
      split
      · rename_i hb; simp [this, hb]
      · simp [tfind]
    · obtain ⟨n, hn⟩ : ∃ n, x - a = n + 1 := ⟨x - a - 1, by omega⟩
      have hn' : x - (a + 1) = n := by omega
      have := ih (a + 1) (by omega)
      rw [hn'] at this
      rw [mcells, hn, List.getD_cons_succ, ← this]
      split
      · rfl
      · rw [tfind, if_neg hx]

/-- A byte that was stored reads back. -/
theorem mget_mput_in (m : Mem) (a : Nat) (bs : List Byte) (x : Nat) (h1 : a ≤ x) (h2 : x < a + bs.length) :
    mget (mput m a bs) x = bs.getD (x - a) 0 := by
  have e1 := tfind_filter_drop m (fun i => decide (i < a)) x (by simp; omega)
  have e2 := tfind_filter_drop m (fun i => decide (a + bs.length ≤ i)) x (by simp; omega)
  rw [← tfind_mcells_in a bs x h1]
  simp only [mget, mput, tfind_append, e1, e2, Option.none_or, Option.or_none]

/-- A store leaves every byte outside it. -/
theorem mget_mput_out (m : Mem) (a : Nat) (bs : List Byte) (x : Nat) (h : x < a ∨ a + bs.length ≤ x) :
    mget (mput m a bs) x = mget m x := by
  have e0 := tfind_mcells_out a bs x h
  rcases h with h | h
  · have e1 := tfind_filter_keep m (fun i => decide (i < a)) x (by simpa using h)
    have e2 := tfind_filter_drop m (fun i => decide (a + bs.length ≤ i)) x (by simp; omega)
    simp only [mget, mput, tfind_append, e0, e1, e2, Option.or_none]
  · have e1 := tfind_filter_drop m (fun i => decide (i < a)) x (by simp; omega)
    have e2 := tfind_filter_keep m (fun i => decide (a + bs.length ≤ i)) x (by simpa using h)
    simp only [mget, mput, tfind_append, e0, e1, e2, Option.none_or]

/-- Zeroed bytes read zero, and the others are left. -/
theorem mget_mzero (m : Mem) (a n x : Nat) : mget (mzero m a n) x = if a ≤ x ∧ x < a + n then 0 else mget m x := by
  by_cases h : a ≤ x ∧ x < a + n
  · have := tfind_filter_drop m (fun i => decide (i < a) || decide (a + n ≤ i)) x (by simp; omega)
    simp [mget, mzero, this, h]
  · have := tfind_filter_keep m (fun i => decide (i < a) || decide (a + n ≤ i)) x (by simp; omega)
    simp [mget, mzero, this, h]

/-! ## The canonical form -/

theorem rising_cons {a : Nat} {l : List Nat} (h : rising (a :: l) = true) : ∀ b ∈ l, a < b := by
  induction l generalizing a with
  | nil => simp
  | cons c r ih =>
    simp only [rising, Bool.and_eq_true, decide_eq_true_eq] at h
    intro b hb
    rcases List.mem_cons.mp hb with rfl | hb
    · exact h.1
    · exact Nat.lt_trans h.1 (ih h.2 b hb)

theorem rising_tail {a : Nat} {l : List Nat} (h : rising (a :: l) = true) : rising l = true := by
  cases l with
  | nil => rfl
  | cons c r => simp only [rising, Bool.and_eq_true] at h; exact h.2

theorem rising_iff {a : Nat} {l : List Nat} : rising (a :: l) = true ↔ (∀ b ∈ l, a < b) ∧ rising l = true := by
  constructor
  · exact fun h => ⟨rising_cons h, rising_tail h⟩
  · rintro ⟨h1, h2⟩
    cases l with
    | nil => rfl
    | cons c r => simp only [rising, Bool.and_eq_true, decide_eq_true_eq]; exact ⟨h1 c (by simp), h2⟩

theorem rising_append {l r : List Nat} :
    rising (l ++ r) = true ↔ rising l = true ∧ rising r = true ∧ ∀ a ∈ l, ∀ b ∈ r, a < b := by
  induction l with
  | nil => simp [rising]
  | cons a l ih =>
    simp only [List.cons_append, rising_iff, ih, List.mem_append, List.mem_cons, forall_eq_or_imp]
    constructor
    · rintro ⟨h1, h2, h3, h4⟩
      exact ⟨⟨fun b hb => h1 b (.inl hb), h2⟩, h3, fun b hb => h1 b (.inr hb), h4⟩
    · rintro ⟨⟨h1, h2⟩, h3, h4, h5⟩
      exact ⟨fun b hb => hb.elim (h1 b) (h4 b), h2, h3, h5⟩

theorem rising_filter (m : Mem) (p : Host.Cell → Bool) (h : rising (m.map (·.1)) = true) :
    rising ((m.filter p).map (·.1)) = true := by
  induction m with
  | nil => rfl
  | cons c r ih =>
    simp only [List.map_cons, rising_iff, List.mem_map, forall_exists_index, and_imp] at h
    by_cases hp : p c = true
    · simp only [List.filter_cons, hp, if_true, List.map_cons, rising_iff, List.mem_map, List.mem_filter]
      exact ⟨fun b ⟨x, ⟨hx, _⟩, e⟩ => h.1 b x hx e, ih h.2⟩
    · simpa [List.filter_cons, hp] using ih h.2

/-- Taking cells out keeps the canonical form. -/
theorem memWf_filter (m : Mem) (p : Host.Cell → Bool) (h : memWf m = true) : memWf (m.filter p) = true := by
  simp only [memWf, Bool.and_eq_true, List.all_eq_true] at h ⊢
  exact ⟨rising_filter m p h.1, fun c hc => h.2 c (List.mem_filter.mp hc).1⟩

theorem mcells_mem {a : Nat} {bs : List Byte} {c : Host.Cell} (h : c ∈ mcells a bs) :
    a ≤ c.1 ∧ c.1 < a + bs.length ∧ c.2 ≠ 0 := by
  induction bs generalizing a with
  | nil => simp [mcells] at h
  | cons b bs ih =>
    simp only [List.length_cons]
    rw [mcells] at h
    split at h
    · have := ih h
      exact ⟨by omega, by omega, this.2.2⟩
    · rename_i hb
      rcases List.mem_cons.mp h with rfl | h
      · exact ⟨Nat.le_refl _, by show a < _; omega, hb⟩
      · have := ih h
        exact ⟨by omega, by omega, this.2.2⟩

theorem mcells_rising (a : Nat) (bs : List Byte) : rising ((mcells a bs).map (·.1)) = true := by
  induction bs generalizing a with
  | nil => rfl
  | cons b bs ih =>
    rw [mcells]
    split
    · exact ih (a + 1)
    · simp only [List.map_cons, rising_iff, List.mem_map]
      refine ⟨?_, ih (a + 1)⟩
      rintro x ⟨c, hc, rfl⟩
      have := mcells_mem hc
      omega

/-- A store keeps the canonical form. -/
theorem memWf_mput (m : Mem) (a : Nat) (bs : List Byte) (h : memWf m = true) : memWf (mput m a bs) = true := by
  have h1 := memWf_filter m (fun c => decide (c.1 < a)) h
  have h2 := memWf_filter m (fun c => decide (a + bs.length ≤ c.1)) h
  simp only [memWf, Bool.and_eq_true, List.all_eq_true, mput, List.map_append, List.mem_append] at h1 h2 ⊢
  refine ⟨?_, ?_⟩
  · rw [rising_append, rising_append]
    refine ⟨⟨h1.1, mcells_rising a bs, ?_⟩, h2.1, ?_⟩
    · intro x hx y hy
      obtain ⟨c, hc, rfl⟩ := List.mem_map.mp hx
      obtain ⟨d, hd, rfl⟩ := List.mem_map.mp hy
      have e1 : c.1 < a := by simpa using (List.mem_filter.mp hc).2
      have e2 := (mcells_mem hd).1
      omega
    · intro x hx y hy
      obtain ⟨d, hd, rfl⟩ := List.mem_map.mp hy
      have e2 : a + bs.length ≤ d.1 := by simpa using (List.mem_filter.mp hd).2
      rcases List.mem_append.mp hx with hx | hx
      · obtain ⟨c, hc, rfl⟩ := List.mem_map.mp hx
        have e1 : c.1 < a := by simpa using (List.mem_filter.mp hc).2
        omega
      · obtain ⟨c, hc, rfl⟩ := List.mem_map.mp hx
        have e1 := (mcells_mem hc).2.1
        omega
  · rintro c ((hc | hc) | hc)
    · exact h1.2 c hc
    · simpa using (mcells_mem hc).2.2
    · exact h2.2 c hc

/-- Zeroing keeps the canonical form. -/
theorem memWf_mzero (m : Mem) (a n : Nat) (h : memWf m = true) : memWf (mzero m a n) = true := memWf_filter m _ h

theorem memWf_mputNum (m : Mem) (a n v : Nat) (h : memWf m = true) : memWf (mputNum m a n v) = true :=
  memWf_mput m a _ h

/-- A masked store keeps the canonical form. -/
theorem memWf_mputMasked (m : Mem) (a mask : Nat) (bs : List Byte) (h : memWf m = true) :
    memWf (mputMasked m a mask bs) = true := by
  unfold mputMasked
  generalize (List.range bs.length).filter (fun i => mask.testBit i) = l
  induction l generalizing m with
  | nil => exact h
  | cons i l ih => exact ih _ (memWf_mput m _ _ h)

theorem memWf_nil : memWf [] = true := rfl

/-! ## Runs of bytes -/

theorem mexpand_length (n a : Nat) (m : Mem) : (mexpand n a m).length = n := by
  induction n generalizing a m with
  | zero => simp [mexpand]
  | succ n ih =>
    cases m with
    | nil => simp [mexpand, ih]
    | cons c r =>
      obtain ⟨k, b⟩ := c
      by_cases h : k = a <;> simp [mexpand, h, ih]

@[simp] theorem mslice_length (m : Mem) (a n : Nat) : (mslice m a n).length = n := mexpand_length n a _

@[simp] theorem leBytes_length (n v : Nat) : (leBytes n v).length = n := by
  induction n generalizing v with
  | zero => rfl
  | succ n ih => simp [leBytes, ih]

/-- The number that a number's bytes spell (R9). -/
theorem leNat_leBytes (n v : Nat) : leNat (leBytes n v) = v % 2 ^ (8 * n) := by
  induction n generalizing v with
  | zero => simp [leBytes, leNat, Nat.mod_one]
  | succ n ih =>
    have e : (2 : Nat) ^ (8 * (n + 1)) = 256 * 2 ^ (8 * n) := by
      rw [Nat.mul_add, Nat.pow_add]; simp [Nat.mul_comm]
    simp only [leBytes, leNat, ih, BitVec.toNat_ofNat, e, Nat.mod_mul]

end Sys2Proof.Machine
end

