-- ==== Sys2Proof/Laws/State.lean ====
section
/-! SUPPORT. One lemma per field of the state per update of it, and the reads of a unit after a unit was changed: later proofs
cite these and unfold no record update. -/

namespace Sys2Proof.Machine

variable (s : State)

/-! ## `setShell` -/

@[simp] theorem State.setShell_pending (L : Nat) (x : Shell) : (s.setShell L x).pending = s.pending := rfl
@[simp] theorem State.setShell_clk (L : Nat) (x : Shell) : (s.setShell L x).clk = s.clk := rfl
@[simp] theorem State.setShell_free (L : Nat) (x : Shell) : (s.setShell L x).free = s.free := rfl
@[simp] theorem State.setShell_nextId (L : Nat) (x : Shell) : (s.setShell L x).nextId = s.nextId := rfl
@[simp] theorem State.setShell_up (L : Nat) (x : Shell) : (s.setShell L x).up = s.up := rfl
@[simp] theorem State.setShell_pwr (L : Nat) (x : Shell) : (s.setShell L x).pwr = s.pwr := rfl
@[simp] theorem State.setShell_portA (L : Nat) (x : Shell) : (s.setShell L x).portA = s.portA := rfl
@[simp] theorem State.setShell_portB (L : Nat) (x : Shell) : (s.setShell L x).portB = s.portB := rfl
@[simp] theorem State.setShell_fns (L : Nat) (x : Shell) : (s.setShell L x).fns = s.fns := rfl
@[simp] theorem State.setShell_rings (L : Nat) (x : Shell) : (s.setShell L x).rings = s.rings := rfl
@[simp] theorem State.setShell_ctxs (L : Nat) (x : Shell) : (s.setShell L x).ctxs = s.ctxs := rfl
@[simp] theorem State.setShell_tasks (L : Nat) (x : Shell) : (s.setShell L x).tasks = s.tasks := rfl
@[simp] theorem State.setShell_lastPort (L : Nat) (x : Shell) : (s.setShell L x).lastPort = s.lastPort := rfl
@[simp] theorem State.setShell_phys (L : Nat) (x : Shell) : (s.setShell L x).phys = s.phys := rfl
@[simp] theorem State.setShell_vigils (L : Nat) (x : Shell) : (s.setShell L x).vigils = s.vigils := rfl
@[simp] theorem State.setShell_inbox (L : Nat) (x : Shell) : (s.setShell L x).inbox = s.inbox := rfl
@[simp] theorem State.setShell_streams (L : Nat) (x : Shell) : (s.setShell L x).streams = s.streams := rfl
@[simp] theorem State.setShell_mem (L : Nat) (x : Shell) : (s.setShell L x).mem = s.mem := rfl
@[simp] theorem State.setShell_stackTab (L : Nat) (x : Shell) : (s.setShell L x).stackTab = s.stackTab := rfl
@[simp] theorem State.setShell_mode (L : Nat) (x : Shell) : (s.setShell L x).mode = s.mode := rfl
@[simp] theorem State.setShell_sems (L : Nat) (x : Shell) : (s.setShell L x).sems = s.sems := rfl
@[simp] theorem State.setShell_ctr (L : Nat) (x : Shell) : (s.setShell L x).ctr = s.ctr := rfl
@[simp] theorem State.setShell_ctrSince (L : Nat) (x : Shell) : (s.setShell L x).ctrSince = s.ctrSince := rfl
@[simp] theorem State.setShell_dumpLast (L : Nat) (x : Shell) : (s.setShell L x).dumpLast = s.dumpLast := rfl
@[simp] theorem State.setShell_trace (L : Nat) (x : Shell) : (s.setShell L x).trace = s.trace := rfl
@[simp] theorem State.setShell_dbg (L : Nat) (x : Shell) : (s.setShell L x).dbg = s.dbg := rfl
@[simp] theorem State.setShell_sync (L : Nat) (x : Shell) : (s.setShell L x).sync = s.sync := rfl
@[simp] theorem State.setShell_cox (L : Nat) (x : Shell) : (s.setShell L x).cox = s.cox := rfl
@[simp] theorem State.setShell_chans (L : Nat) (x : Shell) : (s.setShell L x).chans = s.chans := rfl
@[simp] theorem State.setShell_sec (L : Nat) (x : Shell) : (s.setShell L x).sec = s.sec := rfl
@[simp] theorem State.setShell_svc (L : Nat) (x : Shell) : (s.setShell L x).svc = s.svc := rfl

/-! ## `modShell` -/

@[simp] theorem State.modShell_pending (L : Nat) (f : Shell → Shell) : (s.modShell L f).pending = s.pending := rfl
@[simp] theorem State.modShell_clk (L : Nat) (f : Shell → Shell) : (s.modShell L f).clk = s.clk := rfl
@[simp] theorem State.modShell_free (L : Nat) (f : Shell → Shell) : (s.modShell L f).free = s.free := rfl
@[simp] theorem State.modShell_nextId (L : Nat) (f : Shell → Shell) : (s.modShell L f).nextId = s.nextId := rfl
@[simp] theorem State.modShell_up (L : Nat) (f : Shell → Shell) : (s.modShell L f).up = s.up := rfl
@[simp] theorem State.modShell_pwr (L : Nat) (f : Shell → Shell) : (s.modShell L f).pwr = s.pwr := rfl
@[simp] theorem State.modShell_portA (L : Nat) (f : Shell → Shell) : (s.modShell L f).portA = s.portA := rfl
@[simp] theorem State.modShell_portB (L : Nat) (f : Shell → Shell) : (s.modShell L f).portB = s.portB := rfl
@[simp] theorem State.modShell_fns (L : Nat) (f : Shell → Shell) : (s.modShell L f).fns = s.fns := rfl
@[simp] theorem State.modShell_rings (L : Nat) (f : Shell → Shell) : (s.modShell L f).rings = s.rings := rfl
@[simp] theorem State.modShell_ctxs (L : Nat) (f : Shell → Shell) : (s.modShell L f).ctxs = s.ctxs := rfl
@[simp] theorem State.modShell_tasks (L : Nat) (f : Shell → Shell) : (s.modShell L f).tasks = s.tasks := rfl
@[simp] theorem State.modShell_lastPort (L : Nat) (f : Shell → Shell) : (s.modShell L f).lastPort = s.lastPort := rfl
@[simp] theorem State.modShell_phys (L : Nat) (f : Shell → Shell) : (s.modShell L f).phys = s.phys := rfl
@[simp] theorem State.modShell_vigils (L : Nat) (f : Shell → Shell) : (s.modShell L f).vigils = s.vigils := rfl
@[simp] theorem State.modShell_inbox (L : Nat) (f : Shell → Shell) : (s.modShell L f).inbox = s.inbox := rfl
@[simp] theorem State.modShell_streams (L : Nat) (f : Shell → Shell) : (s.modShell L f).streams = s.streams := rfl
@[simp] theorem State.modShell_mem (L : Nat) (f : Shell → Shell) : (s.modShell L f).mem = s.mem := rfl
@[simp] theorem State.modShell_stackTab (L : Nat) (f : Shell → Shell) : (s.modShell L f).stackTab = s.stackTab := rfl
@[simp] theorem State.modShell_mode (L : Nat) (f : Shell → Shell) : (s.modShell L f).mode = s.mode := rfl
@[simp] theorem State.modShell_sems (L : Nat) (f : Shell → Shell) : (s.modShell L f).sems = s.sems := rfl
@[simp] theorem State.modShell_ctr (L : Nat) (f : Shell → Shell) : (s.modShell L f).ctr = s.ctr := rfl
@[simp] theorem State.modShell_ctrSince (L : Nat) (f : Shell → Shell) : (s.modShell L f).ctrSince = s.ctrSince := rfl
@[simp] theorem State.modShell_dumpLast (L : Nat) (f : Shell → Shell) : (s.modShell L f).dumpLast = s.dumpLast := rfl
@[simp] theorem State.modShell_trace (L : Nat) (f : Shell → Shell) : (s.modShell L f).trace = s.trace := rfl
@[simp] theorem State.modShell_dbg (L : Nat) (f : Shell → Shell) : (s.modShell L f).dbg = s.dbg := rfl
@[simp] theorem State.modShell_sync (L : Nat) (f : Shell → Shell) : (s.modShell L f).sync = s.sync := rfl
@[simp] theorem State.modShell_cox (L : Nat) (f : Shell → Shell) : (s.modShell L f).cox = s.cox := rfl
@[simp] theorem State.modShell_chans (L : Nat) (f : Shell → Shell) : (s.modShell L f).chans = s.chans := rfl
@[simp] theorem State.modShell_sec (L : Nat) (f : Shell → Shell) : (s.modShell L f).sec = s.sec := rfl
@[simp] theorem State.modShell_svc (L : Nat) (f : Shell → Shell) : (s.modShell L f).svc = s.svc := rfl

/-! ## `modFn` -/

@[simp] theorem State.modFn_pending (k : Nat) (f : Fn → Fn) : (s.modFn k f).pending = s.pending := rfl
@[simp] theorem State.modFn_clk (k : Nat) (f : Fn → Fn) : (s.modFn k f).clk = s.clk := rfl
@[simp] theorem State.modFn_free (k : Nat) (f : Fn → Fn) : (s.modFn k f).free = s.free := rfl
@[simp] theorem State.modFn_nextId (k : Nat) (f : Fn → Fn) : (s.modFn k f).nextId = s.nextId := rfl
@[simp] theorem State.modFn_up (k : Nat) (f : Fn → Fn) : (s.modFn k f).up = s.up := rfl
@[simp] theorem State.modFn_pwr (k : Nat) (f : Fn → Fn) : (s.modFn k f).pwr = s.pwr := rfl
@[simp] theorem State.modFn_portA (k : Nat) (f : Fn → Fn) : (s.modFn k f).portA = s.portA := rfl
@[simp] theorem State.modFn_portB (k : Nat) (f : Fn → Fn) : (s.modFn k f).portB = s.portB := rfl
@[simp] theorem State.modFn_rings (k : Nat) (f : Fn → Fn) : (s.modFn k f).rings = s.rings := rfl
@[simp] theorem State.modFn_ctxs (k : Nat) (f : Fn → Fn) : (s.modFn k f).ctxs = s.ctxs := rfl
@[simp] theorem State.modFn_tasks (k : Nat) (f : Fn → Fn) : (s.modFn k f).tasks = s.tasks := rfl
@[simp] theorem State.modFn_lastPort (k : Nat) (f : Fn → Fn) : (s.modFn k f).lastPort = s.lastPort := rfl
@[simp] theorem State.modFn_shells (k : Nat) (f : Fn → Fn) : (s.modFn k f).shells = s.shells := rfl
@[simp] theorem State.modFn_phys (k : Nat) (f : Fn → Fn) : (s.modFn k f).phys = s.phys := rfl
@[simp] theorem State.modFn_vigils (k : Nat) (f : Fn → Fn) : (s.modFn k f).vigils = s.vigils := rfl
@[simp] theorem State.modFn_inbox (k : Nat) (f : Fn → Fn) : (s.modFn k f).inbox = s.inbox := rfl
@[simp] theorem State.modFn_streams (k : Nat) (f : Fn → Fn) : (s.modFn k f).streams = s.streams := rfl
@[simp] theorem State.modFn_mem (k : Nat) (f : Fn → Fn) : (s.modFn k f).mem = s.mem := rfl
@[simp] theorem State.modFn_stackTab (k : Nat) (f : Fn → Fn) : (s.modFn k f).stackTab = s.stackTab := rfl
@[simp] theorem State.modFn_mode (k : Nat) (f : Fn → Fn) : (s.modFn k f).mode = s.mode := rfl
@[simp] theorem State.modFn_sems (k : Nat) (f : Fn → Fn) : (s.modFn k f).sems = s.sems := rfl
@[simp] theorem State.modFn_ctr (k : Nat) (f : Fn → Fn) : (s.modFn k f).ctr = s.ctr := rfl
@[simp] theorem State.modFn_ctrSince (k : Nat) (f : Fn → Fn) : (s.modFn k f).ctrSince = s.ctrSince := rfl
@[simp] theorem State.modFn_dumpLast (k : Nat) (f : Fn → Fn) : (s.modFn k f).dumpLast = s.dumpLast := rfl
@[simp] theorem State.modFn_trace (k : Nat) (f : Fn → Fn) : (s.modFn k f).trace = s.trace := rfl
@[simp] theorem State.modFn_dbg (k : Nat) (f : Fn → Fn) : (s.modFn k f).dbg = s.dbg := rfl
@[simp] theorem State.modFn_sync (k : Nat) (f : Fn → Fn) : (s.modFn k f).sync = s.sync := rfl
@[simp] theorem State.modFn_cox (k : Nat) (f : Fn → Fn) : (s.modFn k f).cox = s.cox := rfl
@[simp] theorem State.modFn_chans (k : Nat) (f : Fn → Fn) : (s.modFn k f).chans = s.chans := rfl
@[simp] theorem State.modFn_sec (k : Nat) (f : Fn → Fn) : (s.modFn k f).sec = s.sec := rfl
@[simp] theorem State.modFn_svc (k : Nat) (f : Fn → Fn) : (s.modFn k f).svc = s.svc := rfl

/-! ## `setRing` -/

@[simp] theorem State.setRing_pending (k : Nat) (x : Ring) : (s.setRing k x).pending = s.pending := rfl
@[simp] theorem State.setRing_clk (k : Nat) (x : Ring) : (s.setRing k x).clk = s.clk := rfl
@[simp] theorem State.setRing_free (k : Nat) (x : Ring) : (s.setRing k x).free = s.free := rfl
@[simp] theorem State.setRing_nextId (k : Nat) (x : Ring) : (s.setRing k x).nextId = s.nextId := rfl
@[simp] theorem State.setRing_up (k : Nat) (x : Ring) : (s.setRing k x).up = s.up := rfl
@[simp] theorem State.setRing_pwr (k : Nat) (x : Ring) : (s.setRing k x).pwr = s.pwr := rfl
@[simp] theorem State.setRing_portA (k : Nat) (x : Ring) : (s.setRing k x).portA = s.portA := rfl
@[simp] theorem State.setRing_portB (k : Nat) (x : Ring) : (s.setRing k x).portB = s.portB := rfl
@[simp] theorem State.setRing_fns (k : Nat) (x : Ring) : (s.setRing k x).fns = s.fns := rfl
@[simp] theorem State.setRing_ctxs (k : Nat) (x : Ring) : (s.setRing k x).ctxs = s.ctxs := rfl
@[simp] theorem State.setRing_tasks (k : Nat) (x : Ring) : (s.setRing k x).tasks = s.tasks := rfl
@[simp] theorem State.setRing_lastPort (k : Nat) (x : Ring) : (s.setRing k x).lastPort = s.lastPort := rfl
@[simp] theorem State.setRing_shells (k : Nat) (x : Ring) : (s.setRing k x).shells = s.shells := rfl
@[simp] theorem State.setRing_phys (k : Nat) (x : Ring) : (s.setRing k x).phys = s.phys := rfl
@[simp] theorem State.setRing_vigils (k : Nat) (x : Ring) : (s.setRing k x).vigils = s.vigils := rfl
@[simp] theorem State.setRing_inbox (k : Nat) (x : Ring) : (s.setRing k x).inbox = s.inbox := rfl
@[simp] theorem State.setRing_streams (k : Nat) (x : Ring) : (s.setRing k x).streams = s.streams := rfl
@[simp] theorem State.setRing_mem (k : Nat) (x : Ring) : (s.setRing k x).mem = s.mem := rfl
@[simp] theorem State.setRing_stackTab (k : Nat) (x : Ring) : (s.setRing k x).stackTab = s.stackTab := rfl
@[simp] theorem State.setRing_mode (k : Nat) (x : Ring) : (s.setRing k x).mode = s.mode := rfl
@[simp] theorem State.setRing_sems (k : Nat) (x : Ring) : (s.setRing k x).sems = s.sems := rfl
@[simp] theorem State.setRing_ctr (k : Nat) (x : Ring) : (s.setRing k x).ctr = s.ctr := rfl
@[simp] theorem State.setRing_ctrSince (k : Nat) (x : Ring) : (s.setRing k x).ctrSince = s.ctrSince := rfl
@[simp] theorem State.setRing_dumpLast (k : Nat) (x : Ring) : (s.setRing k x).dumpLast = s.dumpLast := rfl
@[simp] theorem State.setRing_trace (k : Nat) (x : Ring) : (s.setRing k x).trace = s.trace := rfl
@[simp] theorem State.setRing_dbg (k : Nat) (x : Ring) : (s.setRing k x).dbg = s.dbg := rfl
@[simp] theorem State.setRing_sync (k : Nat) (x : Ring) : (s.setRing k x).sync = s.sync := rfl
@[simp] theorem State.setRing_cox (k : Nat) (x : Ring) : (s.setRing k x).cox = s.cox := rfl
@[simp] theorem State.setRing_chans (k : Nat) (x : Ring) : (s.setRing k x).chans = s.chans := rfl
@[simp] theorem State.setRing_sec (k : Nat) (x : Ring) : (s.setRing k x).sec = s.sec := rfl
@[simp] theorem State.setRing_svc (k : Nat) (x : Ring) : (s.setRing k x).svc = s.svc := rfl

/-! ## `modRing` -/

@[simp] theorem State.modRing_pending (k : Nat) (f : Ring → Ring) : (s.modRing k f).pending = s.pending := rfl
@[simp] theorem State.modRing_clk (k : Nat) (f : Ring → Ring) : (s.modRing k f).clk = s.clk := rfl
@[simp] theorem State.modRing_free (k : Nat) (f : Ring → Ring) : (s.modRing k f).free = s.free := rfl
@[simp] theorem State.modRing_nextId (k : Nat) (f : Ring → Ring) : (s.modRing k f).nextId = s.nextId := rfl
@[simp] theorem State.modRing_up (k : Nat) (f : Ring → Ring) : (s.modRing k f).up = s.up := rfl
@[simp] theorem State.modRing_pwr (k : Nat) (f : Ring → Ring) : (s.modRing k f).pwr = s.pwr := rfl
@[simp] theorem State.modRing_portA (k : Nat) (f : Ring → Ring) : (s.modRing k f).portA = s.portA := rfl
@[simp] theorem State.modRing_portB (k : Nat) (f : Ring → Ring) : (s.modRing k f).portB = s.portB := rfl
@[simp] theorem State.modRing_fns (k : Nat) (f : Ring → Ring) : (s.modRing k f).fns = s.fns := rfl
@[simp] theorem State.modRing_ctxs (k : Nat) (f : Ring → Ring) : (s.modRing k f).ctxs = s.ctxs := rfl
@[simp] theorem State.modRing_tasks (k : Nat) (f : Ring → Ring) : (s.modRing k f).tasks = s.tasks := rfl
@[simp] theorem State.modRing_lastPort (k : Nat) (f : Ring → Ring) : (s.modRing k f).lastPort = s.lastPort := rfl
@[simp] theorem State.modRing_shells (k : Nat) (f : Ring → Ring) : (s.modRing k f).shells = s.shells := rfl
@[simp] theorem State.modRing_phys (k : Nat) (f : Ring → Ring) : (s.modRing k f).phys = s.phys := rfl
@[simp] theorem State.modRing_vigils (k : Nat) (f : Ring → Ring) : (s.modRing k f).vigils = s.vigils := rfl
@[simp] theorem State.modRing_inbox (k : Nat) (f : Ring → Ring) : (s.modRing k f).inbox = s.inbox := rfl
@[simp] theorem State.modRing_streams (k : Nat) (f : Ring → Ring) : (s.modRing k f).streams = s.streams := rfl
@[simp] theorem State.modRing_mem (k : Nat) (f : Ring → Ring) : (s.modRing k f).mem = s.mem := rfl
@[simp] theorem State.modRing_stackTab (k : Nat) (f : Ring → Ring) : (s.modRing k f).stackTab = s.stackTab := rfl
@[simp] theorem State.modRing_mode (k : Nat) (f : Ring → Ring) : (s.modRing k f).mode = s.mode := rfl
@[simp] theorem State.modRing_sems (k : Nat) (f : Ring → Ring) : (s.modRing k f).sems = s.sems := rfl
@[simp] theorem State.modRing_ctr (k : Nat) (f : Ring → Ring) : (s.modRing k f).ctr = s.ctr := rfl
@[simp] theorem State.modRing_ctrSince (k : Nat) (f : Ring → Ring) : (s.modRing k f).ctrSince = s.ctrSince := rfl
@[simp] theorem State.modRing_dumpLast (k : Nat) (f : Ring → Ring) : (s.modRing k f).dumpLast = s.dumpLast := rfl
@[simp] theorem State.modRing_trace (k : Nat) (f : Ring → Ring) : (s.modRing k f).trace = s.trace := rfl
@[simp] theorem State.modRing_dbg (k : Nat) (f : Ring → Ring) : (s.modRing k f).dbg = s.dbg := rfl
@[simp] theorem State.modRing_sync (k : Nat) (f : Ring → Ring) : (s.modRing k f).sync = s.sync := rfl
@[simp] theorem State.modRing_cox (k : Nat) (f : Ring → Ring) : (s.modRing k f).cox = s.cox := rfl
@[simp] theorem State.modRing_chans (k : Nat) (f : Ring → Ring) : (s.modRing k f).chans = s.chans := rfl
@[simp] theorem State.modRing_sec (k : Nat) (f : Ring → Ring) : (s.modRing k f).sec = s.sec := rfl
@[simp] theorem State.modRing_svc (k : Nat) (f : Ring → Ring) : (s.modRing k f).svc = s.svc := rfl

/-! ## `setCtx` -/

@[simp] theorem State.setCtx_pending (c : Nat) (x : Ctx) : (s.setCtx c x).pending = s.pending := rfl
@[simp] theorem State.setCtx_clk (c : Nat) (x : Ctx) : (s.setCtx c x).clk = s.clk := rfl
@[simp] theorem State.setCtx_free (c : Nat) (x : Ctx) : (s.setCtx c x).free = s.free := rfl
@[simp] theorem State.setCtx_nextId (c : Nat) (x : Ctx) : (s.setCtx c x).nextId = s.nextId := rfl
@[simp] theorem State.setCtx_up (c : Nat) (x : Ctx) : (s.setCtx c x).up = s.up := rfl
@[simp] theorem State.setCtx_pwr (c : Nat) (x : Ctx) : (s.setCtx c x).pwr = s.pwr := rfl
@[simp] theorem State.setCtx_portA (c : Nat) (x : Ctx) : (s.setCtx c x).portA = s.portA := rfl
@[simp] theorem State.setCtx_portB (c : Nat) (x : Ctx) : (s.setCtx c x).portB = s.portB := rfl
@[simp] theorem State.setCtx_fns (c : Nat) (x : Ctx) : (s.setCtx c x).fns = s.fns := rfl
@[simp] theorem State.setCtx_rings (c : Nat) (x : Ctx) : (s.setCtx c x).rings = s.rings := rfl
@[simp] theorem State.setCtx_tasks (c : Nat) (x : Ctx) : (s.setCtx c x).tasks = s.tasks := rfl
@[simp] theorem State.setCtx_lastPort (c : Nat) (x : Ctx) : (s.setCtx c x).lastPort = s.lastPort := rfl
@[simp] theorem State.setCtx_shells (c : Nat) (x : Ctx) : (s.setCtx c x).shells = s.shells := rfl
@[simp] theorem State.setCtx_phys (c : Nat) (x : Ctx) : (s.setCtx c x).phys = s.phys := rfl
@[simp] theorem State.setCtx_vigils (c : Nat) (x : Ctx) : (s.setCtx c x).vigils = s.vigils := rfl
@[simp] theorem State.setCtx_inbox (c : Nat) (x : Ctx) : (s.setCtx c x).inbox = s.inbox := rfl
@[simp] theorem State.setCtx_streams (c : Nat) (x : Ctx) : (s.setCtx c x).streams = s.streams := rfl
@[simp] theorem State.setCtx_mem (c : Nat) (x : Ctx) : (s.setCtx c x).mem = s.mem := rfl
@[simp] theorem State.setCtx_stackTab (c : Nat) (x : Ctx) : (s.setCtx c x).stackTab = s.stackTab := rfl
@[simp] theorem State.setCtx_mode (c : Nat) (x : Ctx) : (s.setCtx c x).mode = s.mode := rfl
@[simp] theorem State.setCtx_sems (c : Nat) (x : Ctx) : (s.setCtx c x).sems = s.sems := rfl
@[simp] theorem State.setCtx_ctr (c : Nat) (x : Ctx) : (s.setCtx c x).ctr = s.ctr := rfl
@[simp] theorem State.setCtx_ctrSince (c : Nat) (x : Ctx) : (s.setCtx c x).ctrSince = s.ctrSince := rfl
@[simp] theorem State.setCtx_dumpLast (c : Nat) (x : Ctx) : (s.setCtx c x).dumpLast = s.dumpLast := rfl
@[simp] theorem State.setCtx_trace (c : Nat) (x : Ctx) : (s.setCtx c x).trace = s.trace := rfl
@[simp] theorem State.setCtx_dbg (c : Nat) (x : Ctx) : (s.setCtx c x).dbg = s.dbg := rfl
@[simp] theorem State.setCtx_sync (c : Nat) (x : Ctx) : (s.setCtx c x).sync = s.sync := rfl
@[simp] theorem State.setCtx_cox (c : Nat) (x : Ctx) : (s.setCtx c x).cox = s.cox := rfl
@[simp] theorem State.setCtx_chans (c : Nat) (x : Ctx) : (s.setCtx c x).chans = s.chans := rfl
@[simp] theorem State.setCtx_sec (c : Nat) (x : Ctx) : (s.setCtx c x).sec = s.sec := rfl
@[simp] theorem State.setCtx_svc (c : Nat) (x : Ctx) : (s.setCtx c x).svc = s.svc := rfl

/-! ## `modCtx` -/

@[simp] theorem State.modCtx_pending (c : Nat) (f : Ctx → Ctx) : (s.modCtx c f).pending = s.pending := rfl
@[simp] theorem State.modCtx_clk (c : Nat) (f : Ctx → Ctx) : (s.modCtx c f).clk = s.clk := rfl
@[simp] theorem State.modCtx_free (c : Nat) (f : Ctx → Ctx) : (s.modCtx c f).free = s.free := rfl
@[simp] theorem State.modCtx_nextId (c : Nat) (f : Ctx → Ctx) : (s.modCtx c f).nextId = s.nextId := rfl
@[simp] theorem State.modCtx_up (c : Nat) (f : Ctx → Ctx) : (s.modCtx c f).up = s.up := rfl
@[simp] theorem State.modCtx_pwr (c : Nat) (f : Ctx → Ctx) : (s.modCtx c f).pwr = s.pwr := rfl
@[simp] theorem State.modCtx_portA (c : Nat) (f : Ctx → Ctx) : (s.modCtx c f).portA = s.portA := rfl
@[simp] theorem State.modCtx_portB (c : Nat) (f : Ctx → Ctx) : (s.modCtx c f).portB = s.portB := rfl
@[simp] theorem State.modCtx_fns (c : Nat) (f : Ctx → Ctx) : (s.modCtx c f).fns = s.fns := rfl
@[simp] theorem State.modCtx_rings (c : Nat) (f : Ctx → Ctx) : (s.modCtx c f).rings = s.rings := rfl
@[simp] theorem State.modCtx_tasks (c : Nat) (f : Ctx → Ctx) : (s.modCtx c f).tasks = s.tasks := rfl
@[simp] theorem State.modCtx_lastPort (c : Nat) (f : Ctx → Ctx) : (s.modCtx c f).lastPort = s.lastPort := rfl
@[simp] theorem State.modCtx_shells (c : Nat) (f : Ctx → Ctx) : (s.modCtx c f).shells = s.shells := rfl
@[simp] theorem State.modCtx_phys (c : Nat) (f : Ctx → Ctx) : (s.modCtx c f).phys = s.phys := rfl
@[simp] theorem State.modCtx_vigils (c : Nat) (f : Ctx → Ctx) : (s.modCtx c f).vigils = s.vigils := rfl
@[simp] theorem State.modCtx_inbox (c : Nat) (f : Ctx → Ctx) : (s.modCtx c f).inbox = s.inbox := rfl
@[simp] theorem State.modCtx_streams (c : Nat) (f : Ctx → Ctx) : (s.modCtx c f).streams = s.streams := rfl
@[simp] theorem State.modCtx_mem (c : Nat) (f : Ctx → Ctx) : (s.modCtx c f).mem = s.mem := rfl
@[simp] theorem State.modCtx_stackTab (c : Nat) (f : Ctx → Ctx) : (s.modCtx c f).stackTab = s.stackTab := rfl
@[simp] theorem State.modCtx_mode (c : Nat) (f : Ctx → Ctx) : (s.modCtx c f).mode = s.mode := rfl
@[simp] theorem State.modCtx_sems (c : Nat) (f : Ctx → Ctx) : (s.modCtx c f).sems = s.sems := rfl
@[simp] theorem State.modCtx_ctr (c : Nat) (f : Ctx → Ctx) : (s.modCtx c f).ctr = s.ctr := rfl
@[simp] theorem State.modCtx_ctrSince (c : Nat) (f : Ctx → Ctx) : (s.modCtx c f).ctrSince = s.ctrSince := rfl
@[simp] theorem State.modCtx_dumpLast (c : Nat) (f : Ctx → Ctx) : (s.modCtx c f).dumpLast = s.dumpLast := rfl
@[simp] theorem State.modCtx_trace (c : Nat) (f : Ctx → Ctx) : (s.modCtx c f).trace = s.trace := rfl
@[simp] theorem State.modCtx_dbg (c : Nat) (f : Ctx → Ctx) : (s.modCtx c f).dbg = s.dbg := rfl
@[simp] theorem State.modCtx_sync (c : Nat) (f : Ctx → Ctx) : (s.modCtx c f).sync = s.sync := rfl
@[simp] theorem State.modCtx_cox (c : Nat) (f : Ctx → Ctx) : (s.modCtx c f).cox = s.cox := rfl
@[simp] theorem State.modCtx_chans (c : Nat) (f : Ctx → Ctx) : (s.modCtx c f).chans = s.chans := rfl
@[simp] theorem State.modCtx_sec (c : Nat) (f : Ctx → Ctx) : (s.modCtx c f).sec = s.sec := rfl
@[simp] theorem State.modCtx_svc (c : Nat) (f : Ctx → Ctx) : (s.modCtx c f).svc = s.svc := rfl

/-! ## `setTask` -/

@[simp] theorem State.setTask_pending (t : Nat) (x : Task) : (s.setTask t x).pending = s.pending := rfl
@[simp] theorem State.setTask_clk (t : Nat) (x : Task) : (s.setTask t x).clk = s.clk := rfl
@[simp] theorem State.setTask_free (t : Nat) (x : Task) : (s.setTask t x).free = s.free := rfl
@[simp] theorem State.setTask_nextId (t : Nat) (x : Task) : (s.setTask t x).nextId = s.nextId := rfl
@[simp] theorem State.setTask_up (t : Nat) (x : Task) : (s.setTask t x).up = s.up := rfl
@[simp] theorem State.setTask_pwr (t : Nat) (x : Task) : (s.setTask t x).pwr = s.pwr := rfl
@[simp] theorem State.setTask_portA (t : Nat) (x : Task) : (s.setTask t x).portA = s.portA := rfl
@[simp] theorem State.setTask_portB (t : Nat) (x : Task) : (s.setTask t x).portB = s.portB := rfl
@[simp] theorem State.setTask_fns (t : Nat) (x : Task) : (s.setTask t x).fns = s.fns := rfl
@[simp] theorem State.setTask_rings (t : Nat) (x : Task) : (s.setTask t x).rings = s.rings := rfl
@[simp] theorem State.setTask_ctxs (t : Nat) (x : Task) : (s.setTask t x).ctxs = s.ctxs := rfl
@[simp] theorem State.setTask_lastPort (t : Nat) (x : Task) : (s.setTask t x).lastPort = s.lastPort := rfl
@[simp] theorem State.setTask_shells (t : Nat) (x : Task) : (s.setTask t x).shells = s.shells := rfl
@[simp] theorem State.setTask_phys (t : Nat) (x : Task) : (s.setTask t x).phys = s.phys := rfl
@[simp] theorem State.setTask_vigils (t : Nat) (x : Task) : (s.setTask t x).vigils = s.vigils := rfl
@[simp] theorem State.setTask_inbox (t : Nat) (x : Task) : (s.setTask t x).inbox = s.inbox := rfl
@[simp] theorem State.setTask_streams (t : Nat) (x : Task) : (s.setTask t x).streams = s.streams := rfl
@[simp] theorem State.setTask_mem (t : Nat) (x : Task) : (s.setTask t x).mem = s.mem := rfl
@[simp] theorem State.setTask_stackTab (t : Nat) (x : Task) : (s.setTask t x).stackTab = s.stackTab := rfl
@[simp] theorem State.setTask_mode (t : Nat) (x : Task) : (s.setTask t x).mode = s.mode := rfl
@[simp] theorem State.setTask_sems (t : Nat) (x : Task) : (s.setTask t x).sems = s.sems := rfl
@[simp] theorem State.setTask_ctr (t : Nat) (x : Task) : (s.setTask t x).ctr = s.ctr := rfl
@[simp] theorem State.setTask_ctrSince (t : Nat) (x : Task) : (s.setTask t x).ctrSince = s.ctrSince := rfl
@[simp] theorem State.setTask_dumpLast (t : Nat) (x : Task) : (s.setTask t x).dumpLast = s.dumpLast := rfl
@[simp] theorem State.setTask_trace (t : Nat) (x : Task) : (s.setTask t x).trace = s.trace := rfl
@[simp] theorem State.setTask_dbg (t : Nat) (x : Task) : (s.setTask t x).dbg = s.dbg := rfl
@[simp] theorem State.setTask_sync (t : Nat) (x : Task) : (s.setTask t x).sync = s.sync := rfl
@[simp] theorem State.setTask_cox (t : Nat) (x : Task) : (s.setTask t x).cox = s.cox := rfl
@[simp] theorem State.setTask_chans (t : Nat) (x : Task) : (s.setTask t x).chans = s.chans := rfl
@[simp] theorem State.setTask_sec (t : Nat) (x : Task) : (s.setTask t x).sec = s.sec := rfl
@[simp] theorem State.setTask_svc (t : Nat) (x : Task) : (s.setTask t x).svc = s.svc := rfl

/-! ## `modStack` -/

@[simp] theorem State.modStack_pending (k : Nat) (f : Stack → Stack) : (s.modStack k f).pending = s.pending := rfl
@[simp] theorem State.modStack_clk (k : Nat) (f : Stack → Stack) : (s.modStack k f).clk = s.clk := rfl
@[simp] theorem State.modStack_free (k : Nat) (f : Stack → Stack) : (s.modStack k f).free = s.free := rfl
@[simp] theorem State.modStack_nextId (k : Nat) (f : Stack → Stack) : (s.modStack k f).nextId = s.nextId := rfl
@[simp] theorem State.modStack_up (k : Nat) (f : Stack → Stack) : (s.modStack k f).up = s.up := rfl
@[simp] theorem State.modStack_pwr (k : Nat) (f : Stack → Stack) : (s.modStack k f).pwr = s.pwr := rfl
@[simp] theorem State.modStack_portA (k : Nat) (f : Stack → Stack) : (s.modStack k f).portA = s.portA := rfl
@[simp] theorem State.modStack_portB (k : Nat) (f : Stack → Stack) : (s.modStack k f).portB = s.portB := rfl
@[simp] theorem State.modStack_fns (k : Nat) (f : Stack → Stack) : (s.modStack k f).fns = s.fns := rfl
@[simp] theorem State.modStack_rings (k : Nat) (f : Stack → Stack) : (s.modStack k f).rings = s.rings := rfl
@[simp] theorem State.modStack_ctxs (k : Nat) (f : Stack → Stack) : (s.modStack k f).ctxs = s.ctxs := rfl
@[simp] theorem State.modStack_tasks (k : Nat) (f : Stack → Stack) : (s.modStack k f).tasks = s.tasks := rfl
@[simp] theorem State.modStack_lastPort (k : Nat) (f : Stack → Stack) : (s.modStack k f).lastPort = s.lastPort := rfl
@[simp] theorem State.modStack_shells (k : Nat) (f : Stack → Stack) : (s.modStack k f).shells = s.shells := rfl
@[simp] theorem State.modStack_phys (k : Nat) (f : Stack → Stack) : (s.modStack k f).phys = s.phys := rfl
@[simp] theorem State.modStack_vigils (k : Nat) (f : Stack → Stack) : (s.modStack k f).vigils = s.vigils := rfl
@[simp] theorem State.modStack_inbox (k : Nat) (f : Stack → Stack) : (s.modStack k f).inbox = s.inbox := rfl
@[simp] theorem State.modStack_streams (k : Nat) (f : Stack → Stack) : (s.modStack k f).streams = s.streams := rfl
@[simp] theorem State.modStack_mem (k : Nat) (f : Stack → Stack) : (s.modStack k f).mem = s.mem := rfl
@[simp] theorem State.modStack_mode (k : Nat) (f : Stack → Stack) : (s.modStack k f).mode = s.mode := rfl
@[simp] theorem State.modStack_sems (k : Nat) (f : Stack → Stack) : (s.modStack k f).sems = s.sems := rfl
@[simp] theorem State.modStack_ctr (k : Nat) (f : Stack → Stack) : (s.modStack k f).ctr = s.ctr := rfl
@[simp] theorem State.modStack_ctrSince (k : Nat) (f : Stack → Stack) : (s.modStack k f).ctrSince = s.ctrSince := rfl
@[simp] theorem State.modStack_dumpLast (k : Nat) (f : Stack → Stack) : (s.modStack k f).dumpLast = s.dumpLast := rfl
@[simp] theorem State.modStack_trace (k : Nat) (f : Stack → Stack) : (s.modStack k f).trace = s.trace := rfl
@[simp] theorem State.modStack_dbg (k : Nat) (f : Stack → Stack) : (s.modStack k f).dbg = s.dbg := rfl
@[simp] theorem State.modStack_sync (k : Nat) (f : Stack → Stack) : (s.modStack k f).sync = s.sync := rfl
@[simp] theorem State.modStack_cox (k : Nat) (f : Stack → Stack) : (s.modStack k f).cox = s.cox := rfl
@[simp] theorem State.modStack_chans (k : Nat) (f : Stack → Stack) : (s.modStack k f).chans = s.chans := rfl
@[simp] theorem State.modStack_sec (k : Nat) (f : Stack → Stack) : (s.modStack k f).sec = s.sec := rfl
@[simp] theorem State.modStack_svc (k : Nat) (f : Stack → Stack) : (s.modStack k f).svc = s.svc := rfl

/-! ## `modChan` -/

@[simp] theorem State.modChan_pending (c : Chan) (f : Channel → Channel) : (s.modChan c f).pending = s.pending := rfl
@[simp] theorem State.modChan_clk (c : Chan) (f : Channel → Channel) : (s.modChan c f).clk = s.clk := rfl
@[simp] theorem State.modChan_free (c : Chan) (f : Channel → Channel) : (s.modChan c f).free = s.free := rfl
@[simp] theorem State.modChan_nextId (c : Chan) (f : Channel → Channel) : (s.modChan c f).nextId = s.nextId := rfl
@[simp] theorem State.modChan_up (c : Chan) (f : Channel → Channel) : (s.modChan c f).up = s.up := rfl
@[simp] theorem State.modChan_pwr (c : Chan) (f : Channel → Channel) : (s.modChan c f).pwr = s.pwr := rfl
@[simp] theorem State.modChan_portA (c : Chan) (f : Channel → Channel) : (s.modChan c f).portA = s.portA := rfl
@[simp] theorem State.modChan_portB (c : Chan) (f : Channel → Channel) : (s.modChan c f).portB = s.portB := rfl
@[simp] theorem State.modChan_fns (c : Chan) (f : Channel → Channel) : (s.modChan c f).fns = s.fns := rfl
@[simp] theorem State.modChan_rings (c : Chan) (f : Channel → Channel) : (s.modChan c f).rings = s.rings := rfl
@[simp] theorem State.modChan_ctxs (c : Chan) (f : Channel → Channel) : (s.modChan c f).ctxs = s.ctxs := rfl
@[simp] theorem State.modChan_tasks (c : Chan) (f : Channel → Channel) : (s.modChan c f).tasks = s.tasks := rfl
@[simp] theorem State.modChan_lastPort (c : Chan) (f : Channel → Channel) : (s.modChan c f).lastPort = s.lastPort := rfl
@[simp] theorem State.modChan_shells (c : Chan) (f : Channel → Channel) : (s.modChan c f).shells = s.shells := rfl
@[simp] theorem State.modChan_phys (c : Chan) (f : Channel → Channel) : (s.modChan c f).phys = s.phys := rfl
@[simp] theorem State.modChan_vigils (c : Chan) (f : Channel → Channel) : (s.modChan c f).vigils = s.vigils := rfl
@[simp] theorem State.modChan_inbox (c : Chan) (f : Channel → Channel) : (s.modChan c f).inbox = s.inbox := rfl
@[simp] theorem State.modChan_streams (c : Chan) (f : Channel → Channel) : (s.modChan c f).streams = s.streams := rfl
@[simp] theorem State.modChan_mem (c : Chan) (f : Channel → Channel) : (s.modChan c f).mem = s.mem := rfl
@[simp] theorem State.modChan_stackTab (c : Chan) (f : Channel → Channel) : (s.modChan c f).stackTab = s.stackTab := rfl
@[simp] theorem State.modChan_mode (c : Chan) (f : Channel → Channel) : (s.modChan c f).mode = s.mode := rfl
@[simp] theorem State.modChan_sems (c : Chan) (f : Channel → Channel) : (s.modChan c f).sems = s.sems := rfl
@[simp] theorem State.modChan_ctr (c : Chan) (f : Channel → Channel) : (s.modChan c f).ctr = s.ctr := rfl
@[simp] theorem State.modChan_ctrSince (c : Chan) (f : Channel → Channel) : (s.modChan c f).ctrSince = s.ctrSince := rfl
@[simp] theorem State.modChan_dumpLast (c : Chan) (f : Channel → Channel) : (s.modChan c f).dumpLast = s.dumpLast := rfl
@[simp] theorem State.modChan_trace (c : Chan) (f : Channel → Channel) : (s.modChan c f).trace = s.trace := rfl
@[simp] theorem State.modChan_dbg (c : Chan) (f : Channel → Channel) : (s.modChan c f).dbg = s.dbg := rfl
@[simp] theorem State.modChan_sync (c : Chan) (f : Channel → Channel) : (s.modChan c f).sync = s.sync := rfl
@[simp] theorem State.modChan_cox (c : Chan) (f : Channel → Channel) : (s.modChan c f).cox = s.cox := rfl
@[simp] theorem State.modChan_sec (c : Chan) (f : Channel → Channel) : (s.modChan c f).sec = s.sec := rfl
@[simp] theorem State.modChan_svc (c : Chan) (f : Channel → Channel) : (s.modChan c f).svc = s.svc := rfl

/-! ## `modPhys` -/

@[simp] theorem State.modPhys_pending (k : Nat) (f : Phys → Phys) : (s.modPhys k f).pending = s.pending := rfl
@[simp] theorem State.modPhys_clk (k : Nat) (f : Phys → Phys) : (s.modPhys k f).clk = s.clk := rfl
@[simp] theorem State.modPhys_free (k : Nat) (f : Phys → Phys) : (s.modPhys k f).free = s.free := rfl
@[simp] theorem State.modPhys_nextId (k : Nat) (f : Phys → Phys) : (s.modPhys k f).nextId = s.nextId := rfl
@[simp] theorem State.modPhys_up (k : Nat) (f : Phys → Phys) : (s.modPhys k f).up = s.up := rfl
@[simp] theorem State.modPhys_pwr (k : Nat) (f : Phys → Phys) : (s.modPhys k f).pwr = s.pwr := rfl
@[simp] theorem State.modPhys_portA (k : Nat) (f : Phys → Phys) : (s.modPhys k f).portA = s.portA := rfl
@[simp] theorem State.modPhys_portB (k : Nat) (f : Phys → Phys) : (s.modPhys k f).portB = s.portB := rfl
@[simp] theorem State.modPhys_fns (k : Nat) (f : Phys → Phys) : (s.modPhys k f).fns = s.fns := rfl
@[simp] theorem State.modPhys_rings (k : Nat) (f : Phys → Phys) : (s.modPhys k f).rings = s.rings := rfl
@[simp] theorem State.modPhys_ctxs (k : Nat) (f : Phys → Phys) : (s.modPhys k f).ctxs = s.ctxs := rfl
@[simp] theorem State.modPhys_tasks (k : Nat) (f : Phys → Phys) : (s.modPhys k f).tasks = s.tasks := rfl
@[simp] theorem State.modPhys_lastPort (k : Nat) (f : Phys → Phys) : (s.modPhys k f).lastPort = s.lastPort := rfl
@[simp] theorem State.modPhys_shells (k : Nat) (f : Phys → Phys) : (s.modPhys k f).shells = s.shells := rfl
@[simp] theorem State.modPhys_vigils (k : Nat) (f : Phys → Phys) : (s.modPhys k f).vigils = s.vigils := rfl
@[simp] theorem State.modPhys_inbox (k : Nat) (f : Phys → Phys) : (s.modPhys k f).inbox = s.inbox := rfl
@[simp] theorem State.modPhys_streams (k : Nat) (f : Phys → Phys) : (s.modPhys k f).streams = s.streams := rfl
@[simp] theorem State.modPhys_mem (k : Nat) (f : Phys → Phys) : (s.modPhys k f).mem = s.mem := rfl
@[simp] theorem State.modPhys_stackTab (k : Nat) (f : Phys → Phys) : (s.modPhys k f).stackTab = s.stackTab := rfl
@[simp] theorem State.modPhys_mode (k : Nat) (f : Phys → Phys) : (s.modPhys k f).mode = s.mode := rfl
@[simp] theorem State.modPhys_sems (k : Nat) (f : Phys → Phys) : (s.modPhys k f).sems = s.sems := rfl
@[simp] theorem State.modPhys_ctr (k : Nat) (f : Phys → Phys) : (s.modPhys k f).ctr = s.ctr := rfl
@[simp] theorem State.modPhys_ctrSince (k : Nat) (f : Phys → Phys) : (s.modPhys k f).ctrSince = s.ctrSince := rfl
@[simp] theorem State.modPhys_dumpLast (k : Nat) (f : Phys → Phys) : (s.modPhys k f).dumpLast = s.dumpLast := rfl
@[simp] theorem State.modPhys_trace (k : Nat) (f : Phys → Phys) : (s.modPhys k f).trace = s.trace := rfl
@[simp] theorem State.modPhys_dbg (k : Nat) (f : Phys → Phys) : (s.modPhys k f).dbg = s.dbg := rfl
@[simp] theorem State.modPhys_sync (k : Nat) (f : Phys → Phys) : (s.modPhys k f).sync = s.sync := rfl
@[simp] theorem State.modPhys_cox (k : Nat) (f : Phys → Phys) : (s.modPhys k f).cox = s.cox := rfl
@[simp] theorem State.modPhys_chans (k : Nat) (f : Phys → Phys) : (s.modPhys k f).chans = s.chans := rfl
@[simp] theorem State.modPhys_sec (k : Nat) (f : Phys → Phys) : (s.modPhys k f).sec = s.sec := rfl
@[simp] theorem State.modPhys_svc (k : Nat) (f : Phys → Phys) : (s.modPhys k f).svc = s.svc := rfl

/-! ## `bump` -/

@[simp] theorem State.bump_pending (k n : Nat) : (s.bump k n).pending = s.pending := rfl
@[simp] theorem State.bump_clk (k n : Nat) : (s.bump k n).clk = s.clk := rfl
@[simp] theorem State.bump_free (k n : Nat) : (s.bump k n).free = s.free := rfl
@[simp] theorem State.bump_nextId (k n : Nat) : (s.bump k n).nextId = s.nextId := rfl
@[simp] theorem State.bump_up (k n : Nat) : (s.bump k n).up = s.up := rfl
@[simp] theorem State.bump_pwr (k n : Nat) : (s.bump k n).pwr = s.pwr := rfl
@[simp] theorem State.bump_portA (k n : Nat) : (s.bump k n).portA = s.portA := rfl
@[simp] theorem State.bump_portB (k n : Nat) : (s.bump k n).portB = s.portB := rfl
@[simp] theorem State.bump_fns (k n : Nat) : (s.bump k n).fns = s.fns := rfl
@[simp] theorem State.bump_rings (k n : Nat) : (s.bump k n).rings = s.rings := rfl
@[simp] theorem State.bump_ctxs (k n : Nat) : (s.bump k n).ctxs = s.ctxs := rfl
@[simp] theorem State.bump_tasks (k n : Nat) : (s.bump k n).tasks = s.tasks := rfl
@[simp] theorem State.bump_lastPort (k n : Nat) : (s.bump k n).lastPort = s.lastPort := rfl
@[simp] theorem State.bump_shells (k n : Nat) : (s.bump k n).shells = s.shells := rfl
@[simp] theorem State.bump_phys (k n : Nat) : (s.bump k n).phys = s.phys := rfl
@[simp] theorem State.bump_vigils (k n : Nat) : (s.bump k n).vigils = s.vigils := rfl
@[simp] theorem State.bump_inbox (k n : Nat) : (s.bump k n).inbox = s.inbox := rfl
@[simp] theorem State.bump_streams (k n : Nat) : (s.bump k n).streams = s.streams := rfl
@[simp] theorem State.bump_mem (k n : Nat) : (s.bump k n).mem = s.mem := rfl
@[simp] theorem State.bump_stackTab (k n : Nat) : (s.bump k n).stackTab = s.stackTab := rfl
@[simp] theorem State.bump_mode (k n : Nat) : (s.bump k n).mode = s.mode := rfl
@[simp] theorem State.bump_sems (k n : Nat) : (s.bump k n).sems = s.sems := rfl
@[simp] theorem State.bump_ctrSince (k n : Nat) : (s.bump k n).ctrSince = s.ctrSince := rfl
@[simp] theorem State.bump_dumpLast (k n : Nat) : (s.bump k n).dumpLast = s.dumpLast := rfl
@[simp] theorem State.bump_trace (k n : Nat) : (s.bump k n).trace = s.trace := rfl
@[simp] theorem State.bump_dbg (k n : Nat) : (s.bump k n).dbg = s.dbg := rfl
@[simp] theorem State.bump_sync (k n : Nat) : (s.bump k n).sync = s.sync := rfl
@[simp] theorem State.bump_cox (k n : Nat) : (s.bump k n).cox = s.cox := rfl
@[simp] theorem State.bump_chans (k n : Nat) : (s.bump k n).chans = s.chans := rfl
@[simp] theorem State.bump_sec (k n : Nat) : (s.bump k n).sec = s.sec := rfl
@[simp] theorem State.bump_svc (k n : Nat) : (s.bump k n).svc = s.svc := rfl

/-! ## `setPort` -/

@[simp] theorem State.setPort_pending (p : Port) (x : PortSt) : (s.setPort p x).pending = s.pending := by cases p <;> rfl
@[simp] theorem State.setPort_clk (p : Port) (x : PortSt) : (s.setPort p x).clk = s.clk := by cases p <;> rfl
@[simp] theorem State.setPort_free (p : Port) (x : PortSt) : (s.setPort p x).free = s.free := by cases p <;> rfl
@[simp] theorem State.setPort_nextId (p : Port) (x : PortSt) : (s.setPort p x).nextId = s.nextId := by cases p <;> rfl
@[simp] theorem State.setPort_up (p : Port) (x : PortSt) : (s.setPort p x).up = s.up := by cases p <;> rfl
@[simp] theorem State.setPort_pwr (p : Port) (x : PortSt) : (s.setPort p x).pwr = s.pwr := by cases p <;> rfl
@[simp] theorem State.setPort_fns (p : Port) (x : PortSt) : (s.setPort p x).fns = s.fns := by cases p <;> rfl
@[simp] theorem State.setPort_rings (p : Port) (x : PortSt) : (s.setPort p x).rings = s.rings := by cases p <;> rfl
@[simp] theorem State.setPort_ctxs (p : Port) (x : PortSt) : (s.setPort p x).ctxs = s.ctxs := by cases p <;> rfl
@[simp] theorem State.setPort_tasks (p : Port) (x : PortSt) : (s.setPort p x).tasks = s.tasks := by cases p <;> rfl
@[simp] theorem State.setPort_lastPort (p : Port) (x : PortSt) : (s.setPort p x).lastPort = s.lastPort := by cases p <;> rfl
@[simp] theorem State.setPort_shells (p : Port) (x : PortSt) : (s.setPort p x).shells = s.shells := by cases p <;> rfl
@[simp] theorem State.setPort_phys (p : Port) (x : PortSt) : (s.setPort p x).phys = s.phys := by cases p <;> rfl
@[simp] theorem State.setPort_vigils (p : Port) (x : PortSt) : (s.setPort p x).vigils = s.vigils := by cases p <;> rfl
@[simp] theorem State.setPort_inbox (p : Port) (x : PortSt) : (s.setPort p x).inbox = s.inbox := by cases p <;> rfl
@[simp] theorem State.setPort_streams (p : Port) (x : PortSt) : (s.setPort p x).streams = s.streams := by cases p <;> rfl
@[simp] theorem State.setPort_mem (p : Port) (x : PortSt) : (s.setPort p x).mem = s.mem := by cases p <;> rfl
@[simp] theorem State.setPort_stackTab (p : Port) (x : PortSt) : (s.setPort p x).stackTab = s.stackTab := by cases p <;> rfl
@[simp] theorem State.setPort_mode (p : Port) (x : PortSt) : (s.setPort p x).mode = s.mode := by cases p <;> rfl
@[simp] theorem State.setPort_sems (p : Port) (x : PortSt) : (s.setPort p x).sems = s.sems := by cases p <;> rfl
@[simp] theorem State.setPort_ctr (p : Port) (x : PortSt) : (s.setPort p x).ctr = s.ctr := by cases p <;> rfl
@[simp] theorem State.setPort_ctrSince (p : Port) (x : PortSt) : (s.setPort p x).ctrSince = s.ctrSince := by cases p <;> rfl
@[simp] theorem State.setPort_dumpLast (p : Port) (x : PortSt) : (s.setPort p x).dumpLast = s.dumpLast := by cases p <;> rfl
@[simp] theorem State.setPort_trace (p : Port) (x : PortSt) : (s.setPort p x).trace = s.trace := by cases p <;> rfl
@[simp] theorem State.setPort_dbg (p : Port) (x : PortSt) : (s.setPort p x).dbg = s.dbg := by cases p <;> rfl
@[simp] theorem State.setPort_sync (p : Port) (x : PortSt) : (s.setPort p x).sync = s.sync := by cases p <;> rfl
@[simp] theorem State.setPort_cox (p : Port) (x : PortSt) : (s.setPort p x).cox = s.cox := by cases p <;> rfl
@[simp] theorem State.setPort_chans (p : Port) (x : PortSt) : (s.setPort p x).chans = s.chans := by cases p <;> rfl
@[simp] theorem State.setPort_sec (p : Port) (x : PortSt) : (s.setPort p x).sec = s.sec := by cases p <;> rfl
@[simp] theorem State.setPort_svc (p : Port) (x : PortSt) : (s.setPort p x).svc = s.svc := by cases p <;> rfl

/-! ## `modPort` -/

@[simp] theorem State.modPort_pending (p : Port) (f : PortSt → PortSt) : (s.modPort p f).pending = s.pending := by cases p <;> rfl
@[simp] theorem State.modPort_clk (p : Port) (f : PortSt → PortSt) : (s.modPort p f).clk = s.clk := by cases p <;> rfl
@[simp] theorem State.modPort_free (p : Port) (f : PortSt → PortSt) : (s.modPort p f).free = s.free := by cases p <;> rfl
@[simp] theorem State.modPort_nextId (p : Port) (f : PortSt → PortSt) : (s.modPort p f).nextId = s.nextId := by cases p <;> rfl
@[simp] theorem State.modPort_up (p : Port) (f : PortSt → PortSt) : (s.modPort p f).up = s.up := by cases p <;> rfl
@[simp] theorem State.modPort_pwr (p : Port) (f : PortSt → PortSt) : (s.modPort p f).pwr = s.pwr := by cases p <;> rfl
@[simp] theorem State.modPort_fns (p : Port) (f : PortSt → PortSt) : (s.modPort p f).fns = s.fns := by cases p <;> rfl
@[simp] theorem State.modPort_rings (p : Port) (f : PortSt → PortSt) : (s.modPort p f).rings = s.rings := by cases p <;> rfl
@[simp] theorem State.modPort_ctxs (p : Port) (f : PortSt → PortSt) : (s.modPort p f).ctxs = s.ctxs := by cases p <;> rfl
@[simp] theorem State.modPort_tasks (p : Port) (f : PortSt → PortSt) : (s.modPort p f).tasks = s.tasks := by cases p <;> rfl
@[simp] theorem State.modPort_lastPort (p : Port) (f : PortSt → PortSt) : (s.modPort p f).lastPort = s.lastPort := by cases p <;> rfl
@[simp] theorem State.modPort_shells (p : Port) (f : PortSt → PortSt) : (s.modPort p f).shells = s.shells := by cases p <;> rfl
@[simp] theorem State.modPort_phys (p : Port) (f : PortSt → PortSt) : (s.modPort p f).phys = s.phys := by cases p <;> rfl
@[simp] theorem State.modPort_vigils (p : Port) (f : PortSt → PortSt) : (s.modPort p f).vigils = s.vigils := by cases p <;> rfl
@[simp] theorem State.modPort_inbox (p : Port) (f : PortSt → PortSt) : (s.modPort p f).inbox = s.inbox := by cases p <;> rfl
@[simp] theorem State.modPort_streams (p : Port) (f : PortSt → PortSt) : (s.modPort p f).streams = s.streams := by cases p <;> rfl
@[simp] theorem State.modPort_mem (p : Port) (f : PortSt → PortSt) : (s.modPort p f).mem = s.mem := by cases p <;> rfl
@[simp] theorem State.modPort_stackTab (p : Port) (f : PortSt → PortSt) : (s.modPort p f).stackTab = s.stackTab := by cases p <;> rfl
@[simp] theorem State.modPort_mode (p : Port) (f : PortSt → PortSt) : (s.modPort p f).mode = s.mode := by cases p <;> rfl
@[simp] theorem State.modPort_sems (p : Port) (f : PortSt → PortSt) : (s.modPort p f).sems = s.sems := by cases p <;> rfl
@[simp] theorem State.modPort_ctr (p : Port) (f : PortSt → PortSt) : (s.modPort p f).ctr = s.ctr := by cases p <;> rfl
@[simp] theorem State.modPort_ctrSince (p : Port) (f : PortSt → PortSt) : (s.modPort p f).ctrSince = s.ctrSince := by cases p <;> rfl
@[simp] theorem State.modPort_dumpLast (p : Port) (f : PortSt → PortSt) : (s.modPort p f).dumpLast = s.dumpLast := by cases p <;> rfl
@[simp] theorem State.modPort_trace (p : Port) (f : PortSt → PortSt) : (s.modPort p f).trace = s.trace := by cases p <;> rfl
@[simp] theorem State.modPort_dbg (p : Port) (f : PortSt → PortSt) : (s.modPort p f).dbg = s.dbg := by cases p <;> rfl
@[simp] theorem State.modPort_sync (p : Port) (f : PortSt → PortSt) : (s.modPort p f).sync = s.sync := by cases p <;> rfl
@[simp] theorem State.modPort_cox (p : Port) (f : PortSt → PortSt) : (s.modPort p f).cox = s.cox := by cases p <;> rfl
@[simp] theorem State.modPort_chans (p : Port) (f : PortSt → PortSt) : (s.modPort p f).chans = s.chans := by cases p <;> rfl
@[simp] theorem State.modPort_sec (p : Port) (f : PortSt → PortSt) : (s.modPort p f).sec = s.sec := by cases p <;> rfl
@[simp] theorem State.modPort_svc (p : Port) (f : PortSt → PortSt) : (s.modPort p f).svc = s.svc := by cases p <;> rfl

/-! ## `modTask` -/

@[simp] theorem State.modTask_pending (t : Nat) (f : Task → Task) : (s.modTask t f).pending = s.pending := by
  unfold State.modTask; split <;> rfl
@[simp] theorem State.modTask_clk (t : Nat) (f : Task → Task) : (s.modTask t f).clk = s.clk := by
  unfold State.modTask; split <;> rfl
@[simp] theorem State.modTask_free (t : Nat) (f : Task → Task) : (s.modTask t f).free = s.free := by
  unfold State.modTask; split <;> rfl
@[simp] theorem State.modTask_nextId (t : Nat) (f : Task → Task) : (s.modTask t f).nextId = s.nextId := by
  unfold State.modTask; split <;> rfl
@[simp] theorem State.modTask_up (t : Nat) (f : Task → Task) : (s.modTask t f).up = s.up := by
  unfold State.modTask; split <;> rfl
@[simp] theorem State.modTask_pwr (t : Nat) (f : Task → Task) : (s.modTask t f).pwr = s.pwr := by
  unfold State.modTask; split <;> rfl
@[simp] theorem State.modTask_portA (t : Nat) (f : Task → Task) : (s.modTask t f).portA = s.portA := by
  unfold State.modTask; split <;> rfl
@[simp] theorem State.modTask_portB (t : Nat) (f : Task → Task) : (s.modTask t f).portB = s.portB := by
  unfold State.modTask; split <;> rfl
@[simp] theorem State.modTask_fns (t : Nat) (f : Task → Task) : (s.modTask t f).fns = s.fns := by
  unfold State.modTask; split <;> rfl
@[simp] theorem State.modTask_rings (t : Nat) (f : Task → Task) : (s.modTask t f).rings = s.rings := by
  unfold State.modTask; split <;> rfl
@[simp] theorem State.modTask_ctxs (t : Nat) (f : Task → Task) : (s.modTask t f).ctxs = s.ctxs := by
  unfold State.modTask; split <;> rfl
@[simp] theorem State.modTask_lastPort (t : Nat) (f : Task → Task) : (s.modTask t f).lastPort = s.lastPort := by
  unfold State.modTask; split <;> rfl
@[simp] theorem State.modTask_shells (t : Nat) (f : Task → Task) : (s.modTask t f).shells = s.shells := by
  unfold State.modTask; split <;> rfl
@[simp] theorem State.modTask_phys (t : Nat) (f : Task → Task) : (s.modTask t f).phys = s.phys := by
  unfold State.modTask; split <;> rfl
@[simp] theorem State.modTask_vigils (t : Nat) (f : Task → Task) : (s.modTask t f).vigils = s.vigils := by
  unfold State.modTask; split <;> rfl
@[simp] theorem State.modTask_inbox (t : Nat) (f : Task → Task) : (s.modTask t f).inbox = s.inbox := by
  unfold State.modTask; split <;> rfl
@[simp] theorem State.modTask_streams (t : Nat) (f : Task → Task) : (s.modTask t f).streams = s.streams := by
  unfold State.modTask; split <;> rfl
@[simp] theorem State.modTask_mem (t : Nat) (f : Task → Task) : (s.modTask t f).mem = s.mem := by
  unfold State.modTask; split <;> rfl
@[simp] theorem State.modTask_stackTab (t : Nat) (f : Task → Task) : (s.modTask t f).stackTab = s.stackTab := by
  unfold State.modTask; split <;> rfl
@[simp] theorem State.modTask_mode (t : Nat) (f : Task → Task) : (s.modTask t f).mode = s.mode := by
  unfold State.modTask; split <;> rfl
@[simp] theorem State.modTask_sems (t : Nat) (f : Task → Task) : (s.modTask t f).sems = s.sems := by
  unfold State.modTask; split <;> rfl
@[simp] theorem State.modTask_ctr (t : Nat) (f : Task → Task) : (s.modTask t f).ctr = s.ctr := by
  unfold State.modTask; split <;> rfl
@[simp] theorem State.modTask_ctrSince (t : Nat) (f : Task → Task) : (s.modTask t f).ctrSince = s.ctrSince := by
  unfold State.modTask; split <;> rfl
@[simp] theorem State.modTask_dumpLast (t : Nat) (f : Task → Task) : (s.modTask t f).dumpLast = s.dumpLast := by
  unfold State.modTask; split <;> rfl
@[simp] theorem State.modTask_trace (t : Nat) (f : Task → Task) : (s.modTask t f).trace = s.trace := by
  unfold State.modTask; split <;> rfl
@[simp] theorem State.modTask_dbg (t : Nat) (f : Task → Task) : (s.modTask t f).dbg = s.dbg := by
  unfold State.modTask; split <;> rfl
@[simp] theorem State.modTask_sync (t : Nat) (f : Task → Task) : (s.modTask t f).sync = s.sync := by
  unfold State.modTask; split <;> rfl
@[simp] theorem State.modTask_cox (t : Nat) (f : Task → Task) : (s.modTask t f).cox = s.cox := by
  unfold State.modTask; split <;> rfl
@[simp] theorem State.modTask_chans (t : Nat) (f : Task → Task) : (s.modTask t f).chans = s.chans := by
  unfold State.modTask; split <;> rfl
@[simp] theorem State.modTask_sec (t : Nat) (f : Task → Task) : (s.modTask t f).sec = s.sec := by
  unfold State.modTask; split <;> rfl
@[simp] theorem State.modTask_svc (t : Nat) (f : Task → Task) : (s.modTask t f).svc = s.svc := by
  unfold State.modTask; split <;> rfl

/-! ## `withPending` -/

@[simp] theorem State.withPending_clk (q : List Instr) : (s.withPending q).clk = s.clk := rfl
@[simp] theorem State.withPending_free (q : List Instr) : (s.withPending q).free = s.free := rfl
@[simp] theorem State.withPending_nextId (q : List Instr) : (s.withPending q).nextId = s.nextId := rfl
@[simp] theorem State.withPending_up (q : List Instr) : (s.withPending q).up = s.up := rfl
@[simp] theorem State.withPending_pwr (q : List Instr) : (s.withPending q).pwr = s.pwr := rfl
@[simp] theorem State.withPending_portA (q : List Instr) : (s.withPending q).portA = s.portA := rfl
@[simp] theorem State.withPending_portB (q : List Instr) : (s.withPending q).portB = s.portB := rfl
@[simp] theorem State.withPending_fns (q : List Instr) : (s.withPending q).fns = s.fns := rfl
@[simp] theorem State.withPending_rings (q : List Instr) : (s.withPending q).rings = s.rings := rfl
@[simp] theorem State.withPending_ctxs (q : List Instr) : (s.withPending q).ctxs = s.ctxs := rfl
@[simp] theorem State.withPending_tasks (q : List Instr) : (s.withPending q).tasks = s.tasks := rfl
@[simp] theorem State.withPending_lastPort (q : List Instr) : (s.withPending q).lastPort = s.lastPort := rfl
@[simp] theorem State.withPending_shells (q : List Instr) : (s.withPending q).shells = s.shells := rfl
@[simp] theorem State.withPending_phys (q : List Instr) : (s.withPending q).phys = s.phys := rfl
@[simp] theorem State.withPending_vigils (q : List Instr) : (s.withPending q).vigils = s.vigils := rfl
@[simp] theorem State.withPending_inbox (q : List Instr) : (s.withPending q).inbox = s.inbox := rfl
@[simp] theorem State.withPending_streams (q : List Instr) : (s.withPending q).streams = s.streams := rfl
@[simp] theorem State.withPending_mem (q : List Instr) : (s.withPending q).mem = s.mem := rfl
@[simp] theorem State.withPending_stackTab (q : List Instr) : (s.withPending q).stackTab = s.stackTab := rfl
@[simp] theorem State.withPending_mode (q : List Instr) : (s.withPending q).mode = s.mode := rfl
@[simp] theorem State.withPending_sems (q : List Instr) : (s.withPending q).sems = s.sems := rfl
@[simp] theorem State.withPending_ctr (q : List Instr) : (s.withPending q).ctr = s.ctr := rfl
@[simp] theorem State.withPending_ctrSince (q : List Instr) : (s.withPending q).ctrSince = s.ctrSince := rfl
@[simp] theorem State.withPending_dumpLast (q : List Instr) : (s.withPending q).dumpLast = s.dumpLast := rfl
@[simp] theorem State.withPending_trace (q : List Instr) : (s.withPending q).trace = s.trace := rfl
@[simp] theorem State.withPending_dbg (q : List Instr) : (s.withPending q).dbg = s.dbg := rfl
@[simp] theorem State.withPending_sync (q : List Instr) : (s.withPending q).sync = s.sync := rfl
@[simp] theorem State.withPending_cox (q : List Instr) : (s.withPending q).cox = s.cox := rfl
@[simp] theorem State.withPending_chans (q : List Instr) : (s.withPending q).chans = s.chans := rfl
@[simp] theorem State.withPending_sec (q : List Instr) : (s.withPending q).sec = s.sec := rfl
@[simp] theorem State.withPending_svc (q : List Instr) : (s.withPending q).svc = s.svc := rfl
@[simp] theorem State.withPending_pending (q : List Instr) : (s.withPending q).pending = q := rfl

/-! ## Reads of a unit after a unit was changed -/

/-- The unit that was changed, and every other. -/
theorem State.modShell_shell (L : Nat) (f : Shell → Shell) (j : Nat) : (s.modShell L f).shell j = if j = L then f (s.shell L) else s.shell j := by
  by_cases h : j = L
  · subst h; simp [State.modShell, State.setShell, State.shell]
  · simp [State.modShell, State.setShell, State.shell, tget_tset_ne _ _ _ h, h]
@[simp] theorem State.modShell_shell_same (L : Nat) (f : Shell → Shell) : (s.modShell L f).shell L = f (s.shell L) := by simp [State.modShell_shell]

/-- The unit that was changed, and every other. -/
theorem State.setShell_shell (L : Nat) (x : Shell) (j : Nat) : (s.setShell L x).shell j = if j = L then x else s.shell j := by
  by_cases h : j = L
  · subst h; simp [State.setShell, State.shell]
  · simp [State.setShell, State.shell, tget_tset_ne _ _ _ h, h]
@[simp] theorem State.setShell_shell_same (L : Nat) (x : Shell) : (s.setShell L x).shell L = x := by simp [State.setShell_shell]

/-- The unit that was changed, and every other. -/
theorem State.modFn_fn (L : Nat) (f : Fn → Fn) (j : Nat) : (s.modFn L f).fn j = if j = L then f (s.fn L) else s.fn j := by
  by_cases h : j = L
  · subst h; simp [State.modFn, State.fn]
  · simp [State.modFn, State.fn, tget_tset_ne _ _ _ h, h]
@[simp] theorem State.modFn_fn_same (L : Nat) (f : Fn → Fn) : (s.modFn L f).fn L = f (s.fn L) := by simp [State.modFn_fn]

/-- The unit that was changed, and every other. -/
theorem State.modRing_ring (L : Nat) (f : Ring → Ring) (j : Nat) : (s.modRing L f).ring j = if j = L then f (s.ring L) else s.ring j := by
  by_cases h : j = L
  · subst h; simp [State.modRing, State.setRing, State.ring]
  · simp [State.modRing, State.setRing, State.ring, tget_tset_ne _ _ _ h, h]
@[simp] theorem State.modRing_ring_same (L : Nat) (f : Ring → Ring) : (s.modRing L f).ring L = f (s.ring L) := by simp [State.modRing_ring]

/-- The unit that was changed, and every other. -/
theorem State.setRing_ring (L : Nat) (x : Ring) (j : Nat) : (s.setRing L x).ring j = if j = L then x else s.ring j := by
  by_cases h : j = L
  · subst h; simp [State.setRing, State.ring]
  · simp [State.setRing, State.ring, tget_tset_ne _ _ _ h, h]
@[simp] theorem State.setRing_ring_same (L : Nat) (x : Ring) : (s.setRing L x).ring L = x := by simp [State.setRing_ring]

/-- The unit that was changed, and every other. -/
theorem State.modCtx_ctx (L : Nat) (f : Ctx → Ctx) (j : Nat) : (s.modCtx L f).ctx j = if j = L then f (s.ctx L) else s.ctx j := by
  by_cases h : j = L
  · subst h; simp [State.modCtx, State.setCtx, State.ctx]
  · simp [State.modCtx, State.setCtx, State.ctx, tget_tset_ne _ _ _ h, h]
@[simp] theorem State.modCtx_ctx_same (L : Nat) (f : Ctx → Ctx) : (s.modCtx L f).ctx L = f (s.ctx L) := by simp [State.modCtx_ctx]

/-- The unit that was changed, and every other. -/
theorem State.setCtx_ctx (L : Nat) (x : Ctx) (j : Nat) : (s.setCtx L x).ctx j = if j = L then x else s.ctx j := by
  by_cases h : j = L
  · subst h; simp [State.setCtx, State.ctx]
  · simp [State.setCtx, State.ctx, tget_tset_ne _ _ _ h, h]
@[simp] theorem State.setCtx_ctx_same (L : Nat) (x : Ctx) : (s.setCtx L x).ctx L = x := by simp [State.setCtx_ctx]

/-- The unit that was changed, and every other. -/
theorem State.modStack_stack (L : Nat) (f : Stack → Stack) (j : Nat) : (s.modStack L f).stack j = if j = L then f (s.stack L) else s.stack j := by
  by_cases h : j = L
  · subst h; simp [State.modStack, State.stack]
  · simp [State.modStack, State.stack, tget_tset_ne _ _ _ h, h]
@[simp] theorem State.modStack_stack_same (L : Nat) (f : Stack → Stack) : (s.modStack L f).stack L = f (s.stack L) := by simp [State.modStack_stack]

/-- The unit that was changed, and every other. -/
theorem State.modPhys_physOf (L : Nat) (f : Phys → Phys) (j : Nat) : (s.modPhys L f).physOf j = if j = L then f (s.physOf L) else s.physOf j := by
  by_cases h : j = L
  · subst h; simp [State.modPhys, State.physOf]
  · simp [State.modPhys, State.physOf, tget_tset_ne _ _ _ h, h]
@[simp] theorem State.modPhys_physOf_same (L : Nat) (f : Phys → Phys) : (s.modPhys L f).physOf L = f (s.physOf L) := by simp [State.modPhys_physOf]

/-- The port that was changed, and the other. -/
theorem State.modPort_port (p : Port) (f : PortSt → PortSt) (q : Port) :
    (s.modPort p f).port q = if q = p then f (s.port p) else s.port q := by
  cases p <;> cases q <;> rfl
@[simp] theorem State.modPort_port_same (p : Port) (f : PortSt → PortSt) : (s.modPort p f).port p = f (s.port p) := by
  simp [State.modPort_port]

/-- The channel that was changed, and every other. -/
theorem State.modChan_chan (c : Chan) (f : Channel → Channel) (d : Chan) :
    (s.modChan c f).chan d = if chanKey d = chanKey c then f (s.chan c) else s.chan d := by
  by_cases h : chanKey d = chanKey c
  · simp [State.modChan, State.chan, h]
  · simp [State.modChan, State.chan, tget_tset_ne _ _ _ h, h]
@[simp] theorem State.modChan_chan_same (c : Chan) (f : Channel → Channel) : (s.modChan c f).chan c = f (s.chan c) := by
  simp [State.modChan_chan]

/-- A task that exists was changed, and every other is as it was. -/
theorem State.modTask_find (t : Nat) (f : Task → Task) (j : Nat) :
    tfind (s.modTask t f).tasks j = if j = t then (tfind s.tasks t).map f else tfind s.tasks j := by
  unfold State.modTask
  by_cases h : j = t
  · subst h
    split <;> simp_all [State.setTask]
  · split <;> simp_all [State.setTask, tfind_tset_ne _ _ h]

/-- A counter that was advanced saturates (R572); the others are as they were. -/
theorem State.bump_ctr (k n j : Nat) :
    tget 0 (s.bump k n).ctr j = if j = k then min (tget 0 s.ctr k + n) (ctrMax k) else tget 0 s.ctr j := by
  simp [State.bump, tget_tset]

/-! ## Accessors that an update of another unit leaves -/

@[simp] theorem State.setShell_fn_other (L : Nat) (x : Shell) (j : Nat) : (s.setShell L x).fn j = s.fn j := by simp [State.fn]
@[simp] theorem State.setShell_ring_other (L : Nat) (x : Shell) (j : Nat) : (s.setShell L x).ring j = s.ring j := by simp [State.ring]
@[simp] theorem State.setShell_ctx_other (L : Nat) (x : Shell) (j : Nat) : (s.setShell L x).ctx j = s.ctx j := by simp [State.ctx]
@[simp] theorem State.setShell_stack_other (L : Nat) (x : Shell) (j : Nat) : (s.setShell L x).stack j = s.stack j := by simp [State.stack]
@[simp] theorem State.setShell_physOf_other (L : Nat) (x : Shell) (j : Nat) : (s.setShell L x).physOf j = s.physOf j := by simp [State.physOf]
@[simp] theorem State.setShell_sem_other (L : Nat) (x : Shell) (j : Nat) : (s.setShell L x).sem j = s.sem j := by simp [State.sem]
@[simp] theorem State.setShell_port_other (L : Nat) (x : Shell) (q : Port) : (s.setShell L x).port q = s.port q := by cases q <;> simp [State.port]
@[simp] theorem State.setShell_chan_other (L : Nat) (x : Shell) (c' : Chan) : (s.setShell L x).chan c' = s.chan c' := by simp [State.chan]
@[simp] theorem State.modShell_fn_other (L : Nat) (f : Shell → Shell) (j : Nat) : (s.modShell L f).fn j = s.fn j := by simp [State.fn]
@[simp] theorem State.modShell_ring_other (L : Nat) (f : Shell → Shell) (j : Nat) : (s.modShell L f).ring j = s.ring j := by simp [State.ring]
@[simp] theorem State.modShell_ctx_other (L : Nat) (f : Shell → Shell) (j : Nat) : (s.modShell L f).ctx j = s.ctx j := by simp [State.ctx]
@[simp] theorem State.modShell_stack_other (L : Nat) (f : Shell → Shell) (j : Nat) : (s.modShell L f).stack j = s.stack j := by simp [State.stack]
@[simp] theorem State.modShell_physOf_other (L : Nat) (f : Shell → Shell) (j : Nat) : (s.modShell L f).physOf j = s.physOf j := by simp [State.physOf]
@[simp] theorem State.modShell_sem_other (L : Nat) (f : Shell → Shell) (j : Nat) : (s.modShell L f).sem j = s.sem j := by simp [State.sem]
@[simp] theorem State.modShell_port_other (L : Nat) (f : Shell → Shell) (q : Port) : (s.modShell L f).port q = s.port q := by cases q <;> simp [State.port]
@[simp] theorem State.modShell_chan_other (L : Nat) (f : Shell → Shell) (c' : Chan) : (s.modShell L f).chan c' = s.chan c' := by simp [State.chan]
@[simp] theorem State.modFn_shell_other (k : Nat) (f : Fn → Fn) (j : Nat) : (s.modFn k f).shell j = s.shell j := by simp [State.shell]
@[simp] theorem State.modFn_ring_other (k : Nat) (f : Fn → Fn) (j : Nat) : (s.modFn k f).ring j = s.ring j := by simp [State.ring]
@[simp] theorem State.modFn_ctx_other (k : Nat) (f : Fn → Fn) (j : Nat) : (s.modFn k f).ctx j = s.ctx j := by simp [State.ctx]
@[simp] theorem State.modFn_stack_other (k : Nat) (f : Fn → Fn) (j : Nat) : (s.modFn k f).stack j = s.stack j := by simp [State.stack]
@[simp] theorem State.modFn_physOf_other (k : Nat) (f : Fn → Fn) (j : Nat) : (s.modFn k f).physOf j = s.physOf j := by simp [State.physOf]
@[simp] theorem State.modFn_sem_other (k : Nat) (f : Fn → Fn) (j : Nat) : (s.modFn k f).sem j = s.sem j := by simp [State.sem]
@[simp] theorem State.modFn_port_other (k : Nat) (f : Fn → Fn) (q : Port) : (s.modFn k f).port q = s.port q := by cases q <;> simp [State.port]
@[simp] theorem State.modFn_chan_other (k : Nat) (f : Fn → Fn) (c' : Chan) : (s.modFn k f).chan c' = s.chan c' := by simp [State.chan]
@[simp] theorem State.setRing_shell_other (k : Nat) (x : Ring) (j : Nat) : (s.setRing k x).shell j = s.shell j := by simp [State.shell]
@[simp] theorem State.setRing_fn_other (k : Nat) (x : Ring) (j : Nat) : (s.setRing k x).fn j = s.fn j := by simp [State.fn]
@[simp] theorem State.setRing_ctx_other (k : Nat) (x : Ring) (j : Nat) : (s.setRing k x).ctx j = s.ctx j := by simp [State.ctx]
@[simp] theorem State.setRing_stack_other (k : Nat) (x : Ring) (j : Nat) : (s.setRing k x).stack j = s.stack j := by simp [State.stack]
@[simp] theorem State.setRing_physOf_other (k : Nat) (x : Ring) (j : Nat) : (s.setRing k x).physOf j = s.physOf j := by simp [State.physOf]
@[simp] theorem State.setRing_sem_other (k : Nat) (x : Ring) (j : Nat) : (s.setRing k x).sem j = s.sem j := by simp [State.sem]
@[simp] theorem State.setRing_port_other (k : Nat) (x : Ring) (q : Port) : (s.setRing k x).port q = s.port q := by cases q <;> simp [State.port]
@[simp] theorem State.setRing_chan_other (k : Nat) (x : Ring) (c' : Chan) : (s.setRing k x).chan c' = s.chan c' := by simp [State.chan]
@[simp] theorem State.modRing_shell_other (k : Nat) (f : Ring → Ring) (j : Nat) : (s.modRing k f).shell j = s.shell j := by simp [State.shell]
@[simp] theorem State.modRing_fn_other (k : Nat) (f : Ring → Ring) (j : Nat) : (s.modRing k f).fn j = s.fn j := by simp [State.fn]
@[simp] theorem State.modRing_ctx_other (k : Nat) (f : Ring → Ring) (j : Nat) : (s.modRing k f).ctx j = s.ctx j := by simp [State.ctx]
@[simp] theorem State.modRing_stack_other (k : Nat) (f : Ring → Ring) (j : Nat) : (s.modRing k f).stack j = s.stack j := by simp [State.stack]
@[simp] theorem State.modRing_physOf_other (k : Nat) (f : Ring → Ring) (j : Nat) : (s.modRing k f).physOf j = s.physOf j := by simp [State.physOf]
@[simp] theorem State.modRing_sem_other (k : Nat) (f : Ring → Ring) (j : Nat) : (s.modRing k f).sem j = s.sem j := by simp [State.sem]
@[simp] theorem State.modRing_port_other (k : Nat) (f : Ring → Ring) (q : Port) : (s.modRing k f).port q = s.port q := by cases q <;> simp [State.port]
@[simp] theorem State.modRing_chan_other (k : Nat) (f : Ring → Ring) (c' : Chan) : (s.modRing k f).chan c' = s.chan c' := by simp [State.chan]
@[simp] theorem State.setCtx_shell_other (c : Nat) (x : Ctx) (j : Nat) : (s.setCtx c x).shell j = s.shell j := by simp [State.shell]
@[simp] theorem State.setCtx_fn_other (c : Nat) (x : Ctx) (j : Nat) : (s.setCtx c x).fn j = s.fn j := by simp [State.fn]
@[simp] theorem State.setCtx_ring_other (c : Nat) (x : Ctx) (j : Nat) : (s.setCtx c x).ring j = s.ring j := by simp [State.ring]
@[simp] theorem State.setCtx_stack_other (c : Nat) (x : Ctx) (j : Nat) : (s.setCtx c x).stack j = s.stack j := by simp [State.stack]
@[simp] theorem State.setCtx_physOf_other (c : Nat) (x : Ctx) (j : Nat) : (s.setCtx c x).physOf j = s.physOf j := by simp [State.physOf]
@[simp] theorem State.setCtx_sem_other (c : Nat) (x : Ctx) (j : Nat) : (s.setCtx c x).sem j = s.sem j := by simp [State.sem]
@[simp] theorem State.setCtx_port_other (c : Nat) (x : Ctx) (q : Port) : (s.setCtx c x).port q = s.port q := by cases q <;> simp [State.port]
@[simp] theorem State.setCtx_chan_other (c : Nat) (x : Ctx) (c' : Chan) : (s.setCtx c x).chan c' = s.chan c' := by simp [State.chan]
@[simp] theorem State.modCtx_shell_other (c : Nat) (f : Ctx → Ctx) (j : Nat) : (s.modCtx c f).shell j = s.shell j := by simp [State.shell]
@[simp] theorem State.modCtx_fn_other (c : Nat) (f : Ctx → Ctx) (j : Nat) : (s.modCtx c f).fn j = s.fn j := by simp [State.fn]
@[simp] theorem State.modCtx_ring_other (c : Nat) (f : Ctx → Ctx) (j : Nat) : (s.modCtx c f).ring j = s.ring j := by simp [State.ring]
@[simp] theorem State.modCtx_stack_other (c : Nat) (f : Ctx → Ctx) (j : Nat) : (s.modCtx c f).stack j = s.stack j := by simp [State.stack]
@[simp] theorem State.modCtx_physOf_other (c : Nat) (f : Ctx → Ctx) (j : Nat) : (s.modCtx c f).physOf j = s.physOf j := by simp [State.physOf]
@[simp] theorem State.modCtx_sem_other (c : Nat) (f : Ctx → Ctx) (j : Nat) : (s.modCtx c f).sem j = s.sem j := by simp [State.sem]
@[simp] theorem State.modCtx_port_other (c : Nat) (f : Ctx → Ctx) (q : Port) : (s.modCtx c f).port q = s.port q := by cases q <;> simp [State.port]
@[simp] theorem State.modCtx_chan_other (c : Nat) (f : Ctx → Ctx) (c' : Chan) : (s.modCtx c f).chan c' = s.chan c' := by simp [State.chan]
@[simp] theorem State.setTask_shell_other (t : Nat) (x : Task) (j : Nat) : (s.setTask t x).shell j = s.shell j := by simp [State.shell]
@[simp] theorem State.setTask_fn_other (t : Nat) (x : Task) (j : Nat) : (s.setTask t x).fn j = s.fn j := by simp [State.fn]
@[simp] theorem State.setTask_ring_other (t : Nat) (x : Task) (j : Nat) : (s.setTask t x).ring j = s.ring j := by simp [State.ring]
@[simp] theorem State.setTask_ctx_other (t : Nat) (x : Task) (j : Nat) : (s.setTask t x).ctx j = s.ctx j := by simp [State.ctx]
@[simp] theorem State.setTask_stack_other (t : Nat) (x : Task) (j : Nat) : (s.setTask t x).stack j = s.stack j := by simp [State.stack]
@[simp] theorem State.setTask_physOf_other (t : Nat) (x : Task) (j : Nat) : (s.setTask t x).physOf j = s.physOf j := by simp [State.physOf]
@[simp] theorem State.setTask_sem_other (t : Nat) (x : Task) (j : Nat) : (s.setTask t x).sem j = s.sem j := by simp [State.sem]
@[simp] theorem State.setTask_port_other (t : Nat) (x : Task) (q : Port) : (s.setTask t x).port q = s.port q := by cases q <;> simp [State.port]
@[simp] theorem State.setTask_chan_other (t : Nat) (x : Task) (c' : Chan) : (s.setTask t x).chan c' = s.chan c' := by simp [State.chan]
@[simp] theorem State.modStack_shell_other (k : Nat) (f : Stack → Stack) (j : Nat) : (s.modStack k f).shell j = s.shell j := by simp [State.shell]
@[simp] theorem State.modStack_fn_other (k : Nat) (f : Stack → Stack) (j : Nat) : (s.modStack k f).fn j = s.fn j := by simp [State.fn]
@[simp] theorem State.modStack_ring_other (k : Nat) (f : Stack → Stack) (j : Nat) : (s.modStack k f).ring j = s.ring j := by simp [State.ring]
@[simp] theorem State.modStack_ctx_other (k : Nat) (f : Stack → Stack) (j : Nat) : (s.modStack k f).ctx j = s.ctx j := by simp [State.ctx]
@[simp] theorem State.modStack_physOf_other (k : Nat) (f : Stack → Stack) (j : Nat) : (s.modStack k f).physOf j = s.physOf j := by simp [State.physOf]
@[simp] theorem State.modStack_sem_other (k : Nat) (f : Stack → Stack) (j : Nat) : (s.modStack k f).sem j = s.sem j := by simp [State.sem]
@[simp] theorem State.modStack_port_other (k : Nat) (f : Stack → Stack) (q : Port) : (s.modStack k f).port q = s.port q := by cases q <;> simp [State.port]
@[simp] theorem State.modStack_chan_other (k : Nat) (f : Stack → Stack) (c' : Chan) : (s.modStack k f).chan c' = s.chan c' := by simp [State.chan]
@[simp] theorem State.modChan_shell_other (c : Chan) (f : Channel → Channel) (j : Nat) : (s.modChan c f).shell j = s.shell j := by simp [State.shell]
@[simp] theorem State.modChan_fn_other (c : Chan) (f : Channel → Channel) (j : Nat) : (s.modChan c f).fn j = s.fn j := by simp [State.fn]
@[simp] theorem State.modChan_ring_other (c : Chan) (f : Channel → Channel) (j : Nat) : (s.modChan c f).ring j = s.ring j := by simp [State.ring]
@[simp] theorem State.modChan_ctx_other (c : Chan) (f : Channel → Channel) (j : Nat) : (s.modChan c f).ctx j = s.ctx j := by simp [State.ctx]
@[simp] theorem State.modChan_stack_other (c : Chan) (f : Channel → Channel) (j : Nat) : (s.modChan c f).stack j = s.stack j := by simp [State.stack]
@[simp] theorem State.modChan_physOf_other (c : Chan) (f : Channel → Channel) (j : Nat) : (s.modChan c f).physOf j = s.physOf j := by simp [State.physOf]
@[simp] theorem State.modChan_sem_other (c : Chan) (f : Channel → Channel) (j : Nat) : (s.modChan c f).sem j = s.sem j := by simp [State.sem]
@[simp] theorem State.modChan_port_other (c : Chan) (f : Channel → Channel) (q : Port) : (s.modChan c f).port q = s.port q := by cases q <;> simp [State.port]
@[simp] theorem State.modPhys_shell_other (k : Nat) (f : Phys → Phys) (j : Nat) : (s.modPhys k f).shell j = s.shell j := by simp [State.shell]
@[simp] theorem State.modPhys_fn_other (k : Nat) (f : Phys → Phys) (j : Nat) : (s.modPhys k f).fn j = s.fn j := by simp [State.fn]
@[simp] theorem State.modPhys_ring_other (k : Nat) (f : Phys → Phys) (j : Nat) : (s.modPhys k f).ring j = s.ring j := by simp [State.ring]
@[simp] theorem State.modPhys_ctx_other (k : Nat) (f : Phys → Phys) (j : Nat) : (s.modPhys k f).ctx j = s.ctx j := by simp [State.ctx]
@[simp] theorem State.modPhys_stack_other (k : Nat) (f : Phys → Phys) (j : Nat) : (s.modPhys k f).stack j = s.stack j := by simp [State.stack]
@[simp] theorem State.modPhys_sem_other (k : Nat) (f : Phys → Phys) (j : Nat) : (s.modPhys k f).sem j = s.sem j := by simp [State.sem]
@[simp] theorem State.modPhys_port_other (k : Nat) (f : Phys → Phys) (q : Port) : (s.modPhys k f).port q = s.port q := by cases q <;> simp [State.port]
@[simp] theorem State.modPhys_chan_other (k : Nat) (f : Phys → Phys) (c' : Chan) : (s.modPhys k f).chan c' = s.chan c' := by simp [State.chan]
@[simp] theorem State.bump_shell_other (k n : Nat) (j : Nat) : (s.bump k n).shell j = s.shell j := by simp [State.shell]
@[simp] theorem State.bump_fn_other (k n : Nat) (j : Nat) : (s.bump k n).fn j = s.fn j := by simp [State.fn]
@[simp] theorem State.bump_ring_other (k n : Nat) (j : Nat) : (s.bump k n).ring j = s.ring j := by simp [State.ring]
@[simp] theorem State.bump_ctx_other (k n : Nat) (j : Nat) : (s.bump k n).ctx j = s.ctx j := by simp [State.ctx]
@[simp] theorem State.bump_stack_other (k n : Nat) (j : Nat) : (s.bump k n).stack j = s.stack j := by simp [State.stack]
@[simp] theorem State.bump_physOf_other (k n : Nat) (j : Nat) : (s.bump k n).physOf j = s.physOf j := by simp [State.physOf]
@[simp] theorem State.bump_sem_other (k n : Nat) (j : Nat) : (s.bump k n).sem j = s.sem j := by simp [State.sem]
@[simp] theorem State.bump_port_other (k n : Nat) (q : Port) : (s.bump k n).port q = s.port q := by cases q <;> simp [State.port]
@[simp] theorem State.bump_chan_other (k n : Nat) (c' : Chan) : (s.bump k n).chan c' = s.chan c' := by simp [State.chan]
@[simp] theorem State.modPort_shell_other (p : Port) (f : PortSt → PortSt) (j : Nat) : (s.modPort p f).shell j = s.shell j := by simp [State.shell]
@[simp] theorem State.modPort_fn_other (p : Port) (f : PortSt → PortSt) (j : Nat) : (s.modPort p f).fn j = s.fn j := by simp [State.fn]
@[simp] theorem State.modPort_ring_other (p : Port) (f : PortSt → PortSt) (j : Nat) : (s.modPort p f).ring j = s.ring j := by simp [State.ring]
@[simp] theorem State.modPort_ctx_other (p : Port) (f : PortSt → PortSt) (j : Nat) : (s.modPort p f).ctx j = s.ctx j := by simp [State.ctx]
@[simp] theorem State.modPort_stack_other (p : Port) (f : PortSt → PortSt) (j : Nat) : (s.modPort p f).stack j = s.stack j := by simp [State.stack]
@[simp] theorem State.modPort_physOf_other (p : Port) (f : PortSt → PortSt) (j : Nat) : (s.modPort p f).physOf j = s.physOf j := by simp [State.physOf]
@[simp] theorem State.modPort_sem_other (p : Port) (f : PortSt → PortSt) (j : Nat) : (s.modPort p f).sem j = s.sem j := by simp [State.sem]
@[simp] theorem State.modPort_chan_other (p : Port) (f : PortSt → PortSt) (c' : Chan) : (s.modPort p f).chan c' = s.chan c' := by simp [State.chan]
@[simp] theorem State.modTask_shell_other (t : Nat) (f : Task → Task) (j : Nat) : (s.modTask t f).shell j = s.shell j := by simp [State.shell]
@[simp] theorem State.modTask_fn_other (t : Nat) (f : Task → Task) (j : Nat) : (s.modTask t f).fn j = s.fn j := by simp [State.fn]
@[simp] theorem State.modTask_ring_other (t : Nat) (f : Task → Task) (j : Nat) : (s.modTask t f).ring j = s.ring j := by simp [State.ring]
@[simp] theorem State.modTask_ctx_other (t : Nat) (f : Task → Task) (j : Nat) : (s.modTask t f).ctx j = s.ctx j := by simp [State.ctx]
@[simp] theorem State.modTask_stack_other (t : Nat) (f : Task → Task) (j : Nat) : (s.modTask t f).stack j = s.stack j := by simp [State.stack]
@[simp] theorem State.modTask_physOf_other (t : Nat) (f : Task → Task) (j : Nat) : (s.modTask t f).physOf j = s.physOf j := by simp [State.physOf]
@[simp] theorem State.modTask_sem_other (t : Nat) (f : Task → Task) (j : Nat) : (s.modTask t f).sem j = s.sem j := by simp [State.sem]
@[simp] theorem State.modTask_port_other (t : Nat) (f : Task → Task) (q : Port) : (s.modTask t f).port q = s.port q := by cases q <;> simp [State.port]
@[simp] theorem State.modTask_chan_other (t : Nat) (f : Task → Task) (c' : Chan) : (s.modTask t f).chan c' = s.chan c' := by simp [State.chan]

end Sys2Proof.Machine
end

