-- ==== Sys2Proof/Laws/Memory.lean ====
section
/-! SUPPORT. What the operations over the memories do: what a store leaves at every address, when a read or a write passes and
what it answers then, and that each keeps the memories in their canonical form. -/

namespace Sys2Proof.Machine

open Sys2Proof.Safety

variable {s : State}

/-! ## What leaves the memories and the Shells -/

/-- The memories, the ports and the Shells are as they were. -/
structure SameMems (s t : State) : Prop where
  mem : t.mem = s.mem
  portA : t.portA = s.portA
  portB : t.portB = s.portB
  shells : t.shells = s.shells

theorem SameMems.refl (s : State) : SameMems s s := ⟨rfl, rfl, rfl, rfl⟩

theorem SameMems.trans {s t u : State} (h : SameMems s t) (g : SameMems t u) : SameMems s u :=
  ⟨g.mem.trans h.mem, g.portA.trans h.portA, g.portB.trans h.portB, g.shells.trans h.shells⟩

theorem SameMems.port {t : State} (h : SameMems s t) (p : Port) : t.port p = s.port p := by
  cases p
  · exact h.portA
  · exact h.portB

theorem SameMems.shell {t : State} (h : SameMems s t) (L : Nat) : t.shell L = s.shell L := by
  unfold State.shell
  rw [h.shells]

theorem SameMems.canonical {t : State} (h : SameMems s t) (hc : Canonical s) : Canonical t := by
  obtain ⟨h1, h2, h3, h4⟩ := hc
  exact ⟨h.mem ▸ h1, h.portA ▸ h2, h.portB ▸ h3, fun L => h.shell L ▸ h4 L⟩

theorem bump_same (k n : Nat) (s : State) : SameMems s (s.bump k n) := ⟨rfl, rfl, rfl, rfl⟩

theorem modStack_same (k : Nat) (f : Stack → Stack) (s : State) : SameMems s (s.modStack k f) := ⟨rfl, rfl, rfl, rfl⟩

theorem message_same (k : MsgClass) (a b : Node) (n : Nat) (s : State) : SameMems s (s.message k a b n) := by
  unfold State.message
  split
  · exact .refl s
  · exact bump_same _ _ s

/-- A message on the fabric moves counters alone (R575). -/
theorem exchange_same (k : MsgClass) (a b : Node) (n m : Nat) (s : State) : SameMems s (s.exchange k a b n m) :=
  (message_same k a b n s).trans (message_same ..)

theorem writeMsg_same (a b : Node) (n : Nat) (s : State) : SameMems s (s.writeMsg a b n) := exchange_same ..

theorem readMsg_same (a b : Node) (n : Nat) (s : State) : SameMems s (s.readMsg a b n) := exchange_same ..

theorem message_ctxs (k : MsgClass) (a b : Node) (n : Nat) (s : State) : (s.message k a b n).ctxs = s.ctxs := by
  unfold State.message
  split <;> rfl

theorem writeMsg_ctxs (a b : Node) (n : Nat) (s : State) : (s.writeMsg a b n).ctxs = s.ctxs := by
  unfold State.writeMsg State.exchange
  rw [message_ctxs, message_ctxs]

theorem raise_same (p : Port) (f v : Nat) (s : State) : SameMems s (raise p f v s) := ⟨rfl, rfl, rfl, rfl⟩

theorem setCause_same (p : Port) (f b : Nat) (s : State) : SameMems s (setCause p f b s) := by
  unfold setCause
  dsimp only
  split <;> exact ⟨rfl, rfl, rfl, rfl⟩

theorem setCauseBoth_same (b : Nat) (s : State) : SameMems s (setCauseBoth b s) :=
  (setCause_same .A 0 b s).trans (setCause_same ..)

theorem logEvent_same (ty sev ctx : Nat) (pl : List Nat) (s : State) : SameMems s (logEvent ty sev ctx pl s) := by
  unfold logEvent
  dsimp only
  by_cases h : s.cox.logBuf.length < logMax
  · rw [if_pos h]
    exact ⟨rfl, rfl, rfl, rfl⟩
  · rw [if_neg h]
    cases logVictim s.cox.logBuf with
    | none => exact .refl s
    | some i =>
      dsimp only
      generalize LogRec.sev _ = v
      by_cases hc : v < sev
      all_goals
        first | rw [if_pos hc] | rw [if_neg hc]
        refine SameMems.trans ?_ (setCauseBoth_same ..)
        exact ⟨rfl, rfl, rfl, rfl⟩

theorem retireFrame_same (st fr : Nat) (s : State) : SameMems s (retireFrame st fr s) := by
  unfold retireFrame
  split
  · exact .refl s
  · refine SameMems.trans (SameMems.trans ?_ (logEvent_same ..)) (setCauseBoth_same ..)
    exact ⟨rfl, rfl, rfl, rfl⟩

theorem loseChannel_same (st ch : Nat) (s : State) : SameMems s (loseChannel st ch s) :=
  (modStack_same ..).trans ((logEvent_same ..).trans (setCauseBoth_same ..))

theorem spareChannel_same (st ch : Nat) (s : State) : SameMems s (spareChannel st ch s) := by
  unfold spareChannel
  dsimp only
  split
  · exact .refl s
  · split
    · exact loseChannel_same ..
    · exact modStack_same ..

theorem rowDue_same (st A : Nat) (r : Row) (s : State) : SameMems s (rowDue st A r s) := by
  unfold rowDue
  dsimp only
  split
  · exact .refl s
  · split
    · exact .refl s
    · split
      · exact retireFrame_same ..
      · split
        · exact .refl s
        · exact modStack_same ..

theorem noteUncRead_same (st A : Nat) (s : State) : SameMems s (noteUncRead st A s) := by
  unfold noteUncRead
  dsimp only
  split
  · exact modStack_same ..
  · split
    · exact (modStack_same ..).trans (spareChannel_same ..)
    · exact modStack_same ..

theorem noteUncRow_same (st A : Nat) (s : State) : SameMems s (noteUncRow st A s) :=
  (modStack_same ..).trans (rowDue_same ..)

theorem noteUnc_same (st : Nat) (e : Nat × LineErr) (s : State) : SameMems s (noteUnc st e s) := by
  unfold noteUnc
  dsimp only
  split
  · exact (modStack_same ..).trans (noteUncRead_same ..)
  · exact ((modStack_same ..).trans (noteUncRead_same ..)).trans (noteUncRow_same ..)

theorem noteCorrRow_same (st A : Nat) (s : State) : SameMems s (noteCorrRow st A s) := by
  unfold noteCorrRow
  dsimp only
  refine SameMems.trans ?_ (rowDue_same ..)
  split
  · refine SameMems.trans ?_ (spareChannel_same ..)
    exact ⟨rfl, rfl, rfl, rfl⟩
  · exact ⟨rfl, rfl, rfl, rfl⟩

theorem mergeMark_same (st line : Nat) (s : State) : SameMems s (mergeMark st line s) := by
  unfold mergeMark
  split
  · split
    · exact ((bump_same ..).trans (modStack_same ..)).trans (noteCorrRow_same ..)
    · exact .refl s
  · exact .refl s

theorem touchRow_same (pa : Nat) (s : State) : SameMems s (touchRow pa s) := by
  unfold touchRow
  dsimp only
  refine SameMems.trans (SameMems.trans ?_ (bump_same ..)) (modStack_same ..)
  unfold catchUp
  dsimp only
  split
  · exact .refl s
  · exact (bump_same ..).trans (modStack_same ..)

/-! ## What a store leaves at every address -/

/-- The scratchpad of the Shell stored to, inside the bytes stored. -/
theorem spPut_in (L lo : Nat) (bs : List Byte) (a : Nat) (h1 : lo ≤ a) (h2 : a < lo + bs.length) :
    mget ((spPut L lo bs s).shell L).sp a = bs.getD (a - lo) 0 := by
  unfold spPut
  rw [State.modShell_shell_same]
  exact mget_mput_in _ _ _ _ h1 h2

/-- Outside the bytes stored the scratchpad reads as before (`SpKept`). -/
theorem spPut_kept (L lo : Nat) (bs : List Byte) : SpKept L lo bs.length s (spPut L lo bs s) := by
  intro a h
  unfold spPut
  rw [State.modShell_shell_same]
  exact mget_mput_out _ _ _ _ h

/-- No other Shell changes. -/
theorem spPut_others (L lo : Nat) (bs : List Byte) : OtherShells L s (spPut L lo bs s) := by
  intro j h
  unfold spPut
  rw [State.modShell_shell, if_neg h]

/-- Lines zeroed read as zero, and the rest of the scratchpad as before (R189). -/
theorem zeroLines_sp (L line n a : Nat) :
    mget ((zeroLines L line n s).shell L).sp a =
      if 72 * line ≤ a ∧ a < 72 * line + 72 * n then 0 else mget (s.shell L).sp a := by
  unfold zeroLines
  rw [State.modShell_shell_same]
  exact mget_mzero _ _ _ _

/-- Host memory inside the bytes stored. -/
theorem hostPut_in (ag : Node) (p : Port) (lo : Nat) (bs : List Byte) (a : Nat) (h1 : lo ≤ a) (h2 : a < lo + bs.length) :
    mget ((hostPut ag p lo bs s).port p).host a = bs.getD (a - lo) 0 := by
  unfold hostPut
  rw [State.bump_port_other, State.modPort_port_same]
  exact mget_mput_in _ _ _ _ h1 h2

/-- Host memory outside the bytes stored. -/
theorem hostPut_out (ag : Node) (p : Port) (lo : Nat) (bs : List Byte) (a : Nat) (h : a < lo ∨ lo + bs.length ≤ a) :
    mget ((hostPut ag p lo bs s).port p).host a = mget (s.port p).host a := by
  unfold hostPut
  rw [State.bump_port_other, State.modPort_port_same, ← (writeMsg_same ag .iod bs.length s).port p]
  exact mget_mput_out _ _ _ _ h

/-! ## When a read or a write passes -/

/-- A read of whole lines none of which is marked answers them and changes nothing (R194). -/
theorem spRead_go {L line n : Nat} (h : markedIn (s.shell L) line n = []) :
    (spRead L line n).go s = (.ok (mslice (s.shell L).sp (72 * line) (72 * n)), s) := by
  unfold spRead
  rw [Act.go_bind_of (Act.go_get s), h]
  rfl

/-- What a partial write counts before it corrects the lines it reads (R194). -/
def partialCorr (L lo n : Nat) (s : State) : State :=
  ((partialMarks (s.shell L) lo n).filter fun e => lineClass (s.shell L) e = .corr).foldl (fun s e => countCorr L e.1 s) s

/-- A write passes unless it covers an uncorrectable line in part (R194). -/
theorem spWrite_go (L lo : Nat) (bs : List Byte) :
    (spWrite L lo bs).go s = match partialUnc (s.shell L) lo bs.length with
      | some l => (.error { code := 0x31, detail := spAddr L l }, s.bump (shellCtr L 85))
      | none => (.ok (), spPut L lo bs (partialCorr L lo bs.length s)) := by
  unfold spWrite
  rw [Act.go_bind_of (Act.go_get s)]
  cases partialUnc (s.shell L) lo bs.length <;> rfl

/-- Where no line is marked a write passes and stores its bytes (R194). -/
theorem spWrite_clean {L lo : Nat} {bs : List Byte} (h : (s.shell L).lineErr = []) :
    (spWrite L lo bs).go s = (.ok (), spPut L lo bs s) := by
  rw [spWrite_go]
  unfold partialUnc partialCorr partialMarks
  rw [h]
  rfl

/-- A write inside one line of stacked memory: to a chunk out of service, in part to an uncorrectable line, or taken into the
write-combining buffer (R400, R402, R408). -/
theorem bufferLine_go (pa : Nat) (bs : List Byte) :
    (bufferLine pa bs).go s =
      if outOfService s (256 * (pa / 256)) = true then
        (.error { code := 0x30, detail := 64 * (pa / 64) }, s.bump (stackCtr (stackOf pa) 13))
      else match partialMark s pa bs.length with
        | some m =>
          (.error { code := 0x30, detail := 64 * (pa / 64) }, noteUnc (stackOf pa) m (s.bump (stackCtr (stackOf pa) 13)))
        | none => (.ok (), (takeLine pa bs s).bump (stackCtr (stackOf pa) 3)) := by
  unfold bufferLine
  rw [Act.go_bind_of (Act.go_get s)]
  by_cases h : outOfService s (256 * (pa / 256)) = true
  · simp only [if_pos h]
    rfl
  · simp only [if_neg h]
    cases partialMark s pa bs.length <;> rfl

/-- A store to stacked memory: beyond the memory, or line by line (R366, R408). -/
theorem stackStore_go (pa : Nat) (bs : List Byte) :
    (stackStore pa bs).go s =
      if physMax < pa + bs.length then (.error { code := 0x10, detail := pa }, s)
      else Act.go ((pieces 64 pa bs.length).forM fun z => bufferLine z.1 ((bs.drop (z.1 - pa)).take z.2)) s := by
  unfold stackStore
  by_cases h : physMax < pa + bs.length
  · simp only [if_pos h]
    rfl
  · simp only [if_neg h]

/-- The bytes of one page of stacked memory, outside every accumulate window, are stored as one piece. -/
theorem writeMem_onePage {ag : Node} {c va n pa : Nat} {bs : List Byte} {u : State} (hl : bs.length = n)
    (hx : (xlateAll ag c 1 va n true).go s = (.ok [(pa, n)], u)) (ha : accWindow u pa = none) :
    (writeMem ag c 1 va bs).go s = (stackStore pa bs).go (u.writeMsg ag (.stack (stackOf pa)) n) := by
  subst hl
  unfold writeMem
  rw [Act.go_bind_of hx]
  have hp : partsOf [(pa, bs.length)] bs = [(pa, bs)] := by simp [partsOf]
  unfold writePieces
  rw [if_pos rfl, hp]
  unfold storeParts
  rw [Act.go_bind_of (Act.go_upd _ u), Act.go_bind_of (Act.go_get _)]
  have hw : accWindow (u.writeMsg ag (.stack (stackOf pa)) bs.length) pa = none := by
    unfold accWindow
    rw [writeMsg_ctxs]
    exact ha
  have hr : accRuns (u.writeMsg ag (.stack (stackOf pa)) bs.length) [(pa, bs)] = [(none, pa, bs)] := by
    unfold accRuns
    simp only [List.foldr_cons, List.foldr_nil]
    rw [hw]
  show Act.go ((accRuns (u.writeMsg ag (.stack (stackOf pa)) bs.length) [(pa, bs)]).forM _) _ = _
  rw [hr, Act.go_forM_cons]
  show (match (stackStore pa bs).go (u.writeMsg ag (.stack (stackOf pa)) bs.length) with
    | (.ok (), w) => Act.go ([].forM _) w
    | (.error e, w) => (.error e, w)) = _
  cases (stackStore pa bs).go (u.writeMsg ag (.stack (stackOf pa)) bs.length) with
  | mk r w => cases r <;> rfl

/-! ## A store on sound stacks goes through -/

/-- A stack with every channel in its place and neither marked lines nor retired frames. -/
def Sound (s : State) : Prop := ∀ k, (s.stack k).lineErr = [] ∧ (s.stack k).chmap = [] ∧ (s.stack k).acked = []

theorem Sound.modStack {k : Nat} {f : Stack → Stack} (h : Sound s)
    (hf : (f (s.stack k)).lineErr = [] ∧ (f (s.stack k)).chmap = [] ∧ (f (s.stack k)).acked = []) :
    Sound (s.modStack k f) := fun j => by
  unfold State.stack State.modStack
  rw [tget_tset]
  split
  · exact hf
  · exact h j

theorem Sound.catchUp {st k : Nat} (h : Sound s) : Sound (catchUp st k s) := by
  unfold Machine.catchUp
  dsimp only
  split
  · exact h
  · exact Sound.modStack (s := s.bump _ _) h (h st)

theorem Sound.touchRow {pa : Nat} (h : Sound s) : Sound (touchRow pa s) := by
  unfold Machine.touchRow
  dsimp only
  have hc : Sound (Machine.catchUp (stackOf pa) (16 * chanOf (stackOff pa) + bankOf (stackOff pa)) s) := h.catchUp
  exact Sound.modStack (s := State.bump _ _) hc (hc (stackOf pa))

theorem Sound.retireEntry {st : Nat} {e : WEntry} (h : Sound s) : Sound (retireEntry st e s) := by
  have h1 : Sound (s.modStack st fun x => { x with wcb := x.wcb.filter fun y => y.line ≠ e.line }) := h.modStack (h st)
  have clear : ∀ u, Sound u → Sound (Machine.touchRow (64 * e.line)
      { (u.modStack st fun x => { x with lineErr := tdel x.lineErr (stackOff (64 * e.line) / 64) }) with
        mem := mputMasked u.mem (64 * e.line) e.mask.toNat e.bytes }) := fun u hu => by
    refine Sound.touchRow fun k => Sound.modStack (s := u) (k := st)
      (f := fun x => { x with lineErr := tdel x.lineErr (stackOff (64 * e.line) / 64) }) hu ?_ k
    exact ⟨by simp only [(hu st).1]; rfl, (hu st).2.1, (hu st).2.2⟩
  have merge : ∀ u l, Sound u → mergeMark st l u = u ∧ uncAt (u.stack st) l = none := fun u l hu => by
    unfold mergeMark uncAt
    rw [(hu st).1]
    exact ⟨rfl, rfl⟩
  unfold Machine.retireEntry
  dsimp only
  split
  · exact clear _ h1
  · obtain ⟨hm, hu⟩ := merge ((s.modStack st fun x => { x with wcb := x.wcb.filter fun y => y.line ≠ e.line }).bump
      (stackCtr st 4)) (stackOff (64 * e.line) / 64) h1
    rw [hm, hu]
    exact clear _ h1

theorem Sound.makeRoom {st : Nat} (h : Sound s) : Sound (makeRoom st s) := by
  unfold Machine.makeRoom
  split
  · exact h
  · split
    · exact h.retireEntry
    · exact h

theorem Sound.takeLine {pa : Nat} {bs : List Byte} (h : Sound s) : Sound (takeLine pa bs s) := by
  have put : ∀ u, Sound u → ∀ f : Stack → Stack,
      (∀ x : Stack, x.lineErr = [] → (f x).lineErr = [] ∧ (f x).chmap = x.chmap ∧ (f x).acked = x.acked) →
      Sound (u.modStack (stackOf pa) f) := fun u hu f hf => by
    obtain ⟨h1, h2, h3⟩ := hf _ (hu (stackOf pa)).1
    exact hu.modStack ⟨h1, h2.trans (hu _).2.1, h3.trans (hu _).2.2⟩
  unfold Machine.takeLine
  dsimp only
  refine put _ ?_ _ fun x hx => ?_
  · split
    · exact h
    · exact h.makeRoom
  · by_cases hl : bs.length = 64
    · simp only [if_pos hl]
      split <;> exact ⟨by simp only [hx]; rfl, rfl, rfl⟩
    · simp only [if_neg hl]
      split <;> exact ⟨hx, rfl, rfl⟩

theorem Sound.bufferLine {pa : Nat} {bs : List Byte} (h : Sound s) :
    ∃ u, (bufferLine pa bs).go s = (.ok (), u) ∧ Sound u := by
  have ho : ¬ outOfService s (256 * (pa / 256)) = true := by
    unfold outOfService physChan
    dsimp only
    rw [(h _).2.1, (h _).2.2]
    have : chanOf (stackOff (256 * (pa / 256))) < lostChan :=
      Nat.lt_of_lt_of_le (m := 64)
        (Nat.xor_lt_two_pow (n := 6) (Nat.xor_lt_two_pow (n := 6) (Nat.mod_lt _ (by decide)) (Nat.mod_lt _ (by decide)))
          (Nat.mod_lt _ (by decide))) (by decide)
    rw [show ∀ n : Nat, (tfind ([] : Tab Nat) n).getD n = n from fun _ => rfl, decide_eq_false (Nat.ne_of_lt this)]
    exact Bool.false_ne_true
  have hm : partialMark s pa bs.length = none := by
    unfold partialMark marksIn
    dsimp only
    rw [(h _).1]
    rfl
  rw [bufferLine_go, if_neg ho, hm]
  exact ⟨_, rfl, fun k => h.takeLine k⟩

theorem Sound.bufferLines (l : List (Nat × Nat)) (f : Nat × Nat → List Byte) :
    ∀ {s}, Sound s → ∃ u, Act.go (l.forM fun z => Machine.bufferLine z.1 (f z)) s = (.ok (), u) := by
  induction l with
  | nil => exact fun h => ⟨_, rfl⟩
  | cons z r ih =>
    intro s h
    obtain ⟨u, hu, hs⟩ := h.bufferLine (pa := z.1) (bs := f z)
    rw [Act.go_forM_cons, hu]
    exact ih hs

/-- Where the stacks are sound, a store inside the memory goes through, whatever its bytes. -/
theorem Sound.stackStore {pa : Nat} {bs : List Byte} (h : Sound s) (hp : pa + bs.length ≤ physMax) :
    ∃ u, (stackStore pa bs).go s = (.ok (), u) := by
  rw [stackStore_go, if_neg (Nat.not_lt.mpr hp)]
  exact Sound.bufferLines _ _ h

/-! ## The canonical form is kept -/

/-- A change of one Shell whose scratchpad stays canonical. -/
theorem canonical_modShell {L : Nat} {f : Shell → Shell} (h : Canonical s)
    (hf : memWf (s.shell L).sp = true → memWf (f (s.shell L)).sp = true) : Canonical (s.modShell L f) := by
  obtain ⟨h1, h2, h3, h4⟩ := h
  refine ⟨h1, h2, h3, fun j => ?_⟩
  rw [State.modShell_shell]
  split
  · exact hf (h4 L)
  · exact h4 j

theorem canonical_spPut (L lo : Nat) (bs : List Byte) (h : Canonical s) : Canonical (spPut L lo bs s) :=
  canonical_modShell h fun hw => memWf_mput _ _ _ hw

theorem canonical_zeroLines (L line n : Nat) (h : Canonical s) : Canonical (zeroLines L line n s) :=
  canonical_modShell h fun hw => memWf_mzero _ _ _ hw

theorem canonical_cacheFill (L : Nat) (t : Tag) (bs : List Byte) (h : Canonical s) : Canonical (cacheFill L t bs s) :=
  canonical_modShell h fun hw => memWf_mput _ _ _ hw

theorem canonical_hostPut (ag : Node) (p : Port) (a : Nat) (bs : List Byte) (h : Canonical s) :
    Canonical (hostPut ag p a bs s) := by
  obtain ⟨h1, h2, h3, h4⟩ := (writeMsg_same ag .iod bs.length s).canonical h
  cases p
  · exact ⟨h1, memWf_mput _ _ _ h2, h3, h4⟩
  · exact ⟨h1, h2, memWf_mput _ _ _ h3, h4⟩

theorem canonical_bump (k n : Nat) (h : Canonical s) : Canonical (s.bump k n) := h

/-- Corrected errors counted on the way leave the memories. -/
theorem partialCorr_same (L lo n : Nat) (s : State) : SameMems s (partialCorr L lo n s) := by
  unfold partialCorr
  generalize (partialMarks (s.shell L) lo n).filter _ = l
  induction l generalizing s with
  | nil => exact .refl s
  | cons e l ih =>
    rw [List.foldl_cons]
    refine SameMems.trans ?_ (ih (s := countCorr L e.1 s))
    exact ⟨rfl, rfl, rfl, rfl⟩

/-- A write of a scratchpad keeps the canonical form, whatever its outcome. -/
theorem keeps_spWrite (L lo : Nat) (bs : List Byte) : Act.Keeps Canonical (spWrite L lo bs) := by
  intro s h
  rw [spWrite_go]
  split
  · exact canonical_bump _ _ h
  · exact canonical_spPut _ _ _ ((partialCorr_same ..).canonical h)

/-- A merge under a mask keeps the canonical form, whatever its outcome. -/
theorem keeps_spMerge (L line mask v : Nat) : Act.Keeps Canonical (spMerge L line mask v) := by
  unfold spMerge
  refine Act.keeps_get_bind fun s h => ?_
  split
  · exact canonical_spPut _ _ _ h
  · dsimp only
    split
    · exact canonical_bump _ _ h
    · exact canonical_modShell h fun hw => memWf_mput _ _ _ hw
    · exact canonical_modShell h fun hw => memWf_mput _ _ _ hw

/-- An entry of the write-combining buffer that retires keeps the canonical form. -/
theorem canonical_retireEntry (st : Nat) (e : WEntry) (h : Canonical s) : Canonical (retireEntry st e s) := by
  have put : ∀ u, Canonical u → Canonical
      (touchRow (64 * e.line) { u with mem := mputMasked u.mem (64 * e.line) e.mask.toNat e.bytes }) := fun u hu => by
    refine (touchRow_same ..).canonical ?_
    obtain ⟨h1, h2, h3, h4⟩ := hu
    exact ⟨memWf_mputMasked _ _ _ _ h1, h2, h3, h4⟩
  unfold retireEntry
  dsimp only
  split
  · exact put _ (((modStack_same ..).trans (modStack_same ..)).canonical h)
  · have hm := (((modStack_same st (fun x => { x with wcb := x.wcb.filter fun y => y.line ≠ e.line }) s).trans
      (bump_same (stackCtr st 4) 1 _)).trans (mergeMark_same st (stackOff (64 * e.line) / 64) _)).canonical h
    split
    · exact ((bump_same ..).trans (noteUnc_same ..)).canonical hm
    · exact put _ ((modStack_same ..).canonical hm)

theorem canonical_makeRoom (st : Nat) (h : Canonical s) : Canonical (makeRoom st s) := by
  unfold makeRoom
  split
  · exact h
  · split
    · exact canonical_retireEntry _ _ h
    · exact h

/-- A line taken into the write-combining buffer keeps the canonical form. -/
theorem canonical_takeLine (pa : Nat) (bs : List Byte) (h : Canonical s) : Canonical (takeLine pa bs s) := by
  unfold takeLine
  dsimp only
  refine (modStack_same ..).canonical ?_
  split
  · exact h
  · exact canonical_makeRoom _ h

theorem keeps_bufferLine (pa : Nat) (bs : List Byte) : Act.Keeps Canonical (bufferLine pa bs) := by
  intro s h
  rw [bufferLine_go]
  split
  · exact canonical_bump _ _ h
  · split
    · exact ((bump_same ..).trans (noteUnc_same ..)).canonical h
    · exact canonical_bump _ _ (canonical_takeLine _ _ h)

/-- A store to stacked memory keeps the canonical form, whatever its outcome. -/
theorem keeps_stackStore (pa : Nat) (bs : List Byte) : Act.Keeps Canonical (stackStore pa bs) := by
  intro s h
  rw [stackStore_go]
  split
  · exact h
  · exact Act.keeps_forM (fun z _ => keeps_bufferLine _ _) s h

end Sys2Proof.Machine
end

