-- ==== Sys2Proof/WellFormed.lean ====
section
/-! DEFINITION. Which commands are well formed: the limits the spec sets on what a sender can say. `exec` does not
lean on them; a statement that needs one names it. -/

namespace Sys2Proof

/-- A channel exists: only a PF has a secure page (20_register_map R621, R636). -/
def Chan.wf : Chan → Bool
  | .fn _ f secure => !secure || f == 0
  | .bmc _ => true
  | .uart => true

/-- An access names at least one byte. -/
def Access.wf : Access → Bool
  | .read n => 0 < n
  | .write bs => !bs.isEmpty

/-- A partner offers a width and a rate that exist (10_host_interface_and_queues R317). -/
def Partner.wf (o : Partner) : Bool := 0 < o.width && o.width ≤ 16 && o.rate ≤ 2

/-- A big-number request stays inside the 4 KiB staging buffer (16_security_engines R549, R557). -/
def PkReq.wf (q : PkReq) : Bool := q.src + q.len ≤ 4096 && q.dst ≤ 4096

/-- The published quantities name the 16 regulators (15_management_and_live_service R499). -/
def Readings.wf (x : Readings) : Bool := x.regs.length == 16

/-- A die carries 48 hotspot sensors and the IOD 8 (14_power_supply_thermal R476). -/
def DieReadings.wf (x : DieReadings) : Bool := x.die0.length == 48 && x.die1.length == 48 && x.iod.length == 8

/-- The device physical address names memory (12_stacked_memory R399). -/
def physOk (addr : Nat) : Bool := addr < 2 ^ 38

/-- Well-formed commands. Every constructor is named. -/
def Instr.wf : Instr → Bool
  | .linkTraining _ o => o.wf
  | .hostMemoryAccess _ a => physOk a.addr && a.acc.wf
  | .mailboxGo c => c.wf
  | .mailboxAbort c => c.wf
  | .inboundWordWrite c _ => c.wf
  | .outboundWordRelease c => c.wf
  | .inboundWordTaken c => c.wf
  | .longOperationEnd c => c.wf
  | .status c => c.wf
  | .sensorRead c => c.wf
  | .logRead c _ => c.wf
  | .cfgRead c _ => c.wf
  | .cfgWrite c _ => c.wf
  | .fwStage c => c.wf
  | .fwVerify c => c.wf
  | .fwActivate c => c.wf
  | .fwCommit c => c.wf
  | .shellDrain c _ _ => c.wf
  | .shellRejoin c _ => c.wf
  | .unitReset c _ => c.wf
  | .portReset c _ => c.wf
  | .calibRun c => c.wf
  | .stageWrite c => c.wf
  | .stageRead c off n => c.wf && off + n ≤ 4096
  | .ksInfo c _ => c.wf
  | .ksImport c _ _ => c.wf
  | .ksErase c _ => c.wf
  | .ksRoll c _ _ => c.wf
  | .pkRun c q => c.wf && q.wf
  | .attest c _ => c.wf
  | .idRead c => c.wf
  | .smbBlockWrite _ bs => 0 < bs.length && bs.length ≤ 255
  | .smbBlockRead _ n => 0 < n && n ≤ 255
  | .uartFrame b _ => 16 ≤ b.length && b.length ≤ 1024
  | .sensorSnapshot x => x.wf
  | .dieSensorRead x => x.wf
  | .stackRead _ a n => physOk a && 0 < n
  | .stackWrite _ a bs => physOk a && !bs.isEmpty
  | .accumulateWrite _ a bs => physOk a && !bs.isEmpty
  | .windowAccess q => q.acc.wf
  | .apertureAccess _ _ _ _ a => a.wf
  | .controllerInterval x => x.demand.length == 64
  | .energyCharge x => x.shells.length == 64
  | .nop _ _ => true
  | .endStream _ _ => true
  | .loop _ _ => true
  | .lend _ _ => true
  | .lset _ _ => true
  | .hint _ _ => true
  | .ptest _ _ => true
  | .skip _ _ => true
  | .muladd _ _ => true
  | .mul _ _ => true
  | .add _ _ => true
  | .sub _ _ => true
  | .neg _ _ => true
  | .mov _ _ => true
  | .ntt _ _ => true
  | .intt _ _ => true
  | .auto _ _ => true
  | .bconv _ _ => true
  | .chainSet _ _ => true
  | .chainDrop _ _ => true
  | .keyInstall _ _ => true
  | .keyDrop _ _ => true
  | .keyOpen _ _ => true
  | .keyPin _ _ => true
  | .kip _ _ => true
  | .keyClose _ _ => true
  | .hadd _ _ => true
  | .hsub _ _ => true
  | .hneg _ _ => true
  | .hmulc _ _ => true
  | .hmulp _ _ => true
  | .hmul _ _ => true
  | .relin _ _ => true
  | .rotate _ _ => true
  | .kswitch _ _ => true
  | .rescale _ _ => true
  | .lvldrop _ _ => true
  | .boot _ _ => true
  | .sadd _ _ => true
  | .ssub _ _ => true
  | .sneg _ _ => true
  | .smulc _ _ => true
  | .smulp _ _ => true
  | .smul _ _ => true
  | .sbeaver _ _ => true
  | .vload _ _ => true
  | .vstore _ _ => true
  | .vadd _ _ => true
  | .vsub _ _ => true
  | .vmul _ _ => true
  | .vfma _ _ => true
  | .vmax _ _ => true
  | .vmin _ _ => true
  | .vneg _ _ => true
  | .vabs _ _ => true
  | .vcvt _ _ => true
  | .vred _ _ => true
  | .vdot _ _ => true
  | .vupd _ _ => true
  | .vseed _ _ => true
  | .vmode _ _ => true
  | .encode _ _ => true
  | .tcopy _ _ => true
  | .tperm _ _ => true
  | .tdescCreate _ _ => true
  | .tdescFree _ _ => true
  | .scacheInv _ _ => true
  | .winOpen _ _ => true
  | .winClose _ _ => true
  | .catch _ _ => true
  | .scnt _ _ => true
  | .swait _ _ => true
  | .vigil _ _ => true
  | .vigilDrop _ _ => true
  | .strokeCoreStart _ => true
  | .streamFetchBlock _ _ => true
  | .asyncCopySignal _ _ _ => true
  | .releaseTakesEffect _ => true
  | .syncCounterUpdate _ _ => true
  | .vigilFire _ _ => true
  | .stallReport _ => true
  | .keyStreamDeliveryStart _ _ => true
  | .keyPairDelivery _ _ => true
  | .expanderSegment _ _ _ _ _ => true
  | .keyImageWhole _ _ => true
  | .bootGroupStart _ => true
  | .streamEnd _ => true
  | .shellEndOfTask _ => true
  | .preemptRequest _ => true
  | .taskYield _ => true
  | .taskResume _ => true
  | .doorbellSnoop _ _ _ => true
  | .doorbellPoll _ => true
  | .doorbellLineRead _ _ _ => true
  | .descriptorFetch _ _ _ => true
  | .taskAdmit => true
  | .nopTaskComplete _ => true
  | .loadTask _ => true
  | .completionEntryWrite _ => true
  | .coalesceTimer _ _ _ => true
  | .linkDown _ => true
  | .functionLevelReset _ _ => true
  | .atsInvalidation _ _ => true
  | .perstAssert _ _ => true
  | .perstDeassert _ => true
  | .ringEnable _ _ _ => true
  | .ringDisable _ _ _ => true
  | .ctxCreate _ _ _ => true
  | .ctxDestroy _ _ _ => true
  | .ctxTlbInvalidate _ _ _ => true
  | .taskAbortControl _ _ _ _ => true
  | .quotaWrite _ _ _ _ => true
  | .semaphoreClaim _ _ _ _ => true
  | .semaphoreRelease _ _ _ => true
  | .semaphoreLinkTimeout _ => true
  | .fixedModeRequest _ _ => true
  | .freeModeRequest _ _ => true
  | .modeChange => true
  | .coldResetRequest _ _ => true
  | .warmResetRequest _ _ => true
  | .recoveryRelease _ _ => true
  | .counterDump _ _ _ => true
  | .almanacSet _ _ _ => true
  | .launchGateArm _ _ _ => true
  | .launchGateFire _ _ => true
  | .frameRetirementAck _ _ _ => true
  | .regionEntryWrite _ _ _ _ _ => true
  | .cacheSizeWrite _ _ _ _ => true
  | .cacheSizeApply _ => true
  | .memoryWindowEnable _ _ _ => true
  | .memoryWindowDisable _ _ _ => true
  | .memoryWindowCloseDone _ _ => true
  | .peerTableWrite _ _ _ _ => true
  | .debugSetCounter _ _ => true
  | .debugForceArrival _ _ => true
  | .debugForceGeneration _ _ => true
  | .debugFireVigil _ _ => true
  | .debugDropVigil _ _ => true
  | .traceMark _ _ => true
  | .taskFreeze _ _ => true
  | .freezeRelease _ _ => true
  | .traceDisable _ _ => true
  | .traceRecordAccept _ => true
  | .registerWrite _ _ _ _ _ => true
  | .fwActivateRevert => true
  | .shellDrainProceed _ _ => true
  | .unitResetTimeout _ _ => true
  | .smbStatusByte _ => true
  | .smbSensorBlockRead _ => true
  | .smbSelectChannel _ _ => true
  | .smbControlAccess _ _ => true
  | .uartAbortFrame => true
  | .uartSilenceTimeout => true
  | .jtagBypass _ => true
  | .jtagIdcode => true
  | .jtagSamplePreload _ _ => true
  | .jtagExtest _ => true
  | .coxWatchdog _ => true
  | .managementPass => true
  | .logFlush => true
  | .calibrationDaily => true
  | .spareSelfTest _ => true
  | .wcbRetire _ _ => true
  | .wcbPartialTimeout _ _ => true
  | .bankRefresh _ _ _ => true
  | .channelRetrain _ _ => true
  | .marginRetrain _ _ _ => true
  | .stackPatrol _ => true
  | .channelCopyDone _ _ => true
  | .rowRepair _ => true
  | .stackTempReading _ _ => true
  | .hostAccessHoldTimeout _ => true
  | .scratchPatrol _ => true
  | .correctedWriteback _ _ => true
  | .fenceLanding _ _ _ _ => true
  | .sampledCheck _ _ => true
  | .domainGuardResponse _ => true
  | .syncFrameSend => true
  | .syncFrameReceive _ _ _ => true
  | .followerUnlock => true
  | .syncMeasure _ _ => true
  | .refclkLoss _ => true
  | .feedFailure _ _ => true
  | .feedOvervoltage _ _ => true
  | .feedReconnect _ _ => true
  | .reverseCurrent _ => true
  | .auxLoss _ => true
  | .bubbleFrameBoundary _ => true
  | .meterScale _ _ => true
  | .rampLimiterTick _ => true
  | .preRampStart => true
  | .preRampTimeout => true
  | .fastHintEnd _ => true
  | .coolantRead _ => true
  | .stageEntry _ => true
  | .stageExit _ => true
  | .s3ExitDone => true
  | .fatalError _ => true
  | .coldStart _ _ => true
  | .firmwareBoot => true
  | .recordAuthentication => true
  | .mainDomainStart => true
  | .memoryTrainingDone _ => true
  | .shellMapBuild _ => true
  | .feedApplied _ _ => true
  | .referenceClockReturn _ => true
  | .hotReset _ => true
  | .trst _ => true
  | .correctedSummary => true

end Sys2Proof
end

