-- ==== Sys2Proof/Tests/Slice0.lean ====
section
/-! SUPPORT. The model's own tests: terms that `Instr.wf` refuses, single steps on small states, and for every statement of
Obligations.lean a state and operands that meet its hypotheses. -/

namespace Sys2Proof.Tests

set_option linter.unusedVariables false
set_option Elab.async false

open Sys2Proof.Machine Sys2Proof.Safety

/-! ## Small states -/

/-- A native command by its control bits, its immediate and its operand words. -/
def cmd (ctl : Nat) (imm : Nat := 0) (opa : Nat := 0) (opb : Nat := 0) (opc : Nat := 0) (form : Nat := 0) : Cmd :=
  { form := BitVec.ofNat 2 form, adv := 0, rsv := 0, ctl := BitVec.ofNat 16 ctl, imm := BitVec.ofNat 32 imm,
    opa := BitVec.ofNat 64 opa, opb := BitVec.ofNat 64 opb, opc := BitVec.ofNat 64 opc }

/-- Two address fields of an operand word. -/
def two (a b : Nat) : Nat := a + 2 ^ 24 * b

/-- A chain of two moduli with q ≡ 1 mod 2^13 and one more for key switching. -/
def ch0 : Chain :=
  { maxLogN := 12, special := 1, tol := 1, mods := [mkModulus 1073153 869188, mkModulus 1097729 693469, mkModulus 1130497 302407], reg := 1 }

/-- The first ring of port A's PF. -/
def ref0 : TaskRef := { port := .A, fn := 0, ring := 0, index := 0 }

/-- A task of context 1 that runs on Shell 0. -/
def t0 : Task :=
  { ref := ref0, ctx := 1, kind := 1, cls := false, prio := 0, int := false, tctx := 0, tag := 0, shells := 1, prog := 0,
    pspace := 1, seed := 5, args := [], regs := [], save := 0, st := .running, tState := 0, tAdmit := 0, yields := 0,
    frozen := false, fault := none, snap := [(0, ch0)], started := 1, ended := 0, reported := 0, lines := [], saved := [],
    ranSince := 0, energyNj := 0, exact := true, fixedProg := false, stalled := false, bootRun := false, preReq := false,
    gate := none, s3Held := false, resv := true, load := none, claim := false, tDue := 0 }

/-- A fetched command. -/
def raw (op : Nat) (w : Cmd) : Raw := { op := BitVec.ofNat 8 op, w := w }

/-- A stream of `NOP`s in the buffer. -/
def nops : Tab Raw := (List.range 8).map fun i => (i, raw encNop.op (cmd 0))

/-- A Shell that task 1 holds, the whole scratchpad in one region of its context. -/
def shell0 : Shell :=
  { Shell.reset 0 with
      maint := false, holder := some 1, stroke := { Stroke.reset with run := true, count := 8, buf := nops },
      regions := [(0, { base := 0, len := 4096, scope := true, strong := false, ctx := 1, task := none, inst := 1 })] }

/-- The module after its start, both links up, context 1 of port A's PF and task 1 on Shell 0. -/
def s0 : State :=
  { State.reset with
      clk := { State.reset.clk with now := 1000, alm := 5, pll := true, refA := true, refB := true, coreRef := some .A },
      nextId := 10,
      up := { StartUp.reset with aux := true, secretDone := true, coxUp := true, recordsOk := true, mainUp := true,
                                 ready := .ready, memDone := true, shellDone := true, pwrGood := true },
      portA := { PortSt.reset with linkUp := true, memActive := true, perst := false },
      portB := { PortSt.reset with linkUp := true, memActive := true, perst := false },
      ctxs := [(1, { Ctx.reset with live := true, sys := true, chains := [(0, ch0)] })],
      tasks := [(1, t0)], shells := [(0, shell0)] }

/-- `s0` with the Stroke core of Shell 0 as given. -/
def withStroke (f : Stroke → Stroke) : State := s0.modShell 0 fun x => { x with stroke := f x.stroke }

/-- An action's value, or another. -/
def valueOf {α : Type} (a : Act α) (s : State) (d : α) : α :=
  match (a.go s).1 with
  | .ok x => x
  | .error _ => d

/-- An action's state. -/
def stateOf {α : Type} (a : Act α) (s : State) : State := (a.go s).2

/-- An action's fault. -/
def faultFrom {α : Type} (a : Act α) (s : State) : Flt :=
  match (a.go s).1 with
  | .ok _ => { code := 0, detail := 0 }
  | .error f => f

/-- A stream of a loop over one `NOP`: `LOOP` at 0, `LEND` at 2. -/
def sLoop : State :=
  withStroke fun x =>
    { x with loopReg := [(3, 5)],
             buf := tset (tset nops 0 (raw encLoop.op (cmd 3))) 2 (raw encLend.op (cmd 0)) }

/-- A legacy stream. -/
def sLegacy : State := withStroke fun x => { x with legacy := true, pf := 2, loopReg := [(3, 5)] }

/-- A loop. -/
def loop0 : Loop := { start := 1, count := 3, i := 0, d0 := 1, d1 := 0, d2 := -1, d3 := 2 }

/-- `s0` with some bytes in the scratchpad of Shell 0. -/
def sData : State :=
  s0.modShell 0 fun x =>
    { x with sp := mput (mput (mput x.sp 0 (leBytes 40 (7 ^ 110))) (72 * 512) (leBytes 36 (11 ^ 80))) (72 * 1024) (leBytes 36 (5 ^ 120)) }

/-- A lane command on lines 0, 512 and 1024 with mask 5 and logN 12, its result at a line. -/
def laneCmd (dst : Nat) : Cmd := cmd 0x00C0 0 (two 0 512) (two 1024 dst) 5


/-- A CKKS ciphertext of two components at level 1 in the NTT domain. -/
def hdr0 : Hdr :=
  { scheme := ckks, logN := 12, level := 1, limbs := 2, ext := false, chain := 0, comps := 2, domain := true, layout := 0,
    kind := 0, keyset := 7, scale := 9, ptmod := 0 }

/-- `s0` with headers, and some bytes behind each, in the scratchpad of Shell 0. -/
def objs (hs : List (Nat × Hdr)) : State :=
  s0.modShell 0 fun x =>
    { x with sp := hs.foldl (fun m z => mput (mput m (72 * z.1) (hdrBytes z.2)) (72 * z.1 + 72) (leBytes 9 (5 ^ 30 + z.1))) x.sp }

/-- The header of a key of chain 0 and key set 7, digits of one modulus, by kind, levels, element and digest. -/
def keyHdr (kind hi elem digest : Nat) : Nat :=
  kind + 2 ^ 4 * 12 + 2 ^ 19 * hi + 2 ^ 25 * elem + 2 ^ 43 + 2 ^ 64 * 7 + 2 ^ 128 * digest + 2 ^ 256 * 77

/-- The head of the descriptor of a chain for slot 2, of three moduli, one of them special. -/
def chainHead : Nat := 2 + 2 ^ 8 * 12 + 2 ^ 16 * 3 + 2 ^ 24 * 1 + 2 ^ 32

/-- Host memory: a chain descriptor at 4096, key headers at 16384, 20480 and 24576, a key object at 65536. -/
def hostMem : Mem :=
  mput (mput (mput (mput (mput [] 4096
    (leBytes 64 chainHead ++ (ch0.mods.flatMap fun m => leBytes 16 (m.q + 2 ^ 64 * m.psi))))
    65536 (leBytes 64 (keyHdr 1 0 0 311684669999630788318795645436214575644)))
    16384 (leBytes 64 (keyHdr 1 1 0 1))) 20480 (leBytes 64 (keyHdr 2 1 5 1))) 24576 (leBytes 64 (keyHdr 3 1 0 1))

/-- A key slot with a key of host memory. -/
def slotOf (addr hdr : Nat) : KeySlot := { addr := addr, space := 2, hdr := BitVec.ofNat 512 hdr, reg := 1 }

/-- A state with that host memory and three keys in the slots 1, 2 and 3 of context 1. -/
def withKeys (s : State) : State :=
  { s with
      portA := { s.portA with host := hostMem },
      ctxs := (s.modCtx 1 fun c =>
        { c with keys := [(1, slotOf 16384 (keyHdr 1 1 0 1)), (2, slotOf 20480 (keyHdr 2 1 5 1)), (3, slotOf 24576 (keyHdr 3 1 0 1))] }).ctxs }

/-- A cache operand in its place of operand word a: number, row and type. -/
def cop (k row ty : Nat) : Nat := 2 ^ (16 * k) * (row + 2 ^ 8 * ty)

/-- `s0` with bytes in the operand cache and in the scratchpad of Shell 0. -/
def sVec : State :=
  sData.modShell 0 fun x =>
    { x with vec := { x.vec with seed := 5,
                                 rows := mput (mput (mput [] 1024 (leBytes 40 (3 ^ 190))) 2048 (leBytes 40 (7 ^ 110))) 3072 (leBytes 20 (5 ^ 60)) } }

/-- The image of a tensor descriptor (07_tensor_layout R222). -/
def descNum (d : TDesc) : Nat :=
  d.etype + 2 ^ 4 * d.space + 2 ^ 6 * d.smode + (if d.list then 2 ^ 8 else 0) + (if d.wr then 2 ^ 9 else 0) + 2 ^ 32 * d.slot +
    2 ^ 64 * d.base + 2 ^ 128 * d.n0 + 2 ^ 152 * d.n1 + 2 ^ 176 * d.n2 + 2 ^ 200 * d.n3 + 2 ^ 224 * unsigned 32 d.s0 +
    2 ^ 256 * unsigned 32 d.s1 + 2 ^ 288 * unsigned 32 d.s2 + 2 ^ 320 * unsigned 32 d.s3 + 2 ^ 352 * d.sbase +
    2 ^ 416 * d.lbase + 2 ^ 440 * d.lcount + 2 ^ 456 * d.blk0 + 2 ^ 468 * d.blk1

/-- A dense matrix of 16-bit elements at a line. -/
def matrix (line n0 n1 : Nat) : TDesc :=
  { etype := 2, space := 0, smode := 0, list := false, wr := true, slot := 0, base := line, n0 := n0, n1 := n1, n2 := 1, n3 := 1,
    s0 := 1, s1 := n0, s2 := 0, s3 := 0, sbase := 0, lbase := 0, lcount := 0, blk0 := 0, blk1 := 0 }

/-- `sData` with a line of the scratchpad of Shell 0 as given. -/
def withLine (line v : Nat) (s : State) : State :=
  s.modShell 0 fun x => { x with sp := mput x.sp (72 * line) (leBytes 72 v) }

/-- The first ring of port A's PF, enabled for context 1: descriptors at 65536, entries at 131072, doorbell line at 200000. -/
def ring0 : Ring :=
  { Ring.reset 0 with
      rbase := 65536, cbase := 131072, dbl := 200000, ctx := 1, rlog := 4, clog := 4, en := true, active := true, notified := true,
      tail := 1 }

/-- `s0` with that ring, a doorbell line with `tail` = 2 and with pages 0 to 2 of stacked memory mapped. -/
def sRing : State :=
  { s0 with
      rings := [(0, ring0)], shells := [(0, shell0), (1, { Shell.reset 1 with maint := false })],
      ctxs := [(1, { Ctx.reset with live := true, sys := true, chains := [(0, ch0)], tlb := [(0, 3), (1, 3 + 2 ^ 21)] })],
      portA := { s0.portA with host := mput [] 200000 (leBytes 4 2), pollUs := 4 } }

/-- A task of the second descriptor of the ring. -/
def t2 : Task := { t0 with ref := { ref0 with index := 1 }, st := .waiting, shells := 2, prio := 1, started := 0, resv := false }

/-- `sRing` with tasks. -/
def withTasks (ts : Tab Task) : State := { sRing with tasks := ts }

/-- A counter of context 1 with a value and, it may be, a holder. -/
def withCnt (k v : Nat) (h : Option Nat) (s : State) : State :=
  s.modCtx 1 fun c => { c with cnt := tset c.cnt k { v := BitVec.ofNat 32 v, holder := h } }

/-- A vigil of task 1 on counter 7. -/
def vig0 : Vigil :=
  { task := 1, ctx := 1, wcnt := 7, wline := 0, cond := 0, act := 1, tcnt := 8, step := 2, thr := 5, maddr := 4096, space := 1,
    addv := 3, mtag := 9, armed := true, due := true, spent := false }

/-- `sRing` with a vigil in entry 4 of die 0. -/
def withVigil (v : Vigil) : State := { sRing with vigils := [(4, v)] }

/-- `sRing` with port A's PF the holder of semaphore 3 and the debug registers as given. -/
def sDbg (d : Debug) : State := { sRing with sems := [(3, { owner := some .A, tie := .B })], dbg := d }

/-! ## Small lemmas: from a computed answer to the hypothesis that states it -/

/-- Whether an outcome is an answer. -/
def isOk {ε α : Type} : Except ε α → Bool
  | .ok _ => true
  | .error _ => false

/-- Whether an outcome is this answer in this state. -/
def okIs {ε α β : Type} [DecidableEq α] [DecidableEq β] (r : Except ε α × β) (x : α) (u : β) : Bool :=
  match r with
  | (.ok y, v) => decide (y = x) && decide (v = u)
  | _ => false

/-- Whether an outcome is this fault in this state. -/
def errIs {ε α β : Type} [DecidableEq ε] [DecidableEq β] (r : Except ε α × β) (x : ε) (u : β) : Bool :=
  match r with
  | (.error y, v) => decide (y = x) && decide (v = u)
  | _ => false

theorem answersIs {ε α β : Type} [DecidableEq α] [DecidableEq β] {r : Except ε α × β} {x : α} {u : β}
    (h : okIs r x u = true) : r = (.ok x, u) := by
  obtain ⟨r, v⟩ := r
  cases r <;> simp_all [okIs]

theorem faultsIs {ε α β : Type} [DecidableEq ε] [DecidableEq β] {r : Except ε α × β} {x : ε} {u : β}
    (h : errIs r x u = true) : r = (.error x, u) := by
  obtain ⟨r, v⟩ := r
  cases r <;> simp_all [errIs]

theorem okOf {ε α : Type} [DecidableEq α] {r : Except ε α} {x : α} (h : okIs (r, ()) x () = true) : r = .ok x := by
  cases r <;> simp_all [okIs]

theorem faultIs {ε α : Type} [DecidableEq ε] {r : Except ε α} {x : ε} (h : errIs (r, ()) x () = true) : r = .error x := by
  cases r <;> simp_all [errIs]

/-- Whether a native command issues (`Issues`). -/
def issuesB (s : State) (L tid : Nat) (t : Task) : Bool :=
  let x := (s.shell L).stroke
  decide (runningTask s L = some (tid, t)) && decide (x.skip = 0) && decide (x.idx < x.count) &&
    (match tfind x.buf x.idx with
      | some r => (nativeOf (Fin.ofNat 64 L) r).isSome
      | none => false) && !x.begun && decide (x.point = 0)

theorem issuesIs {s : State} {L tid : Nat} {t : Task} (h : issuesB s L tid t = true) : Issues s L tid t := by
  unfold Issues Safety.Held
  simp only [issuesB, Bool.and_eq_true, decide_eq_true_eq, Bool.not_eq_true'] at h
  obtain ⟨⟨⟨⟨⟨h1, h2⟩, h3⟩, h4⟩, h5⟩, h6⟩ := h
  refine ⟨h1, h2, h3, ?_, h5, h6⟩
  cases hb : tfind (s.shell L).stroke.buf (s.shell L).stroke.idx with
  | none => rw [hb] at h4; cases h4
  | some r => rw [hb] at h4; exact ⟨r, rfl, h4⟩

theorem allPass {α : Type} {l : List α} {f : α → Act Unit} {s : State}
    (h : l.all (fun k => okIs ((f k).go s) () s) = true) : ∀ k ∈ l, Passes (f k) s :=
  fun k hk => answersIs (List.all_eq_true.mp h k hk)

theorem allPass2 {α : Type} {l : List α} {f g : α → Act Unit} {s : State}
    (h : l.all (fun k => okIs ((f k).go s) () s && okIs ((g k).go s) () s) = true) :
    ∀ k ∈ l, Passes (f k) s ∧ Passes (g k) s :=
  fun k hk =>
    ⟨answersIs (Bool.and_eq_true_iff.mp (List.all_eq_true.mp h k hk)).1,
      answersIs (Bool.and_eq_true_iff.mp (List.all_eq_true.mp h k hk)).2⟩

/-- The answer of an outcome that is one. -/
def theOk {ε α : Type} (r : Except ε α) (h : isOk r = true) : α :=
  match r, h with
  | .ok x, _ => x

/-- The fault of an outcome that is one. -/
def theErr {ε α : Type} (r : Except ε α) (h : isOk r = false) : ε :=
  match r, h with
  | .error x, _ => x

/-- The value of an option that has one. -/
def theSome {α : Type} (r : Option α) (h : r.isSome = true) : α :=
  match r, h with
  | some x, _ => x

theorem okEq {ε α β : Type} {r : Except ε α × β} (h : isOk r.1 = true) : r = (.ok (theOk r.1 h), r.2) := by
  obtain ⟨r, v⟩ := r
  cases r with
  | ok x => rfl
  | error f => cases h

theorem okEq1 {ε β : Type} {r : Except ε Unit × β} (h : isOk r.1 = true) : r = (.ok (), r.2) := by
  obtain ⟨r, v⟩ := r
  cases r with
  | ok x => rfl
  | error f => cases h

theorem errEq {ε α β : Type} {r : Except ε α × β} (h : isOk r.1 = false) : r = (.error (theErr r.1 h), r.2) := by
  obtain ⟨r, v⟩ := r
  cases r with
  | error x => rfl
  | ok f => cases h

theorem someEq {α : Type} {r : Option α} (h : r.isSome = true) : r = some (theSome r h) := by
  cases r with
  | some x => rfl
  | none => cases h

theorem headPass {n : Native} {w : Cmd} {s : State} (hd : n.head = reservedHead n.enc) (h : cmdBad n.enc w = none) :
    Passes (n.head w) s := hd ▸ reservedHead_passes.mpr h

theorem allBelow2 {n m : Nat} {P : Nat → Nat → Prop} [∀ c b, Decidable (P c b)]
    (h : (List.range n).all (fun c => (List.range m).all fun b => decide (P c b)) = true) :
    ∀ c b, c < n → b < m → P c b :=
  fun c b hc hb =>
    of_decide_eq_true (List.all_eq_true.mp (List.all_eq_true.mp h c (List.mem_range.mpr hc)) b (List.mem_range.mpr hb))

theorem twoWays {P : Nat → Nat → Prop} {n : Nat} {l : List Nat} (hn : n = 2) (hl : l = [0, 2])
    (h : P 0 0 ∧ P 0 2 ∧ P 1 0 ∧ P 1 2) : ∀ d j, d < n → j ∈ l → P d j := by
  subst hn hl
  intro d j hd hj
  obtain ⟨h1, h2, h3, h4⟩ := h
  have : d = 0 ∨ d = 1 := by omega
  simp at hj
  rcases this with rfl | rfl <;> rcases hj with rfl | rfl <;> assumption

/-! ## Ill-formed terms are refused: one for each check of `Instr.wf` -/

theorem test_wf_secureVfPage : (Instr.mailboxGo (.fn .A 1 true)).wf = false := by decide

theorem test_wf_securePfPage : (Instr.mailboxGo (.fn .A 0 true)).wf = true := by decide

theorem test_wf_emptyRead : (Instr.hostMemoryAccess .A { addr := 0, acc := .read 0 }).wf = false := by decide

theorem test_wf_emptyWrite : (Instr.hostMemoryAccess .A { addr := 0, acc := .write [] }).wf = false := by decide

theorem test_wf_beyondMemory : (Instr.hostMemoryAccess .A { addr := 2 ^ 38, acc := .read 1 }).wf = false := by decide

theorem test_wf_linkWidth :
    (Instr.linkTraining .A { cxl := true, cache := true, mem := true, width := 17, rate := 2 }).wf = false ∧
      (Instr.linkTraining .A { cxl := true, cache := true, mem := true, width := 0, rate := 2 }).wf = false := by decide

theorem test_wf_linkRate :
    (Instr.linkTraining .A { cxl := true, cache := true, mem := true, width := 16, rate := 3 }).wf = false := by decide

theorem test_wf_pkOperands :
    (Instr.pkRun .uart { op := .ecdh, slot := 0, src := 4000, len := 97, dst := 0 }).wf = false ∧
      (Instr.pkRun .uart { op := .ecdh, slot := 0, src := 4000, len := 96, dst := 4097 }).wf = false ∧
      (Instr.pkRun .uart { op := .ecdh, slot := 0, src := 4000, len := 96, dst := 4096 }).wf = true := by decide

theorem test_wf_stageRead :
    (Instr.stageRead .uart 4000 97).wf = false ∧ (Instr.stageRead .uart 4000 96).wf = true := by decide

theorem test_wf_smbSizes :
    (Instr.smbBlockWrite true []).wf = false ∧ (Instr.smbBlockWrite true (List.replicate 256 0)).wf = false ∧
      (Instr.smbBlockRead true 0).wf = false ∧ (Instr.smbBlockRead true 256).wf = false := by decide +kernel

theorem test_wf_uartFrame :
    (Instr.uartFrame (List.replicate 15 0) 0).wf = false ∧ (Instr.uartFrame (List.replicate 1025 0) 0).wf = false := by
  decide +kernel

theorem test_wf_readings :
    (Instr.sensorSnapshot
      { feedA := .bad, feedB := .bad, vin := .bad, curA := .bad, curB := .bad, auxV := .bad, auxI := .bad, power := .bad,
        regs := List.replicate 15 .bad, coolant := .bad }).wf = false := by decide

theorem test_wf_dieReadings :
    (Instr.dieSensorRead
      { die0 := List.replicate 48 .bad, die1 := List.replicate 47 .bad, iod := List.replicate 8 .bad }).wf = false := by decide

theorem test_wf_stackSizes :
    (Instr.stackRead .management 0 0).wf = false ∧ (Instr.stackWrite .management 0 []).wf = false ∧
      (Instr.stackRead .management (2 ^ 38) 1).wf = false ∧
      (Instr.accumulateWrite .management (2 ^ 38) [0]).wf = false := by decide

theorem test_wf_perShell :
    (Instr.controllerInterval { other := 0, demand := [] }).wf = false ∧
      (Instr.energyCharge { total := 0, ballast := 0, shells := [], share := 0, feedA := 0, feedB := 0 }).wf = false := by
  decide

/-! ## Arithmetic against values from outside the model -/

/-- q − 1 plus 1 is 0, and 0 minus 1 is q − 1, modulo q (02_residue_arithmetic R57). -/
theorem test_lane_wraps :
    laneAdd (mkModulus 1073153 869188) 1073152 1 = 0 ∧ laneSub (mkModulus 1073153 869188) 0 1 = 1073152 ∧
      laneNeg (mkModulus 1073153 869188) 0 = 0 := by decide +kernel

/-- (q − 1)² is 1 modulo q. -/
theorem test_lane_square : laneMul (mkModulus 1073153 869188) 1073152 1073152 = 1 := by decide +kernel

/-- A constant polynomial has the same value at every root (03_number_theoretic_transform R84); 3 has order 16 modulo 17. -/
theorem test_ntt_constant : nttLimb 17 3 [5, 0, 0, 0, 0, 0, 0, 0] = [5, 5, 5, 5, 5, 5, 5, 5] := by decide +kernel

/-- The inverse transform undoes the transform (R85). -/
theorem test_ntt_inverse : inttLimb 17 3 (nttLimb 17 3 [1, 2, 3, 4, 5, 6, 7, 8]) = [1, 2, 3, 4, 5, 6, 7, 8] := by
  decide +kernel

/-- SHA-256 of `abc`, the example of FIPS 180-4. -/
theorem test_sha256_abc :
    leNat (sha256 [0x61, 0x62, 0x63]).reverse =
      0xba7816bf8f01cfea414140de5dae2223b00361a396177a9cb410ff61f20015ad := by decide +kernel

/-- HMAC-SHA-256 of test case 2 of RFC 4231: key `Jefe`, 28 bytes of data. -/
theorem test_hmacSha256 :
    leNat (hmacSha256 [0x4A, 0x65, 0x66, 0x65]
      [0x77, 0x68, 0x61, 0x74, 0x20, 0x64, 0x6F, 0x20, 0x79, 0x61, 0x20, 0x77, 0x61, 0x6E,
       0x74, 0x20, 0x66, 0x6F, 0x72, 0x20, 0x6E, 0x6F, 0x74, 0x68, 0x69, 0x6E, 0x67, 0x3F]).reverse =
      0x5bdcc146bf60754e6a042426089575c75a003f089d2739839dec58b964ec3843 := by decide +kernel

/-- The check value of CRC-32 over the digits 1 to 9. -/
theorem test_crc32_check : crc32 [0x31, 0x32, 0x33, 0x34, 0x35, 0x36, 0x37, 0x38, 0x39] = 0xCBF43926 := by decide +kernel

/-! ## Single steps -/

/-- A state field after one step, with the command at the front of the queue. -/
def stepGives {α : Type} (c : Instr) (s : State) (f : State → α) : Option α :=
  match step (s.withPending [c]) with
  | .next t => some (f t)
  | _ => none

/-- A `NOP` moves the Stroke core to the next command (R294). -/
theorem test_step_nop : stepGives (.nop 0 (cmd 0)) s0 (fun t => (t.shell 0).stroke.idx) = some 1 := by decide +kernel

/-- A reserved bit in a command aborts its task (R290, R390). -/
theorem test_step_reserved :
    stepGives (.nop 0 { cmd 0 with rsv := 1 }) s0 (fun t => (tfind t.tasks 1).map (·.st)) ≠ some (some .running) := by
  decide +kernel

/-- The command taken is gone from the queue. -/
theorem test_step_queue : stepGives (.nop 0 (cmd 0)) s0 (fun t => t.pending) = some [] := by decide +kernel

/-- On an empty queue 1 ns passes (log 1). -/
theorem test_step_idle :
    (match step s0 with
      | .next t => t.clk.now
      | _ => 0) = 1001 := by decide +kernel


/-! ## Loops, skips and no-ops -/

namespace Loops

/-- `Obligations.LoopsAndSkips`: a state and operands that meet the hypotheses, clause by clause. -/
theorem test_loopsAndSkips_1 :
    -- clause 3
    ((fun (sh : Fin 64) (w : Cmd) (s : State) (tid : Nat) (t : Task) (l : Loop) (r : List Loop) =>
      Issues s sh tid t ∧
      cmdBad encLend w = none ∧
      (s.shell sh).stroke.loops = l :: r)
      0 (cmd 0) (withStroke fun x => {x with idx := 4, loops := [loop0]}) 1 t0 loop0 []) ∧
    -- clause 4
    ((fun (sh : Fin 64) (w : Cmd) (s : State) (tid : Nat) (t : Task) =>
      Issues s sh tid t ∧
      cmdBad encLend w = none ∧
      (s.shell sh).stroke.loops = [])
      0 (cmd 0) s0 1 t0) ∧
    -- clause 5
    ((fun (sh : Fin 64) (w : Cmd) (s : State) (tid : Nat) (t : Task) =>
      Issues s sh tid t ∧
      cmdBad encEnd w = none ∧
      (s.shell sh).stroke.loops ≠ [])
      0 (cmd 0) (withStroke fun x => {x with idx := 4, loops := [loop0]}) 1 t0) ∧
    -- clause 6
    ((fun (sh : Fin 64) (w : Cmd) (s u : State) (tid e : Nat) (t : Task) =>
      Issues s sh tid t ∧
      cmdBad encLoop w = none ∧
      (let x := (s.shell sh).stroke;
      (findLend sh t.ctx x.count (bodyMax - 1) (x.idx + 1) 0).go s = (.ok (some e), u) ∧
      tget 0 x.loopReg (cf w 18 16) ≠ 0 ∧
      4 ≤ x.loops.length))
      0 (cmd 3) (sLoop.modShell 0 fun x => {x with stroke := {x.stroke with loops := [loop0,loop0,loop0,loop0]}})
      (sLoop.modShell 0 fun x => {x with stroke := {x.stroke with loops := [loop0,loop0,loop0,loop0]}}) 1 2 t0) ∧
    -- clause 7
    ((fun (sh : Fin 64) (w : Cmd) (s : State) (tid : Nat) (t : Task) =>
      Issues s sh tid t ∧
      (s.shell sh).stroke.legacy = true ∧
      cmdBad (encPtest (cf w 21 21 = 1)) w = none ∧
      cf w 21 21 = 0)
      0 (cmd 0x0008 5 3) sLegacy 1 t0) ∧
    -- clause 8
    ((fun (sh : Fin 64) (w : Cmd) (s : State) (tid : Nat) (t : Task) =>
      Issues s sh tid t ∧
      (s.shell sh).stroke.legacy = true ∧
      cmdBad (encPtest (cf w 21 21 = 1)) w = none ∧
      cf w 21 21 = 1)
      0 (cmd 0x0021 0) sLegacy 1 t0) := by
  refine ⟨?_, ?_, ?_, ?_, ?_, ?_⟩
  · exact ⟨issuesIs (by decide +kernel), by decide +kernel, by decide +kernel⟩
  · exact ⟨issuesIs (by decide +kernel), by decide +kernel, by decide +kernel⟩
  · exact ⟨issuesIs (by decide +kernel), by decide +kernel, by decide +kernel⟩
  · exact ⟨issuesIs (by decide +kernel), by decide +kernel, by exact answersIs (by decide +kernel),
      by decide +kernel, by decide +kernel⟩
  · exact ⟨issuesIs (by decide +kernel), by decide +kernel, by decide +kernel, by decide +kernel⟩
  · exact ⟨issuesIs (by decide +kernel), by decide +kernel, by decide +kernel, by decide +kernel⟩

/-- `Obligations.LoopsAndSkips`: a state and operands that meet the hypotheses, clause by clause. -/
theorem test_loopsAndSkips_2 :
    -- clause 10
    ((fun (sh : Fin 64) (w : Cmd) (s : State) (tid : Nat) (t : Task) =>
      runningTask s sh = some (tid, t) ∧
      0 < (s.shell sh).stroke.skip)
      0 (cmd 0x0001 2) (withStroke fun x => {x with skip := 1}) 1 t0) ∧
    -- clause 11
    ((fun (sh : Fin 64) (w : Cmd) (s : State) (tid : Nat) (t : Task) =>
      Issues s sh tid t ∧
      (s.shell sh).stroke.legacy = false)
      0 (cmd 0x0001 2) s0 1 t0) := by
  refine ⟨?_, ?_⟩
  · exact ⟨by decide +kernel, by decide +kernel⟩
  · exact ⟨issuesIs (by decide +kernel), by decide +kernel⟩

/-- `Obligations.ZeroCountIsANoOp`: a state and operands that meet the hypotheses, clause by clause. -/
theorem test_zeroCountIsANoOp :
    -- clause 1
    (fun (sh : Fin 64) (w : Cmd) (s : State) (tid : Nat) (t : Task) =>
      Issues s sh tid t)
      0 (cmd 0xFFFF 0 5 7 0) s0 1 t0 := by
  dsimp only
  all_goals (exact issuesIs (by decide +kernel))

/-- `Obligations.RejectedCommandsAbort`: a state and operands that meet the hypotheses, clause by clause. -/
theorem test_rejectedCommandsAbort :
    -- clause 1
    ((fun (sh : Fin 64) (w : Cmd) (s : State) (tid b : Nat) (t : Task) =>
      Issues s sh tid t ∧
      w.opc ≠ 0 ∧
      cmdBad (encLane 0x10 .mulAdd) w = some b)
      0 (cmd 0xFFFF 0 5 7 1) s0 1 (cmdBad (encLane 0x10 .mulAdd) (cmd 0xFFFF 0 5 7 1)).get! t0) ∧
    -- clause 2
    ((fun (sh : Fin 64) (w : Cmd) (s : State) (tid : Nat) (t : Task) (f : Flt) =>
      Issues s sh tid t ∧
      w.opc ≠ 0 ∧
      cmdBad (encLane 0x10 .mulAdd) w = none ∧
      effCmd (s.shell sh).stroke.loops w = .error f)
      0 {cmd 0 0 0 0 1 with adv := 1} (withStroke fun x => {x with loops := [{loop0 with d0 := -1, i := 1}]}) 1 t0
      (match effCmd [{loop0 with d0 := -1, i := 1}] {cmd 0 0 0 0 1 with adv := 1} with | .error f => f | _ => ⟨0,0,none⟩)) ∧
    -- clause 3
    ((fun (sh : Fin 64) (w : Cmd) (s : State) (tid : Nat) (t : Task) =>
      runningTask s sh = some (tid, t) ∧
      (s.shell sh).stroke.skip = 0 ∧
      (s.shell sh).stroke.count ≤ (s.shell sh).stroke.idx)
      0 (cmd 0) (withStroke fun x => {x with idx := 8}) 1 t0) ∧
    -- clause 4
    ((fun (tid fshell cmd : Nat) (f : Flt) (s : State) (x : Task) =>
      tfind s.tasks tid = some x ∧
      x.fault = none ∧
      x.st ≠ .ending ∧
      x.st ≠ .done)
      1 0 3 ⟨0x31, 7, none⟩ s0 t0) := by
  refine ⟨?_, ?_, ?_, ?_⟩
  · exact ⟨issuesIs (by decide +kernel), by decide +kernel, by decide +kernel⟩
  · exact ⟨issuesIs (by decide +kernel), by decide +kernel, by decide +kernel,
      by exact faultIs (by decide +kernel)⟩
  · exact ⟨by decide +kernel, by decide +kernel, by decide +kernel⟩
  · exact ⟨by decide +kernel, by decide +kernel, by decide +kernel, by decide +kernel⟩

/-- `Obligations.LoopsAndSkips`: a state and operands that meet the hypotheses of clause 1. -/
theorem test_loopsAndSkips_c1 :
    (fun (sh : Fin 64) (w : Cmd) (s u : State) (tid e : Nat) (t : Task) =>
      Issues s sh tid t ∧
      cmdBad encLoop w = none ∧
      (let x := (s.shell sh).stroke;
      (findLend sh t.ctx x.count (bodyMax - 1) (x.idx + 1) 0).go s = (.ok (some e), u) ∧
      (u.shell sh).stroke.loops = x.loops ∧
      tget 0 x.loopReg (cf w 18 16) ≠ 0 ∧
      x.loops.length < 4))
      0 (cmd 3 0 (two 1 0xFFFFFF) 7) sLoop (stateOf (findLend 0 1 8 (bodyMax - 1) 1 0) sLoop) 1 2 t0 := by
  exact ⟨issuesIs (by decide +kernel), by decide +kernel, answersIs (by decide +kernel), by decide +kernel,
    by decide +kernel, by decide +kernel⟩

/-- `Obligations.LoopsAndSkips`: a state and operands that meet the hypotheses of clause 2. -/
theorem test_loopsAndSkips_c2 :
    (fun (sh : Fin 64) (w : Cmd) (s u : State) (tid e : Nat) (t : Task) =>
      Issues s sh tid t ∧
      cmdBad encLoop w = none ∧
      (let x := (s.shell sh).stroke;
      (findLend sh t.ctx x.count (bodyMax - 1) (x.idx + 1) 0).go s = (.ok (some e), u) ∧
      (u.shell sh).stroke.loops = x.loops ∧
      tget 0 x.loopReg (cf w 18 16) = 0))
      0 (cmd 2 0 (two 1 0xFFFFFF) 7) sLoop (stateOf (findLend 0 1 8 (bodyMax - 1) 1 0) sLoop) 1 2 t0 := by
  exact ⟨issuesIs (by decide +kernel), by decide +kernel, answersIs (by decide +kernel), by decide +kernel,
    by decide +kernel⟩

/-- `Obligations.LoopsAndSkips`: a state and operands that meet the hypotheses of clause 9. -/
theorem test_loopsAndSkips_c9 :
    (fun (sh : Fin 64) (w : Cmd) (s u : State) (tid : Nat) (t : Task) =>
      Issues s sh tid t ∧
      (let x := (s.shell sh).stroke;
      x.legacy = true ∧
      cmdBad encSkip w = none ∧
      immF w 7 0 ≠ 0 ∧
      (skipBad sh t.ctx x.count (immF w 7 0) (x.idx + 1)).go s = (.ok false, u) ∧
      (u.shell sh).stroke.skip = 0))
      0 (cmd 0x0001 2) sLegacy (stateOf (skipBad 0 1 8 2 1) sLegacy) 1 t0 := by
  exact ⟨issuesIs (by decide +kernel), by decide +kernel, by decide +kernel, by decide +kernel, answersIs (by
    decide +kernel), by decide +kernel⟩

/-- `Obligations.ControlCommands`: a state and operands that meet the hypotheses of clause 1. -/
theorem test_controlCommands_c1 :
    (fun (sh : Fin 64) (w : Cmd) (s : State) (tid : Nat) (t : Task) =>
      Issues s sh tid t ∧
      cmdBad encNop w = none)
      0 (cmd 0) s0 1 t0 := by
  exact ⟨issuesIs (by decide +kernel), by decide +kernel⟩

/-- `Obligations.ControlCommands`: a state and operands that meet the hypotheses of clause 2. -/
theorem test_controlCommands_c2 :
    (fun (sh : Fin 64) (w : Cmd) (s : State) (tid : Nat) (t : Task) =>
      Issues s sh tid t ∧
      cmdBad encEnd w = none ∧
      (s.shell sh).stroke.loops = [])
      0 (cmd 0) s0 1 t0 := by
  exact ⟨issuesIs (by decide +kernel), by decide +kernel, by decide +kernel⟩

/-- `Obligations.ControlCommands`: a state and operands that meet the hypotheses of clause 3. -/
theorem test_controlCommands_c3 :
    (fun (sh : Fin 64) (w : Cmd) (s : State) (tid : Nat) (t : Task) =>
      Issues s sh tid t ∧
      cmdBad encLset w = none)
      0 (cmd 3 9) sLoop 1 t0 := by
  exact ⟨issuesIs (by decide +kernel), by decide +kernel⟩

end Loops

/-! ## Lane commands -/

namespace Lanes

/-- `Obligations.LaneCommands`: a state and operands that meet the hypotheses, clause by clause. -/
theorem test_laneCommands :
    -- clause 1
    (fun (z : (Fin 64 → Cmd → Instr) × LaneOp × (Fin 64 → Cmd → Native)) (sh : Fin 64) (w e : Cmd) (s : State) (tid :
        Nat) (t : Task) (ch : Chain) =>
      Issues s sh tid t ∧
      Quiet s sh ∧
      Effective (z.2.2 sh w) s sh tid t w e ∧
      (let logN := cf e 24 20;
      12 ≤ logN ∧
      logN ≤ 17 ∧
      tfind t.snap (cf e 19 16) = some ch ∧
      logN ≤ ch.maxLogN ∧
      (let mask := e.opc.toNat;
      mask < 2 ^ ch.K ∧
      (let n := popCount mask 64 * limbLines logN;
      Within s sh tid t (afOf e 0) n ∧
      (let o := z.2.1;
      (usesC o = true → Within s sh tid t (afOf e 1) n) ∧
      (usesD o = true → Within s sh tid t (afOf e 2) n) ∧
      Within s sh tid t (afOf e 3) n ∧
      CoincideOrApart (addrLine (afOf e 3)) n (addrLine (afOf e 0)) n ∧
      (usesC o = true → CoincideOrApart (addrLine (afOf e 3)) n (addrLine (afOf e 1)) n) ∧
      (usesD o = true → CoincideOrApart (addrLine (afOf e 3)) n (addrLine (afOf e 2)) n))))))
      (.muladd, .mulAdd, natMuladd) 0 (laneCmd 1536) (laneCmd 1536) sData 1 t0 ch0 := by
  exact ⟨issuesIs (by decide +kernel), by unfold Quiet; decide +kernel,
    by exact ⟨by decide +kernel, headPass rfl (by decide +kernel), okOf (by decide +kernel)⟩, by decide +kernel,
    by decide +kernel, by decide +kernel, by decide +kernel, by decide +kernel, by unfold Within; decide +kernel,
    by unfold Within; decide +kernel, by unfold Within; decide +kernel, by unfold Within; decide +kernel,
    by unfold CoincideOrApart; decide +kernel, by unfold CoincideOrApart; decide +kernel,
    by unfold CoincideOrApart; decide +kernel⟩

/-- `Obligations.LaneArithmeticIsExact`: a state and operands that meet the hypotheses, clause by clause. -/
theorem test_laneArithmeticIsExact :
    -- clause 1
    (fun (m : Modulus) (a c d : _) =>
      0 < m.q ∧
      m.q < 2 ^ 36 ∧
      m.b = bitLen m.q ∧
      m.mu = barrettMu m.q)
      (mkModulus 65537 282) 65536 65536 65535 := by
  exact ⟨by decide +kernel, by decide +kernel, by decide +kernel, by decide +kernel⟩

/-- `Obligations.NttDomainAutomorphism`: a state and operands that meet the hypotheses, clause by clause. -/
theorem test_nttDomainAutomorphism :
    -- clause 1
    (fun (g logN : Nat) (l : Limb) =>
      l.length = 2 ^ logN ∧
      g % 2 = 1 ∧
      g < 2 * l.length)
      5 3 [1,2,3,4,5,6,7,8] := by
  exact ⟨by decide +kernel, by decide +kernel, by decide +kernel⟩

end Lanes

/-! ## Transforms -/

namespace Transforms

/-- `Obligations.TransformCommands`: a state and operands that meet the hypotheses, clause by clause. -/
theorem test_transformCommands :
    -- clause 1
    ((fun (z : (Fin 64 → Cmd → Instr) × Xform × (Fin 64 → Cmd → Native)) (sh : Fin 64) (w e : Cmd) (s : State) (tid :
        Nat) (t : Task) (ch : Chain) =>
      Issues s sh tid t ∧
      Quiet s sh ∧
      Effective (z.2.2 sh w) s sh tid t w e ∧
      cf w 16 16 = 1 ∧
      (let logN := cf e 25 21;
      12 ≤ logN ∧
      logN ≤ 17 ∧
      (let k := z.2.1;
      let g := immF e 17 0;
      galoisFits k logN g = true ∧
      tfind t.snap (cf e 20 17) = some ch ∧
      logN ≤ ch.maxLogN ∧
      (let mask := e.opb.toNat;
      mask < 2 ^ ch.K ∧
      (let n := popCount mask 64 * limbLines logN;
      Within s sh tid t (afOf e 0) n ∧
      Within s sh tid t (afOf e 1) n ∧
      CoincideOrApart (addrLine (afOf e 1)) n (addrLine (afOf e 0)) n)))))
      (.ntt, .ntt, natNtt) 0 (cmd 0x0181 0 (two 0 2048) 3) (cmd 0x0181 0 (two 0 2048) 3) sData 1 t0 ch0) ∧
    -- clause 2
    ((fun (z : (Fin 64 → Cmd → Instr) × Xform × (Fin 64 → Cmd → Native)) (sh : Fin 64) (w e : Cmd) (s : State) (tid :
        Nat) (t : Task) =>
      Issues s sh tid t ∧
      Quiet s sh ∧
      Effective (z.2.2 sh w) s sh tid t w e ∧
      cf w 16 16 = 0 ∧
      (let src := afOf e 0;
      Within s sh tid t src 1 ∧
      hdrBad (spLine s sh src) = none ∧
      (let k := z.2.1;
      let h := hdrOf (spLine s sh src);
      (k = .ntt → h.domain = false) ∧
      (k = .intt → h.domain = true) ∧
      hdrFits t.snap h = true ∧
      (let g := immF e 17 0;
      galoisFits k h.logN g = true ∧
      (¬ (k = .auto ∧ h.kind = 2)) ∧
      Within s sh tid t src (objLines h) ∧
      (let dst := afOf e 1;
      Within s sh tid t dst (objLines h) ∧
      CoincideOrApart (addrLine dst) (objLines h) (addrLine src) (objLines h))))))
      (.ntt, .ntt, natNtt) 0 (cmd 0 0 (two 0 2048)) (cmd 0 0 (two 0 2048)) (objs [(0, {hdr0 with domain := false})])
      1 t0) ∧
    -- clause 3
    ((fun (sh : Fin 64) (w e : Cmd) (s : State) (tid : Nat) (t : Task) (ch : Chain) =>
      Issues s sh tid t ∧
      Quiet s sh ∧
      Effective (natBconv sh w) s sh tid t w e ∧
      cf e 16 16 = 1 ∧
      (let logN := cf e 25 21;
      12 ≤ logN ∧
      logN ≤ 17 ∧
      tfind t.snap (cf e 20 17) = some ch ∧
      logN ≤ ch.maxLogN ∧
      (let S := e.opb.toNat;
      S < 2 ^ ch.K ∧
      (let T := e.opc.toNat;
      T < 2 ^ ch.K ∧
      S &&& T = 0 ∧
      (let n := popCount S 64 * limbLines logN;
      Within s sh tid t (afOf e 0) n ∧
      (let m := popCount T 64 * limbLines logN;
      Within s sh tid t (afOf e 1) m ∧
      linesMeet (addrLine (afOf e 1)) m (addrLine (afOf e 0)) n = none))))))
      0 (cmd 0x0181 0 (two 0 2048) 3 4) (cmd 0x0181 0 (two 0 2048) 3 4) sData 1 t0 ch0) := by
  refine ⟨?_, ?_, ?_⟩
  · exact ⟨issuesIs (by decide +kernel), by unfold Quiet; decide +kernel,
      by exact ⟨by decide +kernel, answersIs (by decide +kernel), okOf (by decide +kernel)⟩, by decide +kernel,
      by decide +kernel, by decide +kernel, by decide +kernel, by decide +kernel, by decide +kernel,
      by decide +kernel, by unfold Within; decide +kernel, by unfold Within; decide +kernel,
      by unfold CoincideOrApart; decide +kernel⟩
  · exact ⟨issuesIs (by decide +kernel), by unfold Quiet; decide +kernel,
      by exact ⟨by decide +kernel, answersIs (by decide +kernel), okOf (by decide +kernel)⟩, by decide +kernel,
      by unfold Within; decide +kernel, by decide +kernel, by decide +kernel, by decide +kernel, by decide +kernel,
      by decide +kernel, by decide +kernel, by unfold Within; decide +kernel, by unfold Within; decide +kernel,
      by unfold CoincideOrApart; decide +kernel⟩
  · exact ⟨issuesIs (by decide +kernel), by unfold Quiet; decide +kernel,
      by exact ⟨by decide +kernel, answersIs (by decide +kernel), okOf (by decide +kernel)⟩, by decide +kernel,
      by decide +kernel, by decide +kernel, by decide +kernel, by decide +kernel, by decide +kernel,
      by decide +kernel, by decide +kernel, by unfold Within; decide +kernel, by unfold Within; decide +kernel,
      by decide +kernel⟩

end Transforms

/-! ## Chains and keys -/

namespace Keys

def sK := withKeys (objs [(0, hdr0)])

def kf := valueOf (keyIdentity t0 3 3 0 1 (some hdr0)) sK ⟨slotOf 0 0, keyHdrOf 0, ch0⟩

def lim (k : Nat) : Limb := List.replicate 4096 k

theorem limLen (k : Nat) : (lim k).length = 4096 := List.length_replicate

def mem0 : Member :=
    { sh := 0, mask := 5, given := 0, buf := [(0,0,lim 3, lim 4), (1,0,lim 5,lim 6),(0,2,lim 7,lim 8),(1,2,lim 9, lim 10)], used := 0, order := 3, closed := false, waits := false, freed := 0, cmd := 0, z0 := 0, full := false, imask := 0, ilevel := 0}

def kst : KStream := { streamWanted 1 0 0 1 3 3 0 1 kf none (some 0) false with members := [mem0], started := true }

def sKip : State := { (sData.modShell 0 fun x => {x with ks0 := some 4}) with streams := [(4, kst)] }

def pr (d j : Nat) : Limb × Limb := if d = 0 then (if j = 0 then (lim 3, lim 4) else (lim 7, lim 8)) else (if j = 0
    then (lim 5, lim 6) else (lim 9, lim 10))

/-- `Obligations.ChainCommands`: a state and operands that meet the hypotheses, clause by clause. -/
theorem test_chainCommands :
    -- clause 2
    (fun (sh : Fin 64) (w : Cmd) (s : State) (tid : Nat) (t : Task) =>
      Issues s sh tid t ∧
      cmdBad encChainDrop w = none)
      0 (cmd 0) (withKeys s0) 1 t0 := by
  exact ⟨issuesIs (by decide +kernel), by decide +kernel⟩

/-- `Obligations.KeyCommands`: a state and operands that meet the hypotheses, clause by clause. -/
theorem test_keyCommands :
    -- clause 2
    ((fun (sh : Fin 64) (w : Cmd) (s : State) (tid : Nat) (t : Task) =>
      Issues s sh tid t ∧
      cmdBad encKeyDrop w = none)
      0 (cmd 2) (withKeys s0) 1 t0) ∧
    -- clause 3
    ((fun (sh : Fin 64) (w e : Cmd) (s : State) (tid : Nat) (t : Task) (k : FoundKey) =>
      Issues s sh tid t ∧
      Quiet s sh ∧
      Effective (natKeyOpen sh w) s sh tid t w e ∧
      opaF e 41 24 = 0x3FFFF ∧
      (let num := cf e 26 26;
      let set_ := opaF e 55 48;
      let kind := cf e 30 27;
      Passes (openRow1 sh num set_ kind 3) s ∧
      Within s sh tid t (afOf e 0) 1 ∧
      hdrBad (spLine s sh (afOf e 0)) = none ∧
      (let h := hdrOf (spLine s sh (afOf e 0));
      hdrFits t.snap h = true ∧
      h.kind = 0 ∧
      h.comps = (if kind = kindRelin then 3 else 2) ∧
      Answers (keyIdentity t (cf e 25 16) kind (immF e 17 0) h.level (some h)) s k s ∧
      ∃ (s1 : State), Answers (keySource sh tid t (cf e 25 16) k none) s () s1 ∧
      e.opb.toNat &&& extMask k.chain h.level = e.opb.toNat ∧
      ∃ (streamer : Nat) (s2 : State), Answers (streamerOf t.ctx sh k.slot) s1 streamer s2 ∧
      Answers (unitsHold sh (some streamer) true) s2 false s2 ∧
      waitingStream s2 tid sh num set_ = none ∧
      streamerFree s2 streamer = true)))
      0 (cmd (3 + 3 * 2048) 0 (0x3FFFF * 2^24 + 3 * 2^48) 7) (cmd (3 + 3 * 2048) 0 (0x3FFFF * 2^24 + 3 * 2^48) 7) sK
      1 t0 kf) ∧
    -- clause 6
    ((fun (sh : Fin 64) (w : Cmd) (s : State) (tid : Nat) (t : Task) =>
      Issues s sh tid t ∧
      cmdBad encKeyClose w = none)
      0 (cmd 0) sKip 1 t0) := by
  refine ⟨?_, ?_, ?_⟩
  · exact ⟨issuesIs (by decide +kernel), by decide +kernel⟩
  · exact ⟨issuesIs (by decide +kernel), by unfold Quiet; decide +kernel,
      by exact ⟨by decide +kernel, headPass rfl (by decide +kernel), okOf (by decide +kernel)⟩, by decide +kernel,
      by exact answersIs (by decide +kernel), by unfold Within; decide +kernel, by decide +kernel,
      by decide +kernel, by decide +kernel, by decide +kernel, by exact answersIs (by decide +kernel), _,
      okEq1 (by decide +kernel), by decide +kernel, _, _, okEq (by decide +kernel),
      by exact answersIs (by decide +kernel), by decide +kernel, by decide +kernel⟩
  · exact ⟨issuesIs (by decide +kernel), by decide +kernel⟩

/-- `Obligations.ChainCommands`: a state and operands that meet the hypotheses of clause 1. -/
theorem test_chainCommands_c1 :
    (fun (sh : Fin 64) (w e : Cmd) (s : State) (tid : Nat) (t : Task) =>
      Issues s sh tid t ∧
      Effective (natChainSet sh w) s sh tid t w e ∧
      (cf e 17 16 = 1 ∨ cf e 17 16 = 2) ∧
      e.opa.toNat % 64 = 0 ∧
      ∃ (s1 : State) (hb : List Byte),
      Answers (readCached sh t.ctx (cf e 17 16) e.opa.toNat 64 0) s hb s1 ∧
      (let head := leNat hb;
      (let count := bits head 22 16;
      count ≠ 0 ∧
      ∃ (s2 : State) (eb : List Byte),
      Answers (readCached sh t.ctx (cf e 17 16) (e.opa.toNat + 64) (16 * count) 0) s1 eb s2 ∧
      (let k := bits head 3 0;
      chainRows head (words16 count eb) (tfind (s2.ctx t.ctx).chains k).isSome = none))))
      0 (cmd 2 0 4096) (cmd 2 0 4096) (withKeys s0) 1 t0 := by
  exact ⟨issuesIs (by decide +kernel), ⟨by decide +kernel, headPass rfl (by decide +kernel), okOf (by
    decide +kernel)⟩, by decide +kernel, by decide +kernel, _, _, okEq (by decide +kernel), by decide +kernel,
    _, _, okEq (by decide +kernel), by decide +kernel⟩

/-- `Obligations.KeyCommands`: a state and operands that meet the hypotheses of clause 1. -/
theorem test_keyCommands_c1 :
    (fun (sh : Fin 64) (w e : Cmd) (s : State) (tid : Nat) (t : Task) (ch : Chain) =>
      Issues s sh tid t ∧
      Effective (natKeyInstall sh w) s sh tid t w e ∧
      (let space := cf e 27 26;
      (space = 1 ∨ space = 2) ∧
      tfind (s.ctx t.ctx).keys (cf e 25 16) = none ∧
      (let a := e.opa.toNat;
      a % 64 = 0 ∧
      ∃ (s1 : State),
      Answers (wholeObject t.ctx space a 64 0 2) s () s1 ∧
      ∃ (s2 : State) (hb : List Byte),
      Answers (readMem .iod t.ctx space a 64 2) s1 hb s2 ∧
      keyHdrBad (leNat hb) = none ∧
      (let h := keyHdrOf (leNat hb);
      keyHdrFits t.snap h = true ∧
      tfind t.snap h.chain = some ch ∧
      ∃ (s3 : State),
      Answers (wholeObject t.ctx space a (keyBytes h ch) 4 4) s2 () s3 ∧
      ∃ (s4 : State) (data : List Byte),
      Answers (readMem .iod t.ctx space (a + 64) (keyBytes h ch - 64) 2) s3 data s4))))
      0 (cmd (9+2048) 0 65536) (cmd (9+2048) 0 65536) (withKeys s0) 1 t0 ch0 := by
  exact ⟨issuesIs (by decide +kernel), ⟨by decide +kernel, headPass rfl (by decide +kernel), okOf (by
    decide +kernel)⟩, by decide +kernel, by decide +kernel, by decide +kernel, _, okEq1 (by decide +kernel),
    _, _, okEq (by decide +kernel), by decide +kernel, by decide +kernel, by decide +kernel, _, okEq1 (by
    decide +kernel), _, _, okEq (by decide +kernel)⟩

/-- `Obligations.KeyCommands`: a state and operands that meet the hypotheses of clause 4. -/
theorem test_keyCommands_c4 :
    (fun (sh : Fin 64) (w e : Cmd) (s : State) (tid : Nat) (t : Task) (k : FoundKey) =>
      Issues s sh tid t ∧
      Effective (natKeyPin sh w) s sh tid t w e ∧
      (let num := cf e 26 26;
      (let set_ := opaF e 55 48;
      (let kind := cf e 31 28;
      Passes (openRow1 sh num set_ kind 3) s ∧
      (let level := immF e 5 0;
      Answers (keyIdentity t (cf e 25 16) kind (immF e 23 6) level none) s k s ∧
      ∃ (s1 : State),
      Answers (keySource sh tid t (cf e 25 16) k none) s () s1 ∧
      e.opb.toNat &&& extMask k.chain level = e.opb.toNat ∧
      ∃ (s2 : State) (streamer : Nat),
      Answers (streamerOf t.ctx sh k.slot) s1 streamer s2 ∧
      Answers (unitsHold sh (some streamer) (cf e 27 27 = 1)) s2 false s2 ∧
      waitingStream s2 tid sh num set_ = none ∧
      streamerFree s2 streamer = true ∧
      Quiet s2 sh ∧
      (let x := streamWanted tid sh num set_ (cf e 25 16) kind (immF e 23 6) level k none (some streamer)
          true;
      (let m : Member := { sh := sh, mask := e.opb, given := 0, used := 0, buf := [], order := s2.nextId, closed := false, waits := false, freed := 0, cmd := (s2.shell sh).stroke.idx, z0 := opaF e 41 24, full := cf e 27 27 = 1, imask := e.opb, ilevel := level };
      Within s2 sh tid t (spAddr sh m.z0) (pinLines x m))))))))
      0 (cmd (3 + 3 * 4096) 1 (4096 * 2^24 + 3 * 2^48) 7) (cmd (3 + 3 * 4096) 1 (4096 * 2^24 + 3 * 2^48) 7)
      sK 1 t0 kf := by
  exact ⟨issuesIs (by decide +kernel), ⟨by decide +kernel, headPass rfl (by decide +kernel), okOf (by
    decide +kernel)⟩, answersIs (by decide +kernel), answersIs (by decide +kernel), _, okEq1 (by
    decide +kernel), by decide +kernel, _, _, okEq (by decide +kernel), answersIs (by decide +kernel),
    by decide +kernel, by decide +kernel, by unfold Quiet; decide +kernel, by unfold Within; decide +kernel⟩

/-- `Obligations.KeyCommands`: a state and operands that meet the hypotheses of clause 5. -/
theorem test_keyCommands_c5 :
    (fun (sh : Fin 64) (w e : Cmd) (s : State) (tid id : Nat) (t : Task) (x : KStream) (mem : Member) (pair :
        Nat → Nat → Limb × Limb) =>
      Issues s sh tid t ∧
      Quiet s sh ∧
      Effective (natKip sh w) s sh tid t w e ∧
      (let nb := cf e 21 17;
      nb ≤ 16 ∧
      (let num := cf e 16 16;
      streamOf s sh num = some (id, x) ∧
      x.pin = false ∧
      earliest s sh num = true ∧
      (let js := setBits mem.mask.toNat 64;
      (let m := js.length;
      x.members.find? (fun m => m.sh = sh.val) = some mem ∧
      x.image = none ∧
      mem.used = 0 ∧
      x.started = true ∧
      m ≠ 0 ∧
      (let h := keyHdrOf x.hdr.toNat;
      12 ≤ h.logN ∧
      (let D := h.digits x.level;
      (∀ d j, d < D → j ∈ js → mem.buf.find? (fun b => b.1 = d && b.2.1 = j) = some (d, j, (pair d j).1,
          (pair d j).2) ∧ (pair d j).1.length = 2 ^ h.logN ∧ (pair d j).2.length = 2 ^ h.logN) ∧
      0 < D ∧
      (let lam := limbLines h.logN;
      Within s sh tid t (afOf e 0) (D * m * lam) ∧
      Within s sh tid t (afOf e 1) (2 * m * lam) ∧
      (let x0 := addrLine (afOf e 0);
      (let y0 := addrLine (afOf e 1);
      (let sx := opbF e 23 0;
      (let sy := opbF e 47 24;
      (∀ c, c < nb → firstOut (s.shell sh) tid t.ctx 33 (x0 + c * sx) (x0 + c * sx + D * m * lam) = none ∧
          firstOut (s.shell sh) tid t.ctx 33 (y0 + c * sy) (y0 + c * sy + 2 * m * lam) = none) ∧
      (∀ c b, c < nb → b < nb → linesMeet (x0 + c * sx) (D * m * lam) (y0 + b * sy) (2 * m * lam) =
          none)))))))))))))
      0 (cmd 2 0 (two 0 2048) 0) (cmd 2 0 (two 0 2048) 0) sKip 1 4 t0 kst mem0 pr := by
  exact ⟨issuesIs (by decide +kernel), by unfold Quiet; decide +kernel, ⟨by decide +kernel, headPass rfl (by
    decide +kernel), okOf (by decide +kernel)⟩, by decide +kernel, rfl, rfl, by decide +kernel, rfl, rfl, rfl,
    rfl, by decide +kernel, by decide +kernel, twoWays (by decide +kernel) (by decide +kernel) ⟨⟨rfl, (limLen
    3).trans (by decide +kernel), (limLen 4).trans (by decide +kernel)⟩, ⟨rfl, (limLen 7).trans (by
    decide +kernel), (limLen 8).trans (by decide +kernel)⟩, ⟨rfl, (limLen 5).trans (by decide +kernel),
    (limLen 6).trans (by decide +kernel)⟩, ⟨rfl, (limLen 9).trans (by decide +kernel), (limLen 10).trans (by
    decide +kernel)⟩⟩, by decide +kernel, by unfold Within; decide +kernel, by unfold Within; decide +kernel,
    by decide +kernel, allBelow2 (by decide +kernel)⟩

end Keys

/-! ## Scheme commands -/

namespace Schemes

def pt : Hdr := {hdr0 with kind := 1, comps := 1}

def shr : Hdr := {hdr0 with kind := 2, comps := 1, scheme := shareScheme, scale := 0}

def W3 := cmd 0 0 (two 0 2048) (two 0 8192)

def W2 := cmd 0 0 0 (two 0 8192)

def Wc := cmd 0 7 0 (two 0 8192) 3

def OO (a b : Hdr) := objs [(0,a),(2048,b)]

def WB := cmd 1 0 (two 0 2048) (two 4096 8192) (two 16384 20480)

def OB := objs [(0,shr),(2048,shr),(4096,shr),(16384,pt),(20480,pt)]

/-- `Obligations.ElementwiseSchemeCommands`: a state and operands that meet the hypotheses, clause by clause. -/
theorem test_elementwiseSchemeCommands :
    -- clause 1
    ((fun (z : (Fin 64 → Cmd → Instr) × (Fin 64 → Cmd → Native) × Bool × Bool) (sh : Fin 64) (w e : Cmd) (s : State)
        (tid scale : Nat) (t : Task) (a b : Hdr) =>
      Issues s sh tid t ∧
      Quiet s sh ∧
      Effective (z.2.1 sh w) s sh tid t w e ∧
      Answers (heads sh tid t.ctx [afOf e 0, afOf e 1]) s [a, b] s ∧
      Passes (rows2to5 t [a, b] .same) s ∧
      (let share := z.2.2.2;
      Passes (step3 [a, b] (if share then [.share, .share] else [.ct, .ctOrPt]) (!share)) s ∧
      (let ch := chainOf t a;
      Answers (addScale ch [a, b] a.scale b.scale) s scale s ∧
      (let out := outHdr [a, b] (if b.kind = 1 then a.comps else max a.comps b.comps) a.level scale;
      Passes (place sh tid t.ctx [(afOf e 0, a), (afOf e 1, b)] (afOf e 3) out) s))))
      (.hadd, natHadd, false, false) 0 W3 W3 (OO hdr0 hdr0) 1 9 t0 hdr0 hdr0) ∧
    -- clause 2
    ((fun (z : (Fin 64 → Cmd → Instr) × (Fin 64 → Cmd → Native) × Bool) (sh : Fin 64) (w e : Cmd) (s : State) (tid :
        Nat) (t : Task) (a : Hdr) =>
      Issues s sh tid t ∧
      Quiet s sh ∧
      Effective (z.2.1 sh w) s sh tid t w e ∧
      Answers (heads sh tid t.ctx [afOf e 0]) s [a] s ∧
      Passes (rows2to5 t [a] .any) s ∧
      Passes (step3 [a] [if z.2.2 then .share else .ct] (!z.2.2)) s ∧
      (let out := outHdr [a] a.comps a.level a.scale;
      Passes (place sh tid t.ctx [(afOf e 0, a)] (afOf e 3) out) s))
      (.hneg, natHneg, false) 0 W2 W2 (OO hdr0 hdr0) 1 t0 hdr0) ∧
    -- clause 3
    ((fun (z : (Fin 64 → Cmd → Instr) × (Fin 64 → Cmd → Native) × Bool) (sh : Fin 64) (w e : Cmd) (s : State) (tid
        scale : Nat) (t : Task) (a : Hdr) =>
      Issues s sh tid t ∧
      Quiet s sh ∧
      Effective (z.2.1 sh w) s sh tid t w e ∧
      Answers (heads sh tid t.ctx [afOf e 0]) s [a] s ∧
      Passes (rows2to5 t [a] .any) s ∧
      Passes (step3 [a] [if z.2.2 then .share else .ct] (!z.2.2)) s ∧
      (z.2.2 = true ∨ a.scheme = ckks ∨ opcF e 31 0 = 0) ∧
      (let ch := chainOf t a;
      Answers (mulScale ch [a] a.level a.scale (opcF e 31 0)) s scale s ∧
      (let out := outHdr [a] a.comps a.level scale;
      Passes (place sh tid t.ctx [(afOf e 0, a)] (afOf e 3) out) s)))
      (.hmulc, natHmulc, false) 0 Wc Wc (OO hdr0 hdr0) 1 12 t0 hdr0) ∧
    -- clause 4
    ((fun (z : (Fin 64 → Cmd → Instr) × (Fin 64 → Cmd → Native) × List Role × Dom × Bool) (sh : Fin 64) (w e : Cmd) (s
        : State) (tid scale : Nat) (t : Task) (a b : Hdr) =>
      Issues s sh tid t ∧
      Quiet s sh ∧
      Effective (z.2.1 sh w) s sh tid t w e ∧
      Answers (heads sh tid t.ctx [afOf e 0, afOf e 1]) s [a, b] s ∧
      Passes (rows2to5 t [a, b] z.2.2.2.1) s ∧
      (let share := z.2.2.2.2;
      Passes (step3 [a, b] z.2.2.1 (!share)) s ∧
      (share = true → scale = 0) ∧
      (let ch := chainOf t a;
      (share = false → Answers (mulScale ch [a, b] a.level a.scale b.scale) s scale s) ∧
      (let out := outHdr [a, b] a.comps a.level scale;
      Passes (place sh tid t.ctx [(afOf e 0, a), (afOf e 1, b)] (afOf e 3) out) s))))
      (.hmulp, natHmulp, [.ct, .pt], .ntt, false) 0 W3 W3 (OO hdr0 pt) 1 18 t0 hdr0 pt) ∧
    -- clause 5
    ((fun (sh : Fin 64) (w e : Cmd) (s : State) (tid : Nat) (t : Task) (a b c d g : Hdr) =>
      Issues s sh tid t ∧
      Quiet s sh ∧
      Effective (natSbeaver sh w) s sh tid t w e ∧
      (let as := [afOf e 0, afOf e 1, afOf e 2, opcF e 23 0, opcF e 47 24];
      let hs := [a, b, c, d, g];
      Answers (heads sh tid t.ctx as) s hs s ∧
      Passes (rows2to5 t hs .same) s ∧
      Passes (step3 hs [.share, .share, .share, .pt, .pt] false) s ∧
      (let out := outHdr hs 1 a.level 0;
      Passes (place sh tid t.ctx (as.zip hs) (afOf e 3) out) s)))
      0 WB WB OB 1 t0 shr shr shr pt pt) ∧
    -- clause 6
    ((fun (sh : Fin 64) (w e : Cmd) (s : State) (tid : Nat) (t : Task) (a : Hdr) =>
      Issues s sh tid t ∧
      Quiet s sh ∧
      Effective (natLvldrop sh w) s sh tid t w e ∧
      Answers (heads sh tid t.ctx [afOf e 0]) s [a] s ∧
      Passes (rows2to5 t [a] .any) s ∧
      Passes (step3 [a] [.obj] true) s ∧
      a.scheme ≠ bfv ∧
      (let n := immF e 5 0;
      n ≤ a.level ∧
      (let out := outHdr [a] a.comps (a.level - n) a.scale;
      Passes (place sh tid t.ctx [(afOf e 0, a)] (afOf e 3) out) s)))
      0 (cmd 0 1 0 (two 0 8192)) (cmd 0 1 0 (two 0 8192)) (OO hdr0 hdr0) 1 t0 hdr0) := by
  refine ⟨?_, ?_, ?_, ?_, ?_, ?_⟩
  · exact ⟨issuesIs (by decide +kernel), by unfold Quiet; decide +kernel,
      by exact ⟨by decide +kernel, headPass rfl (by decide +kernel), okOf (by decide +kernel)⟩,
      by exact answersIs (by decide +kernel), by exact answersIs (by decide +kernel),
      by exact answersIs (by decide +kernel), by exact answersIs (by decide +kernel),
      by exact answersIs (by decide +kernel)⟩
  · exact ⟨issuesIs (by decide +kernel), by unfold Quiet; decide +kernel,
      by exact ⟨by decide +kernel, headPass rfl (by decide +kernel), okOf (by decide +kernel)⟩,
      by exact answersIs (by decide +kernel), by exact answersIs (by decide +kernel),
      by exact answersIs (by decide +kernel), by exact answersIs (by decide +kernel)⟩
  · exact ⟨issuesIs (by decide +kernel), by unfold Quiet; decide +kernel,
      by exact ⟨by decide +kernel, headPass rfl (by decide +kernel), okOf (by decide +kernel)⟩,
      by exact answersIs (by decide +kernel), by exact answersIs (by decide +kernel),
      by exact answersIs (by decide +kernel), by decide +kernel, by exact answersIs (by decide +kernel),
      by exact answersIs (by decide +kernel)⟩
  · exact ⟨issuesIs (by decide +kernel), by unfold Quiet; decide +kernel,
      by exact ⟨by decide +kernel, headPass rfl (by decide +kernel), okOf (by decide +kernel)⟩,
      by exact answersIs (by decide +kernel), by exact answersIs (by decide +kernel),
      by exact answersIs (by decide +kernel), by decide +kernel,
      by (try dsimp only); (first | (intro h; exact absurd h (by decide +kernel)) | (intro _; exact answersIs (by decide +kernel))),
      by exact answersIs (by decide +kernel)⟩
  · exact ⟨issuesIs (by decide +kernel), by unfold Quiet; decide +kernel,
      by exact ⟨by decide +kernel, headPass rfl (by decide +kernel), okOf (by decide +kernel)⟩,
      by exact answersIs (by decide +kernel), by exact answersIs (by decide +kernel),
      by exact answersIs (by decide +kernel), by exact answersIs (by decide +kernel)⟩
  · exact ⟨issuesIs (by decide +kernel), by unfold Quiet; decide +kernel,
      by exact ⟨by decide +kernel, headPass rfl (by decide +kernel), okOf (by decide +kernel)⟩,
      by exact answersIs (by decide +kernel), by exact answersIs (by decide +kernel),
      by exact answersIs (by decide +kernel), by decide +kernel, by decide +kernel,
      by exact answersIs (by decide +kernel)⟩

/-- `Obligations.ProductAndSwitchCommands`: a state and operands that meet the hypotheses, clause by clause. -/
theorem test_productAndSwitchCommands :
    -- clause 1
    ((fun (sh : Fin 64) (w e : Cmd) (s : State) (tid scale : Nat) (t : Task) (a b : Hdr) =>
      Issues s sh tid t ∧
      Quiet s sh ∧
      Effective (natHmul sh w) s sh tid t w e ∧
      Answers (heads sh tid t.ctx [afOf e 0, afOf e 1]) s [a, b] s ∧
      Passes (rows2to5 t [a, b] .ntt) s ∧
      Passes (step3 [a, b] [.ct, .ct] true) s ∧
      a.comps = 2 ∧
      b.comps = 2 ∧
      (let ch := chainOf t a;
      (a.scheme = bfv → a.level + 2 ≤ ch.special) ∧
      Answers (mulScale ch [a, b] a.level a.scale b.scale) s scale s ∧
      (let out := outHdr [a, b] 3 a.level scale;
      Passes (place sh tid t.ctx [(afOf e 0, a), (afOf e 1, b)] (afOf e 3) out) s)))
      0 W3 W3 (OO hdr0 hdr0) 1 18 t0 hdr0 hdr0) ∧
    -- clause 2
    ((fun (sh : Fin 64) (w e : Cmd) (s : State) (tid scale : Nat) (t : Task) (a : Hdr) =>
      Issues s sh tid t ∧
      Quiet s sh ∧
      Effective (natRescale sh w) s sh tid t w e ∧
      Answers (heads sh tid t.ctx [afOf e 0]) s [a] s ∧
      Passes (rows2to5 t [a] .ntt) s ∧
      Passes (step3 [a] [.ct] true) s ∧
      a.level ≠ 0 ∧
      (let ch := chainOf t a;
      Answers (rescaleScale ch a) s scale s ∧
      (let out := outHdr [a] a.comps (a.level - 1) scale;
      Passes (place sh tid t.ctx [(afOf e 0, a)] (afOf e 3) out) s)))
      0 W2 W2 (OO {hdr0 with scale := 1400000} hdr0) 1
      (valueOf (rescaleScale ch0 {hdr0 with scale := 1400000}) s0 0) t0 {hdr0 with scale := 1400000}) := by
  refine ⟨?_, ?_⟩
  · exact ⟨issuesIs (by decide +kernel), by unfold Quiet; decide +kernel,
      by exact ⟨by decide +kernel, headPass rfl (by decide +kernel), okOf (by decide +kernel)⟩,
      by exact answersIs (by decide +kernel), by exact answersIs (by decide +kernel),
      by exact answersIs (by decide +kernel), by decide +kernel, by decide +kernel, by decide +kernel,
      by exact answersIs (by decide +kernel), by exact answersIs (by decide +kernel)⟩
  · exact ⟨issuesIs (by decide +kernel), by unfold Quiet; decide +kernel,
      by exact ⟨by decide +kernel, headPass rfl (by decide +kernel), okOf (by decide +kernel)⟩,
      by exact answersIs (by decide +kernel), by exact answersIs (by decide +kernel),
      by exact answersIs (by decide +kernel), by decide +kernel, by exact answersIs (by decide +kernel),
      by exact answersIs (by decide +kernel)⟩

end Schemes

/-! ## Products and key switches -/

namespace Switches

def hr : Hdr := {hdr0 with comps := 3}

def sR := withKeys (objs [(0, hr)])

def kr := valueOf (keyIdentity t0 1 1 0 1 (some hr)) sR ⟨slotOf 0 0, keyHdrOf 0, ch0⟩

def WR := cmd 1 0 0 (two 20480 8192) (64*256)

/-- `Obligations.ProductAndSwitchCommands`: a state and operands that meet the hypotheses, clause by clause. -/
theorem test_productAndSwitchCommands :
    -- clause 4
    (fun (sh : Fin 64) (w e : Cmd) (s : State) (tid : Nat) (t : Task) =>
      Issues s sh tid t ∧
      Effective (natBoot sh w) s sh tid t w e ∧
      cf e 20 16 ≤ 16 ∧
      (cf e 22 21 = 1 ∨ cf e 22 21 = 2) ∧
      (cf e 24 23 = 1 ∨ cf e 24 23 = 2) ∧
      e.imm.getLsbD (crewOf sh) = true)
      0 (cmd (3+32+128) 1 64 128 (2^17*5)) (cmd (3+32+128) 1 64 128 (2^17*5)) s0 1 t0 := by
  exact ⟨issuesIs (by decide +kernel),
      by exact ⟨by decide +kernel, headPass rfl (by decide +kernel), okOf (by decide +kernel)⟩, by decide +kernel,
      by decide +kernel, by decide +kernel, by decide +kernel⟩

/-- `Obligations.ProductAndSwitchCommands`: a state and operands that meet the hypotheses of clause 3. -/
theorem test_productAndSwitchCommands_c3 :
    (fun (z : (Fin 64 → Cmd → Instr) × (Fin 64 → Cmd → Native) × Nat) (sh : Fin 64) (w e : Cmd) (s : State) (tid
        : Nat) (t : Task) (a : Hdr) (k : FoundKey) =>
      Issues s sh tid t ∧
      Effective (z.2.1 sh w) s sh tid t w e ∧
      Quiet s sh ∧
      Answers (heads sh tid t.ctx [afOf e 0]) s [a] s ∧
      Passes (rows2to5 t [a] .ntt) s ∧
      Passes (step3 [a] [.ct] true) s ∧
      (let kind := z.2.2;
      a.comps = (if kind = kindRelin then 3 else 2) ∧
      (let g := immF e 17 0;
      (kind = kindGalois → galoisOk a.logN g = true) ∧
      ((s.shell sh).ks0 = none ∨ (s.shell sh).ks1 = none) ∧
      Answers (keyIdentity t (cf e 25 16) kind g a.level (some a)) s k s ∧
      ∃ (s1 : State),
      Answers (keySource sh tid t (cf e 25 16) k none) s () s1 ∧
      (let ch := k.chain;
      (let E := a.level + 1 + ch.special;
      (let work : Work := { a := afOf e 2, n := opcF e 18 0, needs := (k.hdr.digits a.level + 2) * E * limbLines a.logN };
      (let out := outHdr [a] 2 a.level a.scale;
      Passes (place sh tid t.ctx [(afOf e 0, a)] (afOf e 3) out (some work)) s1 ∧
      ∃ (s2 : State) (streamer : Nat),
      Answers (streamerOf t.ctx sh k.slot) s1 streamer s2 ∧
      Quiet s2 sh ∧
      (s2.shell sh).sp = (s.shell sh).sp ∧
      streamerFree s2 streamer = true ∧
      ∃ (s3 : State),
      Answers (scramble sh (addrLine work.a) work.needs) s2 () s3 ∧
      (let x := if kind = kindGalois then (polysAt s sh (afOf e 0) a).map fun p => p.zipIdx.map fun l =>
          xformLimb .auto true (ch.mod l.2) ch.maxLogN a.logN g l.1 else polysAt s sh (afOf e 0) a;
      ∃ (s4 : State) (y : Poly × Poly),
      Answers (keySwitch ch k.hdr a.level (x.getLastD []) (memoryPair sh t.ctx k)) (noteSwitch sh ch k.hdr
          a.level s3) y s4 ∧
      Quiet s4 sh ∧
      Unstopped s4 sh))))))))
      (.relin, natRelin, kindRelin) 0 WR WR sR 1 t0 hr kr := by
  exact ⟨issuesIs (by decide +kernel), ⟨by decide +kernel, headPass rfl (by decide +kernel), okOf (by
    decide +kernel)⟩, by unfold Quiet; decide +kernel, answersIs (by decide +kernel), answersIs (by
    decide +kernel), answersIs (by decide +kernel), by decide +kernel, by decide +kernel, by decide +kernel,
    answersIs (by decide +kernel), _, okEq1 (by decide +kernel), answersIs (by decide +kernel), _, _, okEq (by
    decide +kernel), by unfold Quiet; decide +kernel, by decide +kernel, by decide +kernel, _, okEq1 (by
    decide +kernel), _, _, okEq (by decide +kernel), by unfold Quiet; decide +kernel,
    by unfold Unstopped; decide +kernel⟩

end Switches

/-! ## The vector engine -/

namespace Vectors

def dOp (n : Nat) (e : Cmd) := valueOf (takeOperand 0 1 1 0 e.opb.toNat n 16 false) sVec ⟨descOf 0, none, false⟩

def eL := cmd 0 6 (cop 0 8 3) (2^32 + 2 * 2^56)

/-- `Obligations.VectorCommands`: a state and operands that meet the hypotheses, clause by clause. -/
theorem test_vectorCommands :
    -- clause 1
    ((fun (z : (Fin 64 → Cmd → Instr) × VOp × (Fin 64 → Cmd → Native)) (sh : Fin 64) (w e : Cmd) (s : State) (tid :
        Nat) (t : Task) =>
      Issues s sh tid t ∧
      Effective (z.2.2 sh w) s sh tid t w e ∧
      (let o := z.2.1;
      let x := (s.shell sh).vec;
      Passes (vecHead x.fore e (0 :: o.srcs)) s ∧
      (let td := (cacheOp e 0).type;
      let ts := o.srcs.map fun k => (cacheOp e k).type;
      kindsFit (td :: ts) (o ≠ .fma) = true ∧
      (let n := vcount e;
      (∀ k ∈ 0 :: o.srcs, Passes (cacheRange e k n) s) ∧
      (∀ k ∈ o.srcs, Passes (cacheOverlap e 0 n k n) s)))))
      (.vadd, .add, natVadd) 0 (cmd 0 5 (cop 0 8 3 + cop 1 1 3 + cop 2 2 4))
      (cmd 0 5 (cop 0 8 3 + cop 1 1 3 + cop 2 2 4)) sVec 1 t0) ∧
    -- clause 2
    ((fun (sh : Fin 64) (w e : Cmd) (s : State) (tid : Nat) (t : Task) =>
      Issues s sh tid t ∧
      Effective (natVcvt sh w) s sh tid t w e ∧
      (let x := (s.shell sh).vec;
      Passes (vecHead x.fore e [0, 1]) s ∧
      (let n := vcount e;
      Passes (cacheRange e 0 n) s ∧
      Passes (cacheRange e 1 n) s ∧
      Passes (cacheOverlap e 0 n 1 n) s)))
      0 (cmd 1 7 (cop 0 8 3 + cop 1 1 8)) (cmd 1 7 (cop 0 8 3 + cop 1 1 8)) sVec 1 t0) ∧
    -- clause 3
    ((fun (z : (Fin 64 → Cmd → Instr) × (Fin 64 → Cmd → Native) × List Nat) (sh : Fin 64) (w e : Cmd) (s : State) (tid
        : Nat) (t : Task) =>
      Issues s sh tid t ∧
      Effective (z.2.1 sh w) s sh tid t w e ∧
      (let ks := z.2.2;
      let red := if ks = [1] then cf e 20 19 else 0;
      red ≠ 3 ∧
      (let x := (s.shell sh).vec;
      Passes (vecHead x.fore e (0 :: ks)) s ∧
      kindsFit ((cacheOp e 0).type :: ks.map fun k => (cacheOp e k).type) true = true ∧
      Passes (cacheRange e 0 1) s ∧
      (let n := vcount e;
      (∀ k ∈ ks, Passes (cacheRange e k n) s ∧ Passes (cacheOverlap e 0 1 k n) s)))))
      (.vred, natVred, [1]) 0 (cmd 8 7 (cop 0 8 3 + cop 1 1 8)) (cmd 8 7 (cop 0 8 3 + cop 1 1 8)) sVec 1 t0) ∧
    -- clause 4
    ((fun (sh : Fin 64) (w e : Cmd) (s : State) (tid : Nat) (t : Task) =>
      Issues s sh tid t ∧
      Effective (natVupd sh w) s sh tid t w e ∧
      (let x := (s.shell sh).vec;
      Passes (vecHead x.fore e (updOps e)) s ∧
      (let p := cacheOp e 1;
      (p.type = tE9M6 ∨ p.type = tE8M7) ∧
      isFloat (cacheOp e 2).type = true ∧
      (let n := vcount e;
      (∀ k ∈ updOps e, Passes (cacheRange e k n) s) ∧
      Passes (cacheOverlap e 1 n 2 n) s ∧
      (let r := cacheOp e 3;
      let rem : Bool := cf e 21 21 = 0;
      (rem = true → r.type = tI16 ∧ x.fore = false ∧ Passes (cacheOverlap e 3 n 2 n) s ∧ (p.row + rowsOf p.type n ≤
          r.row ∨ r.row + rowsOf tI16 n ≤ p.row)))))))
      0 (cmd 1 7 (cop 1 1 3 + cop 2 2 4+cop 3 3 2)) (cmd 1 7 (cop 1 1 3 + cop 2 2 4+cop 3 3 2)) sVec 1 t0) ∧
    -- clause 5
    ((fun (sh : Fin 64) (w e : Cmd) (s : State) (tid : Nat) (t : Task) =>
      Issues s sh tid t ∧
      Effective (natVseed sh w) s sh tid t w e)
      0 (cmd 0 0 0 0 99) (cmd 0 0 0 0 99) sVec 1 t0) ∧
    -- clause 6
    ((fun (sh : Fin 64) (w e : Cmd) (s : State) (tid : Nat) (t : Task) =>
      Issues s sh tid t ∧
      Effective (natVmode sh w) s sh tid t w e ∧
      immF e 7 0 ≤ 1)
      0 (cmd 0 1) (cmd 0 1) sVec 1 t0) := by
  refine ⟨?_, ?_, ?_, ?_, ?_, ?_⟩
  · exact ⟨issuesIs (by decide +kernel),
      by exact ⟨by decide +kernel, headPass rfl (by decide +kernel), okOf (by decide +kernel)⟩,
      by exact answersIs (by decide +kernel), by decide +kernel, by exact allPass (by decide +kernel),
      by exact allPass (by decide +kernel)⟩
  · exact ⟨issuesIs (by decide +kernel),
      by exact ⟨by decide +kernel, headPass rfl (by decide +kernel), okOf (by decide +kernel)⟩,
      by exact answersIs (by decide +kernel), by exact answersIs (by decide +kernel),
      by exact answersIs (by decide +kernel), by exact answersIs (by decide +kernel)⟩
  · exact ⟨issuesIs (by decide +kernel),
      by exact ⟨by decide +kernel, headPass rfl (by decide +kernel), okOf (by decide +kernel)⟩, by decide +kernel,
      by exact answersIs (by decide +kernel), by decide +kernel, by exact answersIs (by decide +kernel),
      by exact allPass2 (by decide +kernel)⟩
  · exact ⟨issuesIs (by decide +kernel),
      by exact ⟨by decide +kernel, headPass rfl (by decide +kernel), okOf (by decide +kernel)⟩,
      by exact answersIs (by decide +kernel), by decide +kernel, by decide +kernel,
      by exact allPass (by decide +kernel), by exact answersIs (by decide +kernel),
      by (try dsimp only); (first | (intro h; exact absurd h (by decide +kernel)) | (intro _; exact ⟨by decide +kernel, by decide +kernel, by exact answersIs (by decide +kernel), by decide +kernel⟩))⟩
  · exact ⟨issuesIs (by decide +kernel),
      by exact ⟨by decide +kernel, headPass rfl (by decide +kernel), okOf (by decide +kernel)⟩⟩
  · exact ⟨issuesIs (by decide +kernel),
      by exact ⟨by decide +kernel, headPass rfl (by decide +kernel), okOf (by decide +kernel)⟩, by decide +kernel⟩

/-- `Obligations.VectorCommands`: a state and operands that meet the hypotheses of clause 7. -/
theorem test_vectorCommands_c7 :
    (fun (sh : Fin 64) (w e : Cmd) (s s4 : State) (tid : Nat) (t : Task) (o : Operand) (us : List Nat) =>
      Issues s sh tid t ∧
      Effective (natVload sh w) s sh tid t w e ∧
      (let x := (s.shell sh).vec;
      Passes (vecHead x.fore e [0]) s ∧
      (let n := vcount e;
      Answers (takeOperand sh tid t.ctx e.form.toNat e.opb.toNat n 16 false) s o s ∧
      (let deq : Bool := cf e 18 18 = 1;
      ∃ (s1 : State),
      Answers (checkOperand sh tid t.ctx o false false (if deq then [2] else [0, 1])) s () s1 ∧
      Passes (vecTensor o.d n x.fore) s1 ∧
      (deq = true → isFloat (cacheOp e 0).type = true) ∧
      Passes (cacheRange e 0 n) s1 ∧
      ∃ (s2 : State) (es : List (Nat × Nat × Nat × Nat)),
      Answers (readList sh o.d false) s1 es s2 ∧
      (let cs := firstElems o.d es n;
      ∃ (s3 : State) (xs : List Nat),
      Answers (readFields sh t.ctx o.d.space o.d.shell 0 (elemWidth o.d.etype) (cs.map fun i => (bitAt o.d
          (offsetAt o.d i)).toNat)) s2 xs s3 ∧
      (deq = false → us = xs.map (fun _ => 0) ∧ s4 = s3) ∧
      (deq = true → Answers (readFields sh t.ctx o.d.space o.d.shell 0 8 (cs.map (scaleBit o.d))) s3 us
          s4))))))
      0 eL eL sVec sVec 1 t0 (dOp 6 eL) [0,0,0,0,0,0] := by
  exact ⟨issuesIs (by decide +kernel), ⟨by decide +kernel, headPass rfl (by decide +kernel), okOf (by
    decide +kernel)⟩, answersIs (by decide +kernel), answersIs (by decide +kernel), _, okEq1 (by
    decide +kernel), answersIs (by decide +kernel), by decide +kernel, answersIs (by decide +kernel), _, _,
    okEq (by decide +kernel), _, _, okEq (by decide +kernel), by decide +kernel,
    by intro h; exact absurd h (by decide +kernel)⟩

/-- `Obligations.VectorCommands`: a state and operands that meet the hypotheses of clause 8. -/
theorem test_vectorCommands_c8 :
    (fun (sh : Fin 64) (w e : Cmd) (s : State) (tid : Nat) (t : Task) (o : Operand) =>
      Issues s sh tid t ∧
      Effective (natVstore sh w) s sh tid t w e ∧
      (let x := (s.shell sh).vec;
      Passes (vecHead x.fore e [1]) s ∧
      (let n := vcount e;
      Answers (takeOperand sh tid t.ctx e.form.toNat e.opb.toNat n 16 true) s o s ∧
      ∃ (s1 : State),
      Answers (checkOperand sh tid t.ctx o true false [0]) s () s1 ∧
      Passes (vecTensor o.d n x.fore) s1 ∧
      Passes (cacheRange e 1 n) s1 ∧
      ∃ (s2 : State) (es : List (Nat × Nat × Nat × Nat)),
      Answers (readList sh o.d true) s1 es s2 ∧
      (let ys := (storeRun sh e o.d.etype (s2.shell sh).vec).1;
      ∃ (s3 : State),
      Answers (writeFields sh t.ctx o.d.space o.d.shell (elemWidth o.d.etype) (((firstElems o.d es n).zip
          ys).map fun z => ((bitAt o.d (offsetAt o.d z.1)).toNat, z.2))) s2 () s3))))
      0 (cmd 0 6 (cop 1 1 3) (7 + 2^32 + 4 * 2^56)) (cmd 0 6 (cop 1 1 3) (7 + 2^32 + 4 * 2^56)) sVec 1 t0
      (dOp 6 (cmd 0 6 (cop 1 1 3) (7 + 2^32 + 4 * 2^56))) := by
  exact ⟨issuesIs (by decide +kernel), ⟨by decide +kernel, headPass rfl (by decide +kernel), okOf (by
    decide +kernel)⟩, answersIs (by decide +kernel), answersIs (by decide +kernel), _, okEq1 (by
    decide +kernel), answersIs (by decide +kernel), answersIs (by decide +kernel), _, _, okEq (by
    decide +kernel), _, okEq1 (by decide +kernel)⟩

end Vectors

/-! ## Tensors, caches and windows -/

namespace Tensors

def encD (lform : Nat) : Nat := 1 + 2^8*12 + 2^13*2 + 2^19 + 2^21*lform + 2^26*1 + 2^32*2 + 2^36*3 + 2^64*512 +
    2^88*1024 + 2^128*9 + (if lform = 1 then 2^256*5 else 0)

def sE (l : Nat) := withLine 300 (encD l) sData

def rv (s : Machine.State) (a : Nat) := valueOf (readVector 0 2 a 4 3) s []

def wT := cmd 0 7 (2^32 + 2^57) (4096 + 2^32 + 2^57)

/-- The same copy, asynchronous, with counter 5. -/
def wTa := cmd (1 + 2 * 5) 7 (2^32 + 2^57) (4096 + 2^32 + 2^57)

def oa := valueOf (takeOperand 0 1 1 0 wT.opa.toNat 7 8 false) sData ⟨descOf 0, none, false⟩

def ob := valueOf (takeOperand 0 1 1 0 wT.opb.toNat 7 16 true) sData ⟨descOf 0, none, false⟩

def sP := withLine 300 (descNum (matrix 0 3 5)) (withLine 301 (descNum (matrix 4096 5 3)) sData)

def wP := cmd 0 (1 + 4*0 + 16*2 + 64*3) 300 301 0 1

def pa := valueOf (takeOperand 0 1 1 1 300 0 8 false) sP ⟨descOf 0, none, false⟩

def pb := valueOf (takeOperand 0 1 1 1 301 0 16 true) sP ⟨descOf 0, none, false⟩

def sM := (sP.modShell 0 fun x => {x with maint := true, handles := [(4, ⟨1, matrix 0 1 1, []⟩)]})

def sC := s0.modShell 0 fun x => {x with tags := [(0, ⟨2, .A, 0⟩), (5, ⟨2, .A, 70⟩)], cacheEff := 1}

def wd : Nat := 5 + 2^12*9 + 2^25 + 2^26+2^27 + 2^28*15 + 2^64*6 + 2^128

def sW := withLine 300 wd s0

def sWO := s0.modShell 0 fun x =>
    {x with windows := [(3, {base := 5, len := 1, rd := true, wr := false, keep := false, shells := 6, peers := 0, task := 1, ctx := 1, inst := 1})]}

/-- `Obligations.TensorCacheAndWindowCommands`: a state and operands that meet the hypotheses, clause by clause. -/
theorem test_tensorCacheAndWindowCommands_1 :
    -- clause 1
    ((fun (sh : Fin 64) (w e : Cmd) (s : State) (tid : Nat) (t : Task) (re im : List (Int × Int)) =>
      Issues s sh tid t ∧
      Quiet s sh ∧
      Effective (natEncode sh w) s sh tid t w e ∧
      Within s sh tid t (afOf e 0) 1 ∧
      (let v := spLine s sh (afOf e 0);
      let d := encDescOf v;
      (d.lform && d.mask = 0) = false ∧
      encDescBad v = none ∧
      hdrFits t.snap (encHdr d) = true ∧
      (let ch := chainOf t (encHdr d);
      (d.lform = true → d.mask < 2 ^ ch.K) ∧
      (let n := vecLines d.etype d.count;
      Within s sh tid t d.reLine n ∧
      (d.cplx = true → Within s sh tid t d.imLine n) ∧
      (let idx := if d.lform then setBits d.mask 64 else List.range (d.level + 1);
      let dst := afOf e 3;
      let out := idx.length * limbLines d.logN + (if d.lform then 0 else 1);
      Within s sh tid t dst out ∧
      linesMeet (addrLine dst) out (addrLine d.reLine) n = none ∧
      (d.cplx = true → linesMeet (addrLine dst) out (addrLine d.imLine) n = none) ∧
      Answers (readVector sh d.etype d.reLine d.count d.xexp) s re s ∧
      (d.cplx = true → Answers (readVector sh d.etype d.imLine d.count d.xexp) s im s) ∧
      (d.cplx = false → im = []))))))
      0 (cmd 0 0 300 (two 0 4096)) (cmd 0 0 300 (two 0 4096)) (sE 0) 1 t0 (rv (sE 0) 512) (rv (sE 0) 1024)) ∧
    -- clause 4
    ((fun (sh : Fin 64) (w e : Cmd) (s : State) (tid : Nat) (t : Task) =>
      Issues s sh tid t ∧
      Quiet s sh ∧
      Effective (natTdescCreate sh w) s sh tid t w e ∧
      (s.shell sh).maint = true ∧
      tfind (s.shell sh).handles (cf e 23 16) = none ∧
      Within s sh tid t (afOf e 0) 1 ∧
      (let v := spLine s sh (afOf e 0);
      let d := descOf v;
      ∃ (u : State), Answers (checkDesc sh tid t.ctx (some v) d d.wr true [0, 1, 2]) s () u))
      0 (cmd 3 0 300) (cmd 3 0 300) sM 1 t0) ∧
    -- clause 5
    ((fun (sh : Fin 64) (w e : Cmd) (s : State) (tid : Nat) (t : Task) =>
      Issues s sh tid t ∧
      Effective (natTdescFree sh w) s sh tid t w e ∧
      (s.shell sh).maint = true)
      0 (cmd 4 0) (cmd 4 0) sM 1 t0) ∧
    -- clause 6
    ((fun (sh : Fin 64) (w e : Cmd) (s : State) (tid : Nat) (t : Task) =>
      Issues s sh tid t ∧
      Effective (natScacheInv sh w) s sh tid t w e ∧
      cf w 16 16 = 0)
      0 (cmd 0) (cmd 0) sC 1 t0) ∧
    -- clause 7
    ((fun (sh : Fin 64) (w e : Cmd) (s : State) (tid : Nat) (t : Task) =>
      Issues s sh tid t ∧
      Effective (natScacheInv sh w) s sh tid t w e ∧
      cf w 16 16 = 1 ∧
      (cf e 18 17 = 1 ∨ cf e 18 17 = 2))
      0 (cmd 5 0 4096 4096) (cmd 5 0 4096 4096) sC 1 t0) ∧
    -- clause 8
    ((fun (sh : Fin 64) (w e : Cmd) (s : State) (tid : Nat) (t : Task) (r : Region) =>
      Issues s sh tid t ∧
      Quiet s sh ∧
      Effective (natWinOpen sh w) s sh tid t w e ∧
      Within s sh tid t (afOf e 0) 1 ∧
      (let v := spLine s sh (afOf e 0);
      let len := bits v 24 12;
      len ≠ 0 ∧
      winBad (s.shell sh) v = none ∧
      (let base := bits v 11 0;
      oneRegion (s.shell sh) tid t.ctx (72 * 64 * base) (72 * 64 * (base + len)) = true ∧
      regionAt (s.shell sh) tid t.ctx (64 * base) = some r ∧
      (v.testBit 27 = true → r.scope = true))))
      0 (cmd 0 0 300) (cmd 0 0 300) sW 1 t0
      {base := 0, len := 4096, scope := true, strong := false, ctx := 1, task := none, inst := 1}) := by
  refine ⟨?_, ?_, ?_, ?_, ?_, ?_⟩
  · exact ⟨issuesIs (by decide +kernel), by unfold Quiet; decide +kernel,
      by exact ⟨by decide +kernel, headPass rfl (by decide +kernel), okOf (by decide +kernel)⟩,
      by unfold Within; decide +kernel, by decide +kernel, by decide +kernel, by decide +kernel, by decide +kernel,
      by unfold Within; decide +kernel, by unfold Within; decide +kernel, by unfold Within; decide +kernel,
      by decide +kernel, by decide +kernel, by exact answersIs (by decide +kernel),
      by (first | (intro h; exact absurd h (by decide +kernel)) | (intro _; exact answersIs (by decide +kernel))),
      by decide +kernel⟩
  · exact ⟨issuesIs (by decide +kernel), by unfold Quiet; decide +kernel,
      by exact ⟨by decide +kernel, headPass rfl (by decide +kernel), okOf (by decide +kernel)⟩, by decide +kernel,
      by decide +kernel, by unfold Within; decide +kernel, _, okEq1 (by decide +kernel)⟩
  · exact ⟨issuesIs (by decide +kernel),
      by exact ⟨by decide +kernel, headPass rfl (by decide +kernel), okOf (by decide +kernel)⟩, by decide +kernel⟩
  · exact ⟨issuesIs (by decide +kernel),
      by exact ⟨by decide +kernel, headPass rfl (by decide +kernel), okOf (by decide +kernel)⟩, by decide +kernel⟩
  · exact ⟨issuesIs (by decide +kernel),
      by exact ⟨by decide +kernel, headPass rfl (by decide +kernel), okOf (by decide +kernel)⟩, by decide +kernel,
      by decide +kernel⟩
  · exact ⟨issuesIs (by decide +kernel), by unfold Quiet; decide +kernel,
      by exact ⟨by decide +kernel, headPass rfl (by decide +kernel), okOf (by decide +kernel)⟩,
      by unfold Within; decide +kernel, by decide +kernel, by decide +kernel, by decide +kernel, by decide +kernel,
      by decide +kernel⟩

/-- `Obligations.TensorCacheAndWindowCommands`: a state and operands that meet the hypotheses, clause by clause. -/
theorem test_tensorCacheAndWindowCommands_2 :
    -- clause 9
    ((fun (sh : Fin 64) (w e : Cmd) (s : State) (tid : Nat) (t : Task) =>
      Issues s sh tid t ∧
      Effective (natWinClose sh w) s sh tid t w e ∧
      (let k := cf e 19 16;
      bootEntry (s.shell sh) k = false ∧
      (∀ x, tfind (s.shell sh).windows k = some x → x.task = tid ∨ (x.keep = true ∧ x.ctx = t.ctx))))
      0 (cmd 3) (cmd 3) sWO 1 t0) ∧
    -- clause 10
    ((fun (sh : Fin 64) (w e : Cmd) (s : State) (tid : Nat) (t : Task) =>
      Issues s sh tid t ∧
      Effective (natHint sh w) s sh tid t w e ∧
      (cf e 17 16 = 1 ∨ cf e 17 16 = 2))
      0 (cmd 2 5 77) (cmd 2 5 77) s0 1 t0) := by
  refine ⟨?_, ?_⟩
  · exact ⟨issuesIs (by decide +kernel),
      by exact ⟨by decide +kernel, headPass rfl (by decide +kernel), okOf (by decide +kernel)⟩, by decide +kernel,
      by decide +kernel⟩
  · exact ⟨issuesIs (by decide +kernel),
      by exact ⟨by decide +kernel, headPass rfl (by decide +kernel), okOf (by decide +kernel)⟩, by decide +kernel⟩

/-- `Obligations.TensorCacheAndWindowCommands`: a state and operands that meet the hypotheses of clause 2. -/
theorem test_tensorCacheAndWindowCommands_c2s :
    (fun (sh : Fin 64) (w e : Cmd) (s : State) (tid : Nat) (t : Task) (a b : Operand) =>
      Issues s sh tid t ∧
      Effective (natTcopy sh w) s sh tid t w e ∧
      (let form := e.form.toNat;
      (let n := immF e 23 0;
      Answers (takeOperand sh tid t.ctx form e.opa.toNat n 8 false) s a s ∧
      ∃ (s1 : State),
      Answers (checkOperand sh tid t.ctx a false true [0, 1, 2]) s () s1 ∧
      Answers (takeOperand sh tid t.ctx form e.opb.toNat n 16 true) s1 b s1 ∧
      ∃ (s2 : State),
      Answers (checkOperand sh tid t.ctx b true true [0, 1, 2]) s1 () s2 ∧
      Passes (copyRules a.d b.d) s2 ∧
      Passes (overlapRule b.d a.d) s2 ∧
      cf e 16 16 = 0 ∧
      Unstopped s2 sh ∧
      ∃ (u : State),
      Answers (moveElems sh t.ctx 0 a.d b.d) s2 () u)))
      0 wT wT sData 1 t0 oa ob := by
  exact ⟨issuesIs (by decide +kernel), ⟨by decide +kernel, headPass rfl (by decide +kernel), okOf (by
    decide +kernel)⟩, answersIs (by decide +kernel), _, okEq1 (by decide +kernel), answersIs (by
    decide +kernel), _, okEq1 (by decide +kernel), answersIs (by decide +kernel), answersIs (by
    decide +kernel), by decide +kernel, by unfold Unstopped; decide +kernel, _, okEq1 (by decide +kernel)⟩

/-- `Obligations.TensorCacheAndWindowCommands`: a state and operands that meet the hypotheses of clause 2. -/
theorem test_tensorCacheAndWindowCommands_c2a :
    (fun (sh : Fin 64) (w e : Cmd) (s : State) (tid : Nat) (t : Task) (a b : Operand) =>
      Issues s sh tid t ∧
      Effective (natTcopy sh w) s sh tid t w e ∧
      (let form := e.form.toNat;
      (let n := immF e 23 0;
      Answers (takeOperand sh tid t.ctx form e.opa.toNat n 8 false) s a s ∧
      ∃ (s1 : State),
      Answers (checkOperand sh tid t.ctx a false true [0, 1, 2]) s () s1 ∧
      Answers (takeOperand sh tid t.ctx form e.opb.toNat n 16 true) s1 b s1 ∧
      ∃ (s2 : State),
      Answers (checkOperand sh tid t.ctx b true true [0, 1, 2]) s1 () s2 ∧
      Passes (copyRules a.d b.d) s2 ∧
      Passes (overlapRule b.d a.d) s2 ∧
      cf e 16 16 = 1 ∧
      counterFree s2 tid t.ctx (cf e 24 17) = true ∧
      (copyQueue (s2.shell sh) (inbound sh b.d)).length < copyMax)))
      0 wTa wTa sData 1 t0 oa ob := by
  exact ⟨issuesIs (by decide +kernel), ⟨by decide +kernel, headPass rfl (by decide +kernel), okOf (by
    decide +kernel)⟩, answersIs (by decide +kernel), _, okEq1 (by decide +kernel), answersIs (by
    decide +kernel), _, okEq1 (by decide +kernel), answersIs (by decide +kernel), answersIs (by
    decide +kernel), by decide +kernel, by decide +kernel, by decide +kernel⟩

/-- `Obligations.TensorCacheAndWindowCommands`: a state and operands that meet the hypotheses of clause 3. -/
theorem test_tensorCacheAndWindowCommands_c3 :
    (fun (sh : Fin 64) (w e : Cmd) (s : State) (tid : Nat) (t : Task) (a b : Operand) =>
      Issues s sh tid t ∧
      Effective (natTperm sh w) s sh tid t w e ∧
      (let form := e.form.toNat;
      form ≠ 0 ∧
      Answers (takeOperand sh tid t.ctx form e.opa.toNat 0 8 false) s a s ∧
      ∃ (s1 : State),
      Answers (checkOperand sh tid t.ctx a false true [0, 1]) s () s1 ∧
      Answers (takeOperand sh tid t.ctx form e.opb.toNat 0 16 true) s1 b s1 ∧
      ∃ (s2 : State),
      Answers (checkOperand sh tid t.ctx b true true [0, 1]) s1 () s2 ∧
      (let p := permOf e;
      Passes (permRules p a.d b.d) s2 ∧
      Passes (overlapRule b.d a.d) s2 ∧
      Unstopped s2 sh ∧
      (let k := permOp p a.d b.d;
      (let zs := permSwaps k;
      ∃ (u : State),
      (if coincide b.d a.d then permMoved p ≤ 2 ∧ Passes (needPlaces a.d.shell k.dest) s2 ∧ Answers
          ((List.range zs.length).forM fun i => swapPair sh t.ctx a.d.space (zs.getD i (0, 0, 0, 0))) s2 ()
          u else Answers ((List.range k.lines.length).forM (k.unit sh t.ctx 0)) s2 () u))))))
      0 wP wP sP 1 t0 pa pb := by
  exact ⟨issuesIs (by decide +kernel), ⟨by decide +kernel, headPass rfl (by decide +kernel), okOf (by
    decide +kernel)⟩, by decide +kernel, answersIs (by decide +kernel), _, okEq1 (by decide +kernel),
    answersIs (by decide +kernel), _, okEq1 (by decide +kernel), answersIs (by decide +kernel), answersIs (by
    decide +kernel), by unfold Unstopped; decide +kernel, _,
    by rw [if_neg (by decide +kernel)]; exact okEq1 (by decide +kernel)⟩

end Tensors

/-! ## Links, rings, tasks and semaphores -/

namespace Hosting

def sSnoop := sRing.modPort .A fun x => {x with snoop := true}

def dS := sRing.modRing 0 fun x => {x with notified := false}

def sRing2 := {sRing with portA := {sRing.portA with host := mput [] 200000 (leBytes 4 17)}}

def dS2 := sRing2.modRing 0 fun x => {x with notified := false}

def sOff := {sRing with rings := [(0, {ring0 with active := false, dbl := 200000 - 200000 % 64})]}

def sPre :=
    { withTasks [(1,{t0 with save := 4096}),(2,{t2 with shells := 1})] with clk := {s0.clk with now := 100000}}

def tY := {t0 with st := .yielding, save := 4096}

def sY := withTasks [(1, tY)]

theorem soundY : Sound sY := fun k => by
  unfold State.stack
  rw [show sY.stackTab = [] from by decide +kernel]
  exact ⟨rfl, rfl, rfl⟩

theorem Sound.message {k : MsgClass} {a b : Node} {n : Nat} {s : State} (h : Sound s) : Sound (s.message k a b n) := by
  unfold State.message
  split
  · exact h
  · exact fun j => h j

/-- A save slot is long; that it is stored does not depend on its bytes. -/
theorem saveGoes (bs : List Byte) (hl : bs.length = 267776) :
    ∃ u, (writeShell 0 1 1 (slotAddr tY 0) bs).go sY = (.ok (), u) := by
  have hx : (xlateAll (.shell 0) 1 1 (slotAddr tY 0) 267776 true).go sY = (.ok [(4096, 267776)], sY) :=
    answersIs (by decide +kernel)
  obtain ⟨u, hu⟩ := Sound.stackStore (s := sY.writeMsg (.shell 0) (.stack (stackOf 4096)) 267776) (pa := 4096) (bs := bs)
    (Sound.message (Sound.message soundY)) (by rw [hl]; decide +kernel)
  have hw := writeMem_onePage hl hx (by decide +kernel)
  rw [hu] at hw
  rw [← hl] at hx
  unfold writeMem at hw
  rw [Act.go_bind_of hx] at hw
  unfold writeShell
  rw [Act.go_bind_of hx, Act.go_bind_of hw]
  exact ⟨_, rfl⟩

theorem saves : ∃ u, ((heldBy sY 1).forM (saveShell 1 tY)).go sY = (.ok (), u) := by
  have hh : heldBy sY 1 = [0] := by decide +kernel
  obtain ⟨u, hu⟩ := saveGoes (saveSlotBytes sY 1 tY 0) (by
    have hb : lowBit tY.shells.toNat 64 = some 0 := by decide +kernel
    have hl : (lineBytes tY).length = 192 := by decide +kernel
    simp only [saveSlotBytes, savePart, hb, ↓reduceIte, List.length_append, List.length_map, List.length_range, hl])
  rw [hh, Act.go_forM_cons]
  have hs : (saveShell 1 tY 0).go sY = (writeShell 0 1 1 (slotAddr tY 0) (saveSlotBytes sY 1 tY 0)).go sY := by
    unfold saveShell
    rw [Act.go_bind_of (Act.go_get _)]
    rfl
  rw [hs, hu]
  exact ⟨_, rfl⟩

def tP :=
    {t0 with st := .preempted, save := 4096, saved := [(0, ⟨{shell0.stroke with idx := 5, wait := .counter 3 7 1}, Vec.reset, none⟩)]}

def sP := (withTasks [(1, tP)]).modShell 0 fun x => {x with holder := none}

def tN := {t2 with kind := 3}

def tL := {t0 with kind := 2, st := .admitted, shells := 0, prog := 4096, pspace := 2}

/-- A load after its first unit. -/
def ld0 : LoadRun := { point := 1, nops := 1, store := 8192, out := [1, 2, 3], place := [] }

def tLr := {tL with st := .running, load := some ld0}

def tLy := {tL with st := .yielding, load := some ld0}

def tE := {t0 with st := .ending, reported := 1}

def sE := withTasks [(1,tE)]

def sED := sE.modPort .A fun x => {x with linkUp := false}

def sCo :=
    {sRing with rings := [(0, {ring0 with uncovSince := some 10, uncov := 3, coalUs := 2})], clk := {s0.clk with now := 2010}}

def sS := {s0 with sems := [(5, ⟨some .A, .B⟩)]}

/-- `Obligations.DoorbellsAndDescriptors`: a state and operands that meet the hypotheses, clause by clause. -/
theorem test_doorbellsAndDescriptors :
    -- clause 1
    ((fun (p : Port) (f : Fin 32) (r : Fin 8) (s : State) =>
      (s.port p).snoop = true ∧
      ringLive (s.ring (ringKey p f r)) = true)
      .A 0 0 sSnoop) ∧
    -- clause 2
    ((fun (p : Port) (s : State) =>
      (s.port p).linkUp = true ∧
      (s.port p).snoop = false)
      .A sRing) := by
  refine ⟨?_, ?_⟩
  · exact ⟨by decide +kernel, by decide +kernel⟩
  · exact ⟨by decide +kernel, by decide +kernel⟩

/-- `Obligations.RingControls`: a state and operands that meet the hypotheses, clause by clause. -/
theorem test_ringControls :
    -- clause 1
    ((fun (p : Port) (f : Fin 32) (r : Fin 8) (s : State) =>
      let k := ringKey p f r;
      (s.ring k).active = false ∧
      ringRefusal s p f r = 0)
      .A 0 0 sOff) ∧
    -- clause 2
    ((fun (p : Port) (f : Fin 32) (r : Fin 8) (s : State) =>
      let k := ringKey p f r;
      (s.ring k).active = false ∧
      ringRefusal s p f r ≠ 0)
      .A 0 0 {sOff with rings := [(0, {ring0 with active := false, rlog := 17})]}) ∧
    -- clause 4
    ((fun (p : Port) (f : Fin 32) (r : Fin 8) (ix : BitVec 32) (s : State) (tid : Nat) (x : Task) =>
      s.findTask { port := p, fn := f, ring := r, index := ix } = some (tid, x) ∧
      tfind s.tasks tid = some x ∧
      x.st ≠ .ending ∧
      x.fault = none)
      .A 0 0 0 sRing 1 t0) := by
  refine ⟨?_, ?_, ?_⟩
  · exact ⟨by decide +kernel, by decide +kernel⟩
  · exact ⟨by decide +kernel, by decide +kernel⟩
  · exact ⟨by decide +kernel, by decide +kernel, by decide +kernel, by decide +kernel⟩

/-- `Obligations.AdmissionPreemptionAndResume`: a state and operands that meet the hypotheses, clause by clause. -/
theorem test_admissionPreemptionAndResume :
    -- clause 1
    ((fun (s : State) (tid : Nat) (x : Task) =>
      nextAdmitted s = some (tid, x) ∧
      (s.mode.fixed = false ∨ x.kind ≠ 1 ∨ x.fixedProg = true))
      (withTasks [(1,t0),(2,t2)]) 2 t2) ∧
    -- clause 2
    ((fun (r : TaskRef) (s : State) (tid : Nat) (q : Task) =>
      s.findTask r = some (tid, q) ∧
      canAdmit s tid q = true ∧
      (holdersOf s q).all (fun h => mayPreempt s q h.2) = true)
      {ref0 with index := 1} sPre 2 {t2 with shells := 1}) ∧
    -- clause 4
    ((fun (r : TaskRef) (s : State) (tid : Nat) (x : Task) =>
      s.findTask r = some (tid, x) ∧
      tfind s.tasks tid = some x ∧
      resumable s x = true ∧
      s.tasks.all (fun e => !(shareShell e.2 x && x.prio < e.2.prio && canAdmit s e.1 e.2)) = true ∧
      ∃ (u : State), (resumeChecks tid x).go (retaken tid x s) = (.ok (), u))
      ref0 sP 1 tP) := by
  refine ⟨?_, ?_, ?_⟩
  · exact ⟨by decide +kernel, by decide +kernel⟩
  · exact ⟨by decide +kernel, by decide +kernel, by decide +kernel⟩
  · exact ⟨by decide +kernel, by decide +kernel, by decide +kernel, by decide +kernel, _,
      okEq1 (by decide +kernel)⟩

/-- `Obligations.TaskEndsAndCompletionEntries`: a state and operands that meet the hypotheses, clause by clause. -/
theorem test_taskEndsAndCompletionEntries :
    -- clause 7
    (fun (p : Port) (f : Fin 32) (r : Fin 8) (s : State) (c : Nat) =>
      let k := ringKey p f r;
      (s.ring k).uncovSince = some c ∧
      (s.ring k).coalUs ≠ 0 ∧
      1000 * (s.ring k).coalUs.toNat ≤ s.since c)
      .A 0 0 sCo 10 := by
  exact ⟨by decide +kernel, by decide +kernel, by decide +kernel⟩

/-- `Obligations.ContextsAndQuotas`: a state and operands that meet the hypotheses, clause by clause. -/
theorem test_contextsAndQuotas :
    -- clause 1
    ((fun (p : Port) (f : Fin 32) (id : Fin 256) (s : State) =>
      id.val ≠ 0 ∧
      (s.ctx id).live = false ∧
      (f.val = 0 ∨ ctxCount s p f < quotaOf s p f))
      .A 0 255 s0) ∧
    -- clause 3
    ((fun (p : Port) (f : Fin 32) (id : Fin 256) (s : State) =>
      seesCtx (s.ctx id) p f = true ∧
      ctxBusy s id = false)
      .A 0 7 {s0 with ctxs := [(1,Ctx.reset),(7,{Ctx.reset with live := true})]}) ∧
    -- clause 4
    ((fun (p : Port) (f : Fin 32) (id : Fin 256) (s : State) =>
      seesCtx (s.ctx id) p f = true)
      .A 0 1 sRing) := by
  refine ⟨?_, ?_, ?_⟩
  · exact ⟨by decide +kernel, by decide +kernel, by decide +kernel⟩
  · exact ⟨by decide +kernel, by decide +kernel⟩
  · dsimp only
    all_goals (decide +kernel)

/-- `Obligations.SemaphoresAndMode`: a state and operands that meet the hypotheses, clause by clause. -/
theorem test_semaphoresAndMode_1 :
    -- clause 1
    ((fun (p : Port) (f : Fin 32) (k : Fin 6) (s : State) =>
      f.val = 0 ∧
      (s.sem k).owner = none)
      .B 0 5 s0) ∧
    -- clause 2
    ((fun (p : Port) (f : Fin 32) (k : Fin 6) (s : State) =>
      f.val = 0 ∧
      (s.sem k).owner = none)
      .B 0 5 s0) ∧
    -- clause 3
    ((fun (p : Port) (f : Fin 32) (k : Fin 6) (s : State) =>
      f.val = 0 ∧
      s.holds p k = true)
      .A 0 5 sS) ∧
    -- clause 4
    ((fun (p : Port) (f : Fin 32) (k : Fin 6) (s : State) =>
      (f.val ≠ 0 ∨ s.holds p k = false))
      .B 0 5 sS) ∧
    -- clause 5
    ((fun (k : Fin 6) (s : State) (p : Port) (c : Nat) =>
      (s.sem k).owner = some p ∧
      (s.port p).downSince = some c ∧
      100000000 ≤ s.since c)
      5
      ({sS with clk := {s0.clk with now := 100000010}}.modPort .A fun x => {x with linkUp := false, downSince := some 10})
      .A 10) ∧
    -- clause 6
    ((fun (p : Port) (f : Fin 32) (s : State) =>
      f.val = 0 ∧
      s.holds p 5 = true ∧
      s.mode.busy = false ∧
      isReady s = true)
      .A 0 sS) ∧
    -- clause 7
    ((fun (p : Port) (f : Fin 32) (s : State) =>
      f.val = 0 ∧
      s.holds p 5 = true ∧
      s.mode.busy = false ∧
      isReady s = false)
      .A 0 {sS with up := {s0.up with ready := .start}}) ∧
    -- clause 8
    ((fun (p : Port) (f : Fin 32) (s : State) =>
      f.val = 0 ∧
      s.holds p 5 = true ∧
      s.mode.busy = false)
      .A 0 sS) := by
  refine ⟨?_, ?_, ?_, ?_, ?_, ?_, ?_, ?_⟩
  · exact ⟨by decide +kernel, by decide +kernel⟩
  · exact ⟨by decide +kernel, by decide +kernel⟩
  · exact ⟨by decide +kernel, by decide +kernel⟩
  · dsimp only
    all_goals (decide +kernel)
  · exact ⟨by decide +kernel, by decide +kernel, by decide +kernel⟩
  · exact ⟨by decide +kernel, by decide +kernel, by decide +kernel, by decide +kernel⟩
  · exact ⟨by decide +kernel, by decide +kernel, by decide +kernel, by decide +kernel⟩
  · exact ⟨by decide +kernel, by decide +kernel, by decide +kernel⟩

/-- `Obligations.SemaphoresAndMode`: a state and operands that meet the hypotheses, clause by clause. -/
theorem test_semaphoresAndMode_2 :
    -- clause 9
    (fun (s : State) =>
      s.mode.busy = true ∧
      s.tasks.any (fun e => modeHolds e.2) = false)
      {s0 with mode := {s0.mode with busy := true, fixedReq := true, dlbOff := true}, tasks := []} := by
  exact ⟨by decide +kernel, by decide +kernel⟩

/-- `Obligations.LinksAndHostAccesses`: a state and operands that meet the hypotheses, clause by clause. -/
theorem test_linksAndHostAccesses :
    -- clause 1
    ((fun (p : Port) (o : Partner) (s : State) =>
      mayTrain s p = true)
      .A ⟨true,true,true,16,2⟩ s0) ∧
    -- clause 2
    ((fun (p : Port) (s : State) =>
      (s.port p).linkUp = true)
      .A sSnoop) := by
  refine ⟨?_, ?_⟩
  · dsimp only
    all_goals (decide +kernel)
  · dsimp only
    all_goals (decide +kernel)

/-- `Obligations.DoorbellsAndDescriptors`: a state and operands that meet the hypotheses of clause 3. -/
theorem test_doorbellsAndDescriptors_c3 :
    (fun (p : Port) (f : Fin 32) (r : Fin 8) (s : State) =>
      (let k := ringKey p f r;
      ringLive (s.ring k) = true ∧
      (s.ring k).notified = true ∧
      ∃ (u : State) (bs : List Byte),
      (readMem .iod (s.ring k).ctx.toNat 2 (s.ring k).dbl.toNat 64 0).go (s.modRing k fun x => { x with notified := false }) = (.ok bs, u) ∧
      (BitVec.ofNat 32 (leNat (bs.take 4)) - (s.ring k).head).toNat ≤ 2 ^ (s.ring k).rlog.toNat ∧
      ((s.ring k).ctail - BitVec.ofNat 32 (leNat ((bs.drop 8).take 4))).toNat ≤ 2 ^ (s.ring k).clog.toNat))
      .A 0 0 sRing := by
  exact ⟨by decide +kernel, by decide +kernel, _, _, okEq (by decide +kernel), by decide +kernel,
    by decide +kernel⟩

/-- `Obligations.DoorbellsAndDescriptors`: a state and operands that meet the hypotheses of clause 4. -/
theorem test_doorbellsAndDescriptors_c4 :
    (fun (p : Port) (f : Fin 32) (r : Fin 8) (s : State) =>
      (let k := ringKey p f r;
      ringLive (s.ring k) = true ∧
      (s.ring k).notified = true ∧
      ∃ (u : State) (bs : List Byte),
      (readMem .iod (s.ring k).ctx.toNat 2 (s.ring k).dbl.toNat 64 0).go (s.modRing k fun x => { x with notified := false }) = (.ok bs, u) ∧
      2 ^ (s.ring k).rlog.toNat < (BitVec.ofNat 32 (leNat (bs.take 4)) - (s.ring k).head).toNat))
      .A 0 0 sRing2 := by
  exact ⟨by decide +kernel, by decide +kernel, _, _, okEq (by decide +kernel), by decide +kernel⟩

/-- `Obligations.DoorbellsAndDescriptors`: a state and operands that meet the hypotheses of clause 5. -/
theorem test_doorbellsAndDescriptors_c5 :
    (fun (p : Port) (f : Fin 32) (r : Fin 8) (s : State) =>
      (let k := ringKey p f r;
      (let x := s.ring k;
      ringLive x = true ∧
      fetchCount s k ≠ 0 ∧
      ∃ (u : State) (bs : List Byte),
      (readMem .iod x.ctx.toNat 2 (x.rbase.toNat + 128 * (x.head.toNat % 2 ^ x.rlog.toNat)) (128 *
          fetchCount s k) 0).go s = (.ok bs, u))))
      .A 0 0 sRing := by
  exact ⟨by decide +kernel, by decide +kernel, _, _, okEq (by decide +kernel)⟩

/-- `Obligations.AdmissionPreemptionAndResume`: a state and operands that meet the hypotheses of clause 3. -/
theorem test_admissionPreemptionAndResume_c3 :
    (fun (r : TaskRef) (s : State) (tid : Nat) (x : Task) =>
      s.findTask r = some (tid, x) ∧
      tfind s.tasks tid = some x ∧
      x.st = .yielding ∧
      (heldBy s tid).all (stopped s) = true ∧
      ∃ (u : State),
      ((heldBy s tid).forM (saveShell tid x)).go s = (.ok (), u))
      ref0 sY 1 tY := by
  exact ⟨by decide +kernel, by decide +kernel, by decide +kernel, by decide +kernel, _, saves.choose_spec⟩

/-- `Obligations.TaskEndsAndCompletionEntries`: a state and operands that meet the hypotheses of clause 1. -/
theorem test_taskEndsAndCompletionEntries_c1 :
    (fun (r : TaskRef) (s : State) (tid : Nat) (x : Task) =>
      s.findTask r = some (tid, x) ∧
      tfind s.tasks tid = some x ∧
      x.kind = 3 ∧
      x.st = .waiting ∧
      (s.ring (ringOf r)).stopped = false ∧
      (tasksOf s (ringOf r)).all (fun e => tid ≤ e.1 || e.2.st = .done) = true)
      {ref0 with index := 1} (withTasks [(1,{t0 with st := .done}),(2,tN)]) 2 tN := by
  exact ⟨by decide +kernel, by decide +kernel, by decide +kernel, by decide +kernel, by decide +kernel,
    by decide +kernel⟩

/-- `Obligations.TaskEndsAndCompletionEntries`: a state and operands that meet the hypotheses of clause 2. -/
theorem test_taskEndsAndCompletionEntries_c2 :
    (fun (r : TaskRef) (s : State) (tid : Nat) (x : Task) =>
      s.findTask r = some (tid, x) ∧
      x.kind = 2 ∧
      x.st = .admitted ∧
      x.gate = none ∧
      x.preReq = false ∧
      coxRuns s = true)
      ref0 (withTasks [(1,tL)]) 1 tL := by
  exact ⟨by decide +kernel, by decide +kernel, by decide +kernel, by decide +kernel, by decide +kernel,
    by decide +kernel⟩

/-- `Obligations.TaskEndsAndCompletionEntries`: a state and operands that meet the hypotheses of clause 3. -/
theorem test_taskEndsAndCompletionEntries_c3 :
    (fun (r : TaskRef) (s : State) (tid : Nat) (x : Task) (z : LoadRun) =>
      s.findTask r = some (tid, x) ∧
      x.kind = 2 ∧
      x.st = .running ∧
      x.gate = none ∧
      x.load = some z ∧
      coxRuns s = true)
      ref0 (withTasks [(1,tLr)]) 1 tLr ld0 := by
  exact ⟨by decide +kernel, by decide +kernel, by decide +kernel, by decide +kernel, by decide +kernel,
    by decide +kernel⟩

/-- `Obligations.TaskEndsAndCompletionEntries`: a state and operands that meet the hypotheses of clause 4. -/
theorem test_taskEndsAndCompletionEntries_c4 :
    (fun (r : TaskRef) (s : State) (tid : Nat) (x : Task) (z : LoadRun) =>
      s.findTask r = some (tid, x) ∧
      tfind s.tasks tid = some x ∧
      x.kind = 2 ∧
      x.st = .yielding ∧
      x.gate = none ∧
      x.load = some z)
      ref0 (withTasks [(1,tLy)]) 1 tLy ld0 := by
  exact ⟨by decide +kernel, by decide +kernel, by decide +kernel, by decide +kernel, by decide +kernel,
    by decide +kernel⟩

/-- `Obligations.TaskEndsAndCompletionEntries`: a state and operands that meet the hypotheses of clause 5. -/
theorem test_taskEndsAndCompletionEntries_c5 :
    (fun (r : TaskRef) (s : State) (tid : Nat) (x : Task) =>
      s.findTask r = some (tid, x) ∧
      tfind s.tasks tid = some x ∧
      x.st = .ending ∧
      x.reported = x.shells ∧
      x.resv = true ∧
      s.tasks.all (fun e => !(entryDue s e.2 && entryBefore e.1 e.2 tid x)) = true ∧
      (s.port r.port).linkUp = true ∧
      (let k := ringOf r;
      (let g := s.ring k;
      ∃ (u : State),
      (writeMem .iod x.ctx 2 (g.cbase.toNat + 64 * (g.ctail.toNat % 2 ^ g.clog.toNat)) (leBytes 64 (entryOf
          x s.clk.alm g))).go s = (.ok (), u))))
      ref0 sE 1 tE := by
  exact ⟨by decide +kernel, by decide +kernel, by decide +kernel, by decide +kernel, by decide +kernel,
    by decide +kernel, by decide +kernel, _, okEq (by decide +kernel)⟩

/-- `Obligations.TaskEndsAndCompletionEntries`: a state and operands that meet the hypotheses of clause 6. -/
theorem test_taskEndsAndCompletionEntries_c6 :
    (fun (r : TaskRef) (s : State) (tid : Nat) (x : Task) =>
      s.findTask r = some (tid, x) ∧
      tfind s.tasks tid = some x ∧
      x.st = .ending ∧
      x.reported = x.shells ∧
      x.resv = true ∧
      s.tasks.all (fun e => !(entryDue s e.2 && entryBefore e.1 e.2 tid x)) = true ∧
      (s.port r.port).linkUp = false)
      ref0 sED 1 tE := by
  exact ⟨by decide +kernel, by decide +kernel, by decide +kernel, by decide +kernel, by decide +kernel,
    by decide +kernel, by decide +kernel⟩

/-- `Obligations.ContextsAndQuotas`: a state and operands that meet the hypotheses of clause 5. -/
theorem test_contextsAndQuotas_c5 :
    (fun (p : Port) (f : Fin 32) (i : Fin 4) (v : BitVec 64) (s : State) =>
      f.val = 0)
      .A 0 1 0xFF s0 := by
  exact by decide +kernel

/-- `Obligations.ContextsAndQuotas`: a state and operands that meet the hypotheses of clause 6. -/
theorem test_contextsAndQuotas_c6 :
    (fun (p : Port) (f : Fin 32) (i : Fin 4) (v : BitVec 64) (s : State) =>
      f.val ≠ 0)
      .A 2 1 0xFF s0 := by
  exact by decide +kernel

/-- `Obligations.LinksAndHostAccesses`: a state and operands that meet the hypotheses of clause 3. -/
theorem test_linksAndHostAccesses_c3 :
    (fun (p : Port) (addr : Nat) (bs : List Byte) (s : State) =>
      addr + bs.length ≤ 2 ^ 38 ∧
      hostPath s p = true ∧
      hostHeld s p = false ∧
      ∃ (u : State),
      storeQuiet .iod addr bs s = u)
      .A (2^38-3) [1,2,3] s0 := by
  exact ⟨by decide +kernel, by decide +kernel, by decide +kernel, _, rfl⟩

/-- `Obligations.LinksAndHostAccesses`: a state and operands that meet the hypotheses of clause 4. -/
theorem test_linksAndHostAccesses_c4 :
    (fun (p : Port) (addr n : Nat) (s : State) =>
      addr + n ≤ 2 ^ 38 ∧
      hostPath s p = true ∧
      hostHeld s p = false ∧
      ∃ (bs : List Byte) (u : State),
      (stackRead .iod 2 addr n).go s = (.ok bs, u))
      .A 4096 3 s0 := by
  exact ⟨by decide +kernel, by decide +kernel, by decide +kernel, _, _, okEq (by decide +kernel)⟩

end Hosting

/-! ## Scheduling, tracing, vigils and counters -/

namespace Watching

def sRel (r : Release) := sRing.modShell 0 fun x => {x with stroke := {x.stroke with rel := [(0, r), (1, .arrive 3)]}}

def up (s : UpdSrc) (k : Nat) (st : Bool) (v : BitVec 32) : Update := ⟨1, k, s, st, v⟩

def sIn :=
    {((withCnt 9 5 (some 1) sRing).modShell 0 fun x => {x with stroke := {x.stroke with wait := .counter 9 12 1}}) with inbox := [up (.copy 0) 9 false 1, up .debug 9 true 11, up (.shell 3) 9 false 100, up (.copy 0) 8 false 1], vigils := [(4,{vig0 with wcnt := 9})]}

def tC : Machine.Task := {t0 with shells := 3, lines := [(9, ⟨4, 2, [(0, 3),(1,5)]⟩)]}

def sC := {sRing with tasks := [(1,tC)]}

def tCb := {tC with bootRun := true}

def sCb := {sRing with tasks := [(1,tCb)]}

def wV := cmd 4 0 (7 + 2^14 + 2^16 * 8 + 2^24 * 2 + 2^32 * 5) 0 3

def v2 : Vigil := {vig0 with act := 2, space := 2, step := 0}

def v2' : Vigil := {v2 with due := false, spent := true}

def sV2' := { withVigil v2 with vigils := tset (withVigil v2).vigils 4 v2'}

def v3 : Vigil := {vig0 with act := 2, space := 1, maddr := 2^39}

def v3' : Vigil := {v3 with due := false, thr := 7}

def sV3' := { withVigil v3 with vigils := tset (withVigil v3).vigils 4 v3'}

def sH :=
    {(sRing.modPort .A fun x => {x with hangUs := 2}).modShell 0 fun x => {x with stroke := {x.stroke with wait := .line 3 10}} with clk := {s0.clk with now := 2011}}

def rec0 : TraceRec :=
    {alm := 5, shell := 0, cox := false, event := 1, op := 0, status := 0, idx := 0, ctx := 1, ring := 0, dindex := 0, arg := 0}

def sT :=
    {sRing with trace := {Trace.reset with en := true, shells := 1, events := -1, waiting := [(0, [rec0, rec0])]}}

def sTD (d : Debug) := {sDbg d with trace := sT.trace}

/-- `Obligations.SyncCounters`: a state and operands that meet the hypotheses, clause by clause. -/
theorem test_syncCounters :
    -- clause 1
    ((fun (sh : Fin 64) (w : Cmd) (s : State) (tid : Nat) (t : Task) =>
      Issues s sh tid t ∧
      cmdBad encScnt w = none ∧
      counterFree s tid t.ctx (cf w 23 16) = true)
      0 (cmd (200 + 256) 9) (withCnt 200 5 (some 1) sRing) 1 t0) ∧
    -- clause 2
    ((fun (sh : Fin 64) (w : Cmd) (s : State) (tid : Nat) (t : Task) =>
      Issues s sh tid t ∧
      cmdBad encSwait w = none ∧
      counterFree s tid t.ctx (cf w 23 16) = true)
      0 (cmd 200 5) (withCnt 200 5 none sRing) 1 t0) ∧
    -- clause 3
    ((fun (sh : Fin 64) (w : Cmd) (s : State) (tid h : Nat) (t x : Task) =>
      Issues s sh tid t ∧
      cmdBad encScnt w = none ∧
      (counterOf s t.ctx (cf w 23 16)).holder = some h ∧
      h ≠ tid ∧
      tfind s.tasks h = some x ∧
      x.st ≠ .done)
      0 (cmd 200 6) {withCnt 200 5 (some 2) sRing with tasks := [(1,t0),(2,t2)]} 1 2 t0 t2) ∧
    -- clause 6
    ((fun (c k : Fin 256) (s : State) =>
      let mine := fun (u : Update) => decide (u.ctx = c.val) && decide (u.cnt = k.val);
      let us := (s.inbox.filter mine).foldl (fun a u => insertUpdate u a) [];
      us ≠ [])
      1 9 sIn) := by
  refine ⟨?_, ?_, ?_, ?_⟩
  · exact ⟨issuesIs (by decide +kernel), by decide +kernel, by decide +kernel⟩
  · exact ⟨issuesIs (by decide +kernel), by decide +kernel, by decide +kernel⟩
  · exact ⟨issuesIs (by decide +kernel), by decide +kernel, by decide +kernel, by decide +kernel,
      by decide +kernel, by decide +kernel⟩
  · dsimp only
    all_goals (decide +kernel)

/-- `Obligations.CatchLines`: a state and operands that meet the hypotheses, clause by clause. -/
theorem test_catchLines :
    -- clause 5
    (fun (L : Fin 64) (s : State) (tid k : Nat) (t : Task) =>
      tfind s.tasks tid = some t)
      0 sC 1 9 tC := by
  dsimp only
  all_goals (decide +kernel)

/-- `Obligations.Vigils`: a state and operands that meet the hypotheses, clause by clause. -/
theorem test_vigils :
    -- clause 2
    ((fun (sh : Fin 64) (w : Cmd) (s : State) (tid : Nat) (t : Task) =>
      Issues s sh tid t ∧
      cmdBad encVigilDrop w = none)
      0 (cmd 4) (withVigil vig0) 1 t0) ∧
    -- clause 3
    ((fun (d : Fin 2) (n : Fin 1024) (s : State) (x : Vigil) =>
      let k := vigilKey d n;
      tfind s.vigils k = some x ∧
      x.due = true ∧
      x.armed = true ∧
      x.act = 1)
      0 4 (withVigil vig0) vig0) := by
  refine ⟨?_, ?_⟩
  · exact ⟨issuesIs (by decide +kernel), by decide +kernel⟩
  · exact ⟨by decide +kernel, by decide +kernel, by decide +kernel, by decide +kernel⟩

/-- `Obligations.StallAndHandSetActions`: a state and operands that meet the hypotheses, clause by clause. -/
theorem test_stallAndHandSetActions :
    -- clause 1
    ((fun (r : TaskRef) (s : State) (tid : Nat) (x : Task) =>
      s.findTask r = some (tid, x) ∧
      tfind s.tasks tid = some x ∧
      x.st = .running ∧
      (s.port r.port).hangUs.toNat ≠ 0 ∧
      x.stalled = false ∧
      (heldBy s tid).filter (fun L => !x.ended.getLsbD L) ≠ [] ∧
      (∀ L ∈ (heldBy s tid).filter (fun L => !x.ended.getLsbD L), ∃ c, waitSince (s.shell L).stroke.wait = some c ∧
          1000 * (s.port r.port).hangUs.toNat < s.since c))
      ref0 sH 1 t0) ∧
    -- clause 2
    ((fun (p : Port) (f : Fin 32) (s : State) =>
      f.val = 0 ∧
      s.holds p 3 = true ∧
      s.dbg.act.toNat = 1)
      .A 0 (withCnt 9 4 (some 1) (sDbg {Debug.reset with act := 1, ctx := 1, obj := 9, value := 55}))) ∧
    -- clause 3
    ((fun (p : Port) (f : Fin 32) (s : State) (tid : Nat) (x : Task) =>
      f.val = 0 ∧
      s.holds p 3 = true ∧
      s.dbg.act.toNat = 2 ∧
      debugTask s = some (tid, x) ∧
      isMember s x s.dbg.lshell.toNat = true)
      .A 0 (sDbg {Debug.reset with act := 2, ctx := 1, obj := 9, lshell := 0}) 1 t0) ∧
    -- clause 4
    ((fun (p : Port) (f : Fin 32) (s : State) (tid : Nat) (x : Task) =>
      f.val = 0 ∧
      s.holds p 3 = true ∧
      s.dbg.act.toNat = 3 ∧
      debugTask s = some (tid, x) ∧
      tfind s.tasks tid = some x)
      .A 0 {sDbg {Debug.reset with act := 3, ctx := 1, obj := 9, lshell := 0} with tasks := [(1,tC)]} 1 tC) ∧
    -- clause 5
    ((fun (p : Port) (f : Fin 32) (s : State) (v : Vigil) =>
      f.val = 0 ∧
      s.holds p 3 = true ∧
      s.dbg.act.toNat = 4 ∧
      tfind s.vigils (debugVigil s) = some v ∧
      v.act = 1)
      .A 0 {sDbg {Debug.reset with act := 4, vigil := 4} with vigils := [(4,vig0)]} vig0) ∧
    -- clause 6
    ((fun (p : Port) (f : Fin 32) (s : State) (v : Vigil) =>
      f.val = 0 ∧
      s.holds p 3 = true ∧
      s.dbg.act.toNat = 5 ∧
      tfind s.vigils (debugVigil s) = some v)
      .A 0 {sDbg {Debug.reset with act := 5, vigil := 4} with vigils := [(4,vig0)]} vig0) ∧
    -- clause 7
    ((fun (p : Port) (f : Fin 32) (s : State) =>
      (f.val ≠ 0 ∨ s.holds p 3 = false))
      .B 0 {sDbg {Debug.reset with act := 5, vigil := 4} with vigils := [(4,vig0)]}) := by
  refine ⟨?_, ?_, ?_, ?_, ?_, ?_, ?_⟩
  · exact ⟨by decide +kernel, by decide +kernel, by decide +kernel, by decide +kernel, by decide +kernel,
      by decide +kernel, by decide +kernel⟩
  · exact ⟨by decide +kernel, by decide +kernel, by decide +kernel⟩
  · exact ⟨by decide +kernel, by decide +kernel, by decide +kernel, by decide +kernel, by decide +kernel⟩
  · exact ⟨by decide +kernel, by decide +kernel, by decide +kernel, by decide +kernel, by decide +kernel⟩
  · exact ⟨by decide +kernel, by decide +kernel, by decide +kernel, by decide +kernel, by decide +kernel⟩
  · exact ⟨by decide +kernel, by decide +kernel, by decide +kernel, by decide +kernel⟩
  · dsimp only
    all_goals (decide +kernel)

/-- `Obligations.TraceFreezeAndCounterDump`: a state and operands that meet the hypotheses, clause by clause. -/
theorem test_traceFreezeAndCounterDump :
    -- clause 1
    ((fun (k : Fin 2) (s : State) (c : Nat) (r : TraceRec) (q : List TraceRec) =>
      (sourcesOf k).find? (fun c => !(tget [] s.trace.waiting c).isEmpty) = some c ∧
      tget [] s.trace.waiting c = r :: q ∧
      tget 0 s.trace.lost c = 0 ∧
      (fifoOf s.trace k).length < fifoMax ∧
      (s.trace.wrap = true ∨ wptrOf s.trace k + 32 * (fifoOf s.trace k).length < traceHalf s.trace))
      0 sT 0 rec0 [rec0]) ∧
    -- clause 2
    ((fun (p : Port) (f : Fin 32) (s : State) =>
      f.val = 0 ∧
      s.holds p 3 = true ∧
      s.dbg.act = 6 ∧
      s.trace.en = true ∧
      (let d := if s.dbg.die then 1 else 0;
      (fifoOf s.trace d).length < fifoMax))
      .A 0 (sTD {Debug.reset with act := 6, value := 77, die := true})) ∧
    -- clause 3
    ((fun (p : Port) (f : Fin 32) (s : State) =>
      f.val = 0 ∧
      s.holds p 3 = true ∧
      s.trace.en = true)
      .A 0 {sTD Debug.reset with trace := {sT.trace with fifo0 := [rec0]}}) ∧
    -- clause 4
    ((fun (p : Port) (f : Fin 32) (s : State) (tid : Nat) (x : Task) =>
      f.val = 0 ∧
      s.holds p 3 = true ∧
      s.dbg.act = 7 ∧
      debugTask s = some (tid, x) ∧
      tfind s.tasks tid = some x ∧
      x.st = .running ∧
      x.frozen = false)
      .A 0 (sTD {Debug.reset with act := 7}) 1 t0) ∧
    -- clause 5
    ((fun (p : Port) (f : Fin 32) (s : State) (tid : Nat) (x : Task) =>
      f.val = 0 ∧
      s.holds p 3 = true ∧
      s.dbg.act = 8 ∧
      debugTask s = some (tid, x) ∧
      tfind s.tasks tid = some x)
      .A 0 {sTD {Debug.reset with act := 8} with tasks := [(1,{t0 with frozen := true})]} 1 {t0 with frozen := true}) ∧
    -- clause 6
    ((fun (p : Port) (f : Fin 32) (s : State) =>
      (f.val ≠ 0 ∨ s.holds p 3 = false))
      .A 1 (sTD {Debug.reset with act := 8})) ∧
    -- clause 7
    ((fun (p : Port) (f : Fin 32) (s : State) =>
      f.val = 0 ∧
      (s.port p).linkUp = true)
      .A 0
      {sDbg Debug.reset with ctr := [(8, 7),(600,5)], portA := {sRing.portA with cdAddr := 4096, cdClr := true}}) ∧
    -- clause 8
    ((fun (p : Port) (f : Fin 32) (s : State) =>
      f.val = 0 ∧
      (s.port p).linkUp = false)
      .A 0 (sRing.modPort .A fun x => {x with linkUp := false})) := by
  refine ⟨?_, ?_, ?_, ?_, ?_, ?_, ?_, ?_⟩
  · exact ⟨by decide +kernel, by decide +kernel, by decide +kernel, by decide +kernel, by decide +kernel⟩
  · exact ⟨by decide +kernel, by decide +kernel, by decide +kernel, by decide +kernel, by decide +kernel⟩
  · exact ⟨by decide +kernel, by decide +kernel, by decide +kernel⟩
  · exact ⟨by decide +kernel, by decide +kernel, by decide +kernel, by decide +kernel, by decide +kernel,
      by decide +kernel, by decide +kernel⟩
  · exact ⟨by decide +kernel, by decide +kernel, by decide +kernel, by decide +kernel, by decide +kernel⟩
  · dsimp only
    all_goals (decide +kernel)
  · exact ⟨by decide +kernel, by decide +kernel⟩
  · exact ⟨by decide +kernel, by decide +kernel⟩

/-- `Obligations.SyncCounters`: a state and operands that meet the hypotheses of clause 4. -/
theorem test_syncCounters_c4 :
    (fun (sh : Fin 64) (s : State) (tid n k : Nat) (set_ : Bool) (d : BitVec 32) (rest : List (Nat × Release))
        (t : Task) =>
      (s.shell sh).stroke.rel = (n, .count k set_ d) :: rest ∧
      (s.shell sh).holder = some tid ∧
      tfind s.tasks tid = some t ∧
      pinOpen s sh (some n) = false)
      0 (sRel (.count 9 true 7)) 1 0 9 true 7 [(1, .arrive 3)] t0 := by
  exact ⟨by decide +kernel, by decide +kernel, by decide +kernel, by decide +kernel⟩

/-- `Obligations.SyncCounters`: a state and operands that meet the hypotheses of clause 5. -/
theorem test_syncCounters_c5 :
    (fun (sh : Fin 64) (s : State) (tid n k : Nat) (rest : List (Nat × Release)) (t : Task) =>
      (s.shell sh).stroke.rel = (n, .arrive k) :: rest ∧
      (s.shell sh).holder = some tid ∧
      tfind s.tasks tid = some t ∧
      pinOpen s sh (some n) = false)
      0 (sRel (.arrive 9)) 1 0 9 [(1, .arrive 3)] t0 := by
  exact ⟨by decide +kernel, by decide +kernel, by decide +kernel, by decide +kernel⟩

/-- `Obligations.CatchLines`: a state and operands that meet the hypotheses of clause 1. -/
theorem test_catchLines_c1 :
    (fun (sh : Fin 64) (w : Cmd) (s : State) (tid : Nat) (t : Task) =>
      Issues s sh tid t ∧
      cmdBad encCatch w = none ∧
      tfind s.tasks tid = some t ∧
      (t.bootRun = true → cf w 19 16 < 14) ∧
      cf w 21 20 = 1 ∧
      arriveHeld s sh t (cf w 19 16) = false)
      0 (cmd (9+16)) sC 1 tC := by
  exact ⟨issuesIs (by decide +kernel), by decide +kernel, by decide +kernel, by decide +kernel,
    by decide +kernel, by decide +kernel⟩

/-- `Obligations.CatchLines`: a state and operands that meet the hypotheses of clause 2. -/
theorem test_catchLines_c2 :
    (fun (sh : Fin 64) (w : Cmd) (s : State) (tid : Nat) (t : Task) =>
      Issues s sh tid t ∧
      cmdBad encCatch w = none ∧
      tfind s.tasks tid = some t ∧
      (t.bootRun = true → cf w 19 16 < 14) ∧
      cf w 21 20 = 2)
      0 (cmd (9+32)) sC 1 tC := by
  exact ⟨issuesIs (by decide +kernel), by decide +kernel, by decide +kernel, by decide +kernel,
    by decide +kernel⟩

/-- `Obligations.CatchLines`: a state and operands that meet the hypotheses of clause 3. -/
theorem test_catchLines_c3 :
    (fun (sh : Fin 64) (w : Cmd) (s : State) (tid : Nat) (t : Task) =>
      Issues s sh tid t ∧
      cmdBad encCatch w = none ∧
      tfind s.tasks tid = some t ∧
      (t.bootRun = true → cf w 19 16 < 14) ∧
      cf w 21 20 = 3 ∧
      arriveHeld s sh t (cf w 19 16) = false)
      0 (cmd (9+48)) sC 1 tC := by
  exact ⟨issuesIs (by decide +kernel), by decide +kernel, by decide +kernel, by decide +kernel,
    by decide +kernel, by decide +kernel⟩

/-- `Obligations.CatchLines`: a state and operands that meet the hypotheses of clause 4. -/
theorem test_catchLines_c4 :
    (fun (sh : Fin 64) (w : Cmd) (s : State) (tid : Nat) (t : Task) =>
      Issues s sh tid t ∧
      cmdBad encCatch w = none ∧
      (cf w 21 20 = 0 ∨ (t.bootRun = true ∧ 14 ≤ cf w 19 16)))
      0 (cmd 9) sC 1 tC := by
  exact ⟨issuesIs (by decide +kernel), by decide +kernel, by decide +kernel⟩

/-- `Obligations.CatchLines`: a state and operands that meet the hypotheses of clause 4. -/
theorem test_catchLines_c4b :
    (fun (sh : Fin 64) (w : Cmd) (s : State) (tid : Nat) (t : Task) =>
      Issues s sh tid t ∧
      cmdBad encCatch w = none ∧
      (cf w 21 20 = 0 ∨ (t.bootRun = true ∧ 14 ≤ cf w 19 16)))
      0 (cmd (14+16)) sCb 1 tCb := by
  exact ⟨issuesIs (by decide +kernel), by decide +kernel, by decide +kernel⟩

/-- `Obligations.Vigils`: a state and operands that meet the hypotheses of clause 1. -/
theorem test_vigils_c1 :
    (fun (sh : Fin 64) (w e : Cmd) (s s1 : State) (tid : Nat) (t : Task) =>
      Issues s sh tid t ∧
      Effective (natVigil sh w) s sh tid t w e ∧
      (let x := vigilOf tid t e;
      vigilBad x = none ∧
      (let k := vigilKey (dieOf sh) (cf e 25 16);
      tfind s.vigils k = none ∧
      (x.cond ≠ 2 → counterFree s tid t.ctx x.wcnt = true) ∧
      (x.act ≠ 2 → counterFree s tid t.ctx x.tcnt = true) ∧
      (x.act = 1 → s1 = s) ∧
      (x.act ≠ 1 → Answers (writable (.shell sh) t.ctx x.space x.maddr 8) s () s1))))
      0 wV wV sRing sRing 1 t0 := by
  exact ⟨issuesIs (by decide +kernel), ⟨by decide +kernel, headPass rfl (by decide +kernel), okOf (by
    decide +kernel)⟩, by decide +kernel, by decide +kernel, by decide +kernel, by decide +kernel,
    by exact fun _ => rfl, by intro h; exact absurd (by decide +kernel) h⟩

/-- `Obligations.Vigils`: a state and operands that meet the hypotheses of clause 4. -/
theorem test_vigils_c4 :
    (fun (d : Fin 2) (n : Fin 1024) (s : State) (x : Vigil) =>
      (let k := vigilKey d n;
      tfind s.vigils k = some x ∧
      x.due = true ∧
      x.armed = true ∧
      x.act = 2 ∧
      (let x' : Vigil := { x with due := false, spent := x.step = 0, thr := x.thr + BitVec.ofNat 32 x.step };
      ∃ (u : State),
      (writeMem (.agent (k / 1024)) x.ctx x.space x.maddr (vigilMessage k x)).go { s with vigils := tset s.vigils k x' } = (.ok (), u))))
      0 4 (withVigil v2) v2 := by
  exact ⟨by decide +kernel, by decide +kernel, by decide +kernel, by decide +kernel, _, okEq (by
    decide +kernel)⟩

/-- `Obligations.Vigils`: a state and operands that meet the hypotheses of clause 5. -/
theorem test_vigils_c5 :
    (fun (d : Fin 2) (n : Fin 1024) (s : State) (x : Vigil) =>
      (let k := vigilKey d n;
      tfind s.vigils k = some x ∧
      x.due = true ∧
      x.armed = true ∧
      x.act = 2 ∧
      (let x' : Vigil := { x with due := false, spent := x.step = 0, thr := x.thr + BitVec.ofNat 32 x.step };
      ∃ (u : State) (f : Flt),
      (writeMem (.agent (k / 1024)) x.ctx x.space x.maddr (vigilMessage k x)).go { s with vigils := tset s.vigils k x' } = (.error f, u))))
      0 4 (withVigil v3) v3 := by
  exact ⟨by decide +kernel, by decide +kernel, by decide +kernel, by decide +kernel, _, _, errEq (by
    decide +kernel)⟩

end Watching

/-! ## Key streams and boot groups -/

namespace Streaming

def strmHdr (L n : Nat) : Nat := strmMagic + 2^50 * L + 2^64 * n

def t5 : Task := {t0 with prog := 8192, started := 0, st := .admitted, args := [(1,7)]}

def sStart (h : Nat) : State := stateOf (writeMem .iod 1 1 8256 (leBytes 8 256)) (stateOf (writeMem .iod 1 1 8448 (leBytes 64
    h)) (withTasks [(1,t5)]))

def sSt0 := (sStart (strmHdr 0 40)).modShell 0 fun x => {x with stroke := Stroke.reset}

def rd (a n : Nat) : Act (List Byte) := readCached 0 1 1 a n 0

def sSt1 := (sStart (strmHdr 1 40)).modShell 0 fun x => {x with stroke := Stroke.reset}

def sSt2 := (sStart (strmHdr 0 40)).modShell 0 fun x =>
    {x with stroke := {Stroke.reset with run := true, base := 8448, count := 40}}

def sSt2' := stateOf (writeMem .iod 1 1 (8448+64) (leBytes 1024 (3^5000))) sSt2

def sSt3 := sSt2.modShell 0 fun x => {x with stroke := {x.stroke with base := 2^40}}

def sE (x : Task) := (withTasks [(1,x)]).modShell 0 fun x => {x with stroke := {x.stroke with ended := true}}

def tEn : Task := {t0 with st := .ending, shells := 3}

def sEn (x : Task) : State := {sData with tasks := [(1,x)]}.modShell 0 fun y =>
    {y with regions := [(0, { base := 0, len := 4096, scope := false, strong := false, ctx := 1, task := some 1, inst := 1 })]}

def cp0 : AsyncCopy := {cnt := 9, src := matrix 100 8 8, dst := matrix 300 8 8, cmd := 4, stamp := 0}

def sCp (c : AsyncCopy) (out : Bool) := (sData).modShell 0 (setCopyQueue (!out) [cp0, c])

def sCp' (c : AsyncCopy) (out : Bool) := (sCp c out).modShell 0 (setCopyQueue (!out) [cp0])

def cp1 : AsyncCopy := {cp0 with src := {matrix 0 8 8 with space := 1, base := 2^40}}

def mem0 : Member :=
    { sh := 0, mask := 3, given := 0, used := 0, buf := [], order := 1, closed := false, waits := false, freed := 0, cmd := 7, z0 := 600, full := false, imask := 3, ilevel := 1 }

def mem1 : Member := { mem0 with sh := 1, mask := 2, order := 2, cmd := 3 }

def ks : KStream :=
    { task := 1, crew := 0, num := 0, set := 3, slot := 1, kind := 1, elem := 0, level := 1, hdr := BitVec.ofNat 512 (keyHdr 1 1 0 1), addr := 16384, space := 2, image := none, streamer := some 0, chain := ch0, members := [mem0, mem1], started := false, segs := [], pin := false }

def sK (k : KStream) : State := 

let s := ({withKeys sRing with streams := [(5, k)], tasks := [(1,{t0 with shells := 3})]}.modShell 0 fun x =>
    {x with ks0 := some 5, stroke := {x.stroke with wait := .stream 0}}).modShell 1 fun x =>
    {x with ks0 := some 5, holder := some 1, stroke := {x.stroke with wait := .stream 0}}

s

def tK : Task := {t0 with shells := 3}

def ks1 : KStream := {ks with started := true}

def seg (d j : Nat) : List ((Nat × Nat × Nat) × List Nat) := (List.range 4).map fun t => ((d,j,t), List.replicate 1024
    (7*t+j))

def ks2 : KStream := {ks1 with segs := seg 0 0}

def ks5 : KStream := {ks1 with pin := true, members := [{mem0 with given := 4}, {mem1 with closed := true}]}

def ch5 : Chain := {ch0 with special := 1, mods := ch0.mods ++ ch0.mods}

def plan0 (top : Nat) : Nat := 0 + 2^4*12 + 2^9*10 + 2^14*top + 2^20*1 + 2^23*1 + 2^26*1 + 2^38*1 + 2^45*3 + 2^64*9 +
    2^96*9 + 2^128*32768 + 2^192*36864

def bkey : Nat := 0 + 2^18*1 + 2^22*1 + 2^32 * 0x3FFFF

def stage0 : Nat := 1 + 2^5*1 + 2^10*7 + 2^14*1 + 2^64*40960

def bhost : Mem := mput (mput (mput (mput (mput (mput (mput [] 28672 (leBytes 64 (plan0 3))) 28736 (leBytes 8 bkey))
    32768 (leBytes 8 2 ++ leBytes 16 stage0 ++ leBytes 16 stage0)) 36864 (leBytes 8 5 ++ leBytes 8 7)) 45056 (leBytes
    16 (49152 + 2^64 * 131072))) 49152 ((hdrBytes {hdr0 with level := 0, limbs := 1}).take 64)) 16384 (leBytes 64
    (keyHdr 1 4 0 1))

def bop : BootOp :=
    {items := 1, planSpace := 2, listSpace := 2, crews := 1, plan := 28672, list := 45056, work := 2000, workLen := 100}

def tB : Task := {t0 with snap := [(0, ch5)]}

def bSh (f : Shell → Shell) (L : Nat) : Shell := if L < 1 then f
    {shell0 with boot := some bop, stroke := {shell0.stroke with wait := Wait.group}} else
    {Shell.reset L with vacant := true}

def sB (f : Shell → Shell := id): State := 

{s0 with portA := {s0.portA with host := bhost}, tasks := [(1,tB)], ctxs := [(1, { Ctx.reset with live := true, sys := true, chains := [(0, ch5)], keys := [(1, slotOf 16384 (keyHdr 1 4 0 1))] })], shells := (List.range 64).map fun L => (L, bSh f L)}

def sBx := sB fun x =>
    {x with windows := [(14, {base := 0, len:=1, rd:=true, wr:=false, keep:=false, shells:=1, peers:=0, task:=1,ctx:=1,inst:=1})]}

/-- `Obligations.StreamsStartFetchAndEnd`: a state and operands that meet the hypotheses, clause by clause. -/
theorem test_streamsStartFetchAndEnd :
    -- clause 1
    ((fun (sh : Fin 64) (s : State) (tid : Nat) (x : Task) =>
      (s.shell sh).holder = some tid ∧
      tfind s.tasks tid = some x ∧
      x.kind = 1 ∧
      x.gate = none ∧
      x.started.getLsbD sh = false ∧
      x.preReq = false ∧
      (x.st = .admitted ∨ x.st = .running) ∧
      ∃ (off : List Byte) (s1 : State), (readCached sh x.ctx 1 (x.prog + 64 + 8 * sh.val) 8 0).go s = (.ok off, s1) ∧
      ∃ (h : List Byte) (s2 : State), (readCached sh x.ctx 1 (x.prog + leNat off) 64 0).go s1 = (.ok h, s2) ∧
      strmBad (leNat h) sh = none)
      0 sSt0 1 t5) ∧
    -- clause 2
    ((fun (sh : Fin 64) (s : State) (tid b : Nat) (x : Task) =>
      (s.shell sh).holder = some tid ∧
      tfind s.tasks tid = some x ∧
      x.kind = 1 ∧
      x.gate = none ∧
      x.started.getLsbD sh = false ∧
      (x.st = .admitted ∨ x.st = .running) ∧
      ∃ (off : List Byte) (s1 : State), (readCached sh x.ctx 1 (x.prog + 64 + 8 * sh.val) 8 0).go s = (.ok off, s1) ∧
      ∃ (h : List Byte) (s2 : State), (readCached sh x.ctx 1 (x.prog + leNat off) 64 0).go s1 = (.ok h, s2) ∧
      strmBad (leNat h) sh = some b)
      0 sSt1 1 6 t5) ∧
    -- clause 6
    ((fun (sh : Fin 64) (s : State) (tid : Nat) (x : Task) =>
      endingOn s sh = some (tid, x) ∧
      tfind s.tasks tid = some x)
      0 (sEn tEn) 1 tEn) ∧
    -- clause 7
    ((fun (sh : Fin 64) (out : Bool) (i : Fin 8) (s : State) (tid : Nat) (x : Task) (c : AsyncCopy) =>
      let q := copyQueue (s.shell sh) (!out);
      q[i.val]? = some c ∧
      (s.shell sh).holder = some tid ∧
      tfind s.tasks tid = some x ∧
      ∃ (u : State), (moveElems sh x.ctx 1 c.src c.dst).go (s.modShell sh (setCopyQueue (!out) (q.eraseIdx i.val))) =
          (.ok (), u))
      0 false 1 (sCp cp0 false) 1 t0 cp0) ∧
    -- clause 8
    ((fun (sh : Fin 64) (out : Bool) (i : Fin 8) (s : State) (tid : Nat) (x : Task) (c : AsyncCopy) =>
      let q := copyQueue (s.shell sh) (!out);
      q[i.val]? = some c ∧
      (s.shell sh).holder = some tid ∧
      tfind s.tasks tid = some x ∧
      ∃ (f : Flt) (u : State), (moveElems sh x.ctx 1 c.src c.dst).go (s.modShell sh (setCopyQueue (!out) (q.eraseIdx
          i.val))) = (.error f, u))
      0 true 1 (sCp cp1 true) 1 t0 cp1) := by
  refine ⟨?_, ?_, ?_, ?_, ?_⟩
  · exact ⟨by decide +kernel, by decide +kernel, by decide +kernel, by decide +kernel, by decide +kernel,
      by decide +kernel, by decide +kernel, _, _, okEq (by decide +kernel), _, _, okEq (by decide +kernel),
      by decide +kernel⟩
  · exact ⟨by decide +kernel, by decide +kernel, by decide +kernel, by decide +kernel, by decide +kernel,
      by decide +kernel, _, _, okEq (by decide +kernel), _, _, okEq (by decide +kernel), by decide +kernel⟩
  · exact ⟨by decide +kernel, by decide +kernel⟩
  · exact ⟨by decide +kernel, by decide +kernel, by decide +kernel, _, okEq1 (by decide +kernel)⟩
  · exact ⟨by decide +kernel, by decide +kernel, by decide +kernel, _, _, errEq (by decide +kernel)⟩

/-- `Obligations.KeyStreamsAndBootGroups`: a state and operands that meet the hypotheses, clause by clause. -/
theorem test_keyStreamsAndBootGroups :
    -- clause 1
    ((fun (sh : Fin 64) (num : Fin 2) (s : State) (id : Nat) (x : KStream) (t : Task) =>
      streamOf s sh num = some (id, x) ∧
      tfind s.tasks x.task = some t ∧
      x.started = false ∧
      x.members.length = popCount x.set.toNat 8 ∧
      t.frozen = false ∧
      t.st = .running)
      0 0 (sK ks) 5 ks tK) ∧
    -- clause 2
    ((fun (sh : Fin 64) (num : Fin 2) (d t : Nat) (j : Fin 64) (s : State) (id : Nat) (x : KStream) =>
      streamOf s sh num = some (id, x) ∧
      x.started = true ∧
      needsUniform x = true ∧
      (let h := keyHdrOf x.hdr.toNat;
      d < h.digits x.level ∧
      t < 2 ^ h.logN / 1024 ∧
      (let rs := x.members.filter fun m => !m.closed && m.mask.getLsbD j;
      rs.any (fun m => decide (m.given ≤ rankOf m.mask.toNat j * h.digits x.level + d)) = true ∧
      rs.all (slotFree s x) = true ∧
      x.segs.find? (fun e => e.1 = (d, j.val, t)) = none)))
      0 0 0 3 1 (sK ks1) 5 ks1) ∧
    -- clause 4
    ((fun (sh : Fin 64) (num : Fin 2) (s : State) (id : Nat) (x : KStream) (t : Task) (m : Member) =>
      streamOf s sh num = some (id, x) ∧
      tfind s.tasks x.task = some t ∧
      x.members.find? (fun m => m.sh = sh.val) = some m ∧
      x.pin = true ∧
      x.started = true ∧
      m.given = popCount m.mask.toNat 64 * (keyHdrOf x.hdr.toNat).digits x.level)
      0 0 (sK ks5) 5 ks5 tK {mem0 with given := 4}) ∧
    -- clause 5
    ((fun (sh : Fin 64) (s : State) (tid : Nat) (t : Task) (b : BootOp) =>
      (s.shell sh).boot = some b ∧
      (s.shell sh).holder = some tid ∧
      tfind s.tasks tid = some t ∧
      t.st = .running ∧
      t.frozen = false ∧
      t.bootRun = false ∧
      (groupShells s b.crews).all (fun L => decide ((s.shell L).boot = some b) && decide ((s.shell L).holder = some
          tid)) = true ∧
      ∃ (r : BootEnv × List ((Nat × Nat) × Hdr)) (u : State), (bootChecks sh tid t b (groupShells s b.crews)).go s =
          (.ok r, u))
      0 sB 1 tB bop) ∧
    -- clause 6
    ((fun (sh : Fin 64) (s : State) (tid : Nat) (t : Task) (b : BootOp) =>
      (s.shell sh).boot = some b ∧
      (s.shell sh).holder = some tid ∧
      tfind s.tasks tid = some t ∧
      t.st = .running ∧
      t.frozen = false ∧
      t.bootRun = false ∧
      (groupShells s b.crews).all (fun L => decide ((s.shell L).boot = some b) && decide ((s.shell L).holder = some
          tid)) = true ∧
      ∃ (f : Flt) (u : State), (bootChecks sh tid t b (groupShells s b.crews)).go s = (.error f, u))
      0 sBx 1 tB bop) := by
  refine ⟨?_, ?_, ?_, ?_, ?_⟩
  · exact ⟨by decide +kernel, by decide +kernel, by decide +kernel, by decide +kernel, by decide +kernel,
      by decide +kernel⟩
  · exact ⟨by decide +kernel, by decide +kernel, by decide +kernel, by decide +kernel, by decide +kernel,
      by decide +kernel, by decide +kernel, by decide +kernel⟩
  · exact ⟨by decide +kernel, by decide +kernel, by decide +kernel, by decide +kernel, by decide +kernel,
      by decide +kernel⟩
  · exact ⟨by decide +kernel, by decide +kernel, by decide +kernel, by decide +kernel, by decide +kernel,
      by decide +kernel, by decide +kernel, _, _, okEq (by decide +kernel)⟩
  · exact ⟨by decide +kernel, by decide +kernel, by decide +kernel, by decide +kernel, by decide +kernel,
      by decide +kernel, by decide +kernel, _, _, errEq (by decide +kernel)⟩

/-- `Obligations.StreamsStartFetchAndEnd`: a state and operands that meet the hypotheses of clause 3. -/
theorem test_streamsStartFetchAndEnd_c3 :
    (fun (sh : Fin 64) (blk : Nat) (s : State) (tid : Nat) (x : Task) =>
      (s.shell sh).holder = some tid ∧
      tfind s.tasks tid = some x ∧
      (let k := (s.shell sh).stroke;
      k.run = true ∧
      (let n := min 32 (k.count - 32 * blk);
      (∃ i, 32 * blk ≤ i ∧ i < 32 * blk + n ∧ bufWants k i = true ∧ tfind k.buf i = none) ∧
      tfind k.bufFault blk = none ∧
      ∃ (u : State) (bs : List Byte),
      (readCached sh x.ctx 1 (k.base + 64 + 1024 * blk) (32 * n) 0).go s = (.ok bs, u) ∧
      (u.shell sh).stroke = k)))
      0 0 sSt2' 1 t5 := by
  exact ⟨by decide +kernel, by decide +kernel, by decide +kernel, ⟨0, by decide +kernel, by decide +kernel, by
    decide +kernel, by decide +kernel⟩, by decide +kernel, _, _, okEq (by decide +kernel), by decide +kernel⟩

/-- `Obligations.StreamsStartFetchAndEnd`: a state and operands that meet the hypotheses of clause 4. -/
theorem test_streamsStartFetchAndEnd_c4 :
    (fun (sh : Fin 64) (blk : Nat) (s : State) (tid : Nat) (x : Task) =>
      (s.shell sh).holder = some tid ∧
      tfind s.tasks tid = some x ∧
      (let k := (s.shell sh).stroke;
      k.run = true ∧
      (let n := min 32 (k.count - 32 * blk);
      (∃ i, 32 * blk ≤ i ∧ i < 32 * blk + n ∧ bufWants k i = true ∧ tfind k.buf i = none) ∧
      tfind k.bufFault blk = none ∧
      ∃ (u : State) (f : Flt),
      (readCached sh x.ctx 1 (k.base + 64 + 1024 * blk) (32 * n) 0).go s = (.error f, u))))
      0 0 sSt3 1 t5 := by
  exact ⟨by decide +kernel, by decide +kernel, by decide +kernel, ⟨0, by decide +kernel, by decide +kernel, by
    decide +kernel, by decide +kernel⟩, by decide +kernel, _, _, errEq (by decide +kernel)⟩

/-- `Obligations.StreamsStartFetchAndEnd`: a state and operands that meet the hypotheses of clause 5. -/
theorem test_streamsStartFetchAndEnd_c5 :
    (fun (sh : Fin 64) (s : State) (tid : Nat) (x : Task) =>
      (let k := s.shell sh;
      k.holder = some tid ∧
      tfind s.tasks tid = some x ∧
      k.stroke.ended = true ∧
      k.stroke.rel = [] ∧
      pinOpen s sh = false ∧
      copiesCounted s sh = true ∧
      k.asyncIn = [] ∧
      k.asyncOut = [] ∧
      x.ended.getLsbD sh = false ∧
      (x.st = .running ∨ x.st = .yielding)))
      0 (sE t0) 1 t0 := by
  exact ⟨by decide +kernel, by decide +kernel, by decide +kernel, by decide +kernel, by decide +kernel,
    by decide +kernel, by decide +kernel, by decide +kernel, by decide +kernel, by decide +kernel⟩

/-- `Obligations.KeyStreamsAndBootGroups`: a state and operands that meet the hypotheses of clause 3. -/
theorem test_keyStreamsAndBootGroups_c3 :
    (fun (sh : Fin 64) (num : Fin 2) (s : State) (id d j : Nat) (x : KStream) (t : Task) =>
      streamOf s sh num = some (id, x) ∧
      tfind s.tasks x.task = some t ∧
      (let h := keyHdrOf x.hdr.toNat;
      (let D := h.digits x.level;
      streamNext D x = some (j, d) ∧
      x.started = true ∧
      (needsData x = true ∨ needsUniform x = true) ∧
      (let rs := x.members.filter fun m => memberNext D m = some (j, d);
      rs.all (slotFree s x) = true ∧
      ∃ (a : Limb),
      (if needsUniform x then segLimb x h.logN d j else some []) = some a ∧
      ∃ (u : State) (b : Limb),
      Act.go (if needsData x then dataLimb sh t.ctx { addr := x.addr, space := x.space, hdr := x.hdr, reg := 0 } h x.chain d j else pure []) s = (.ok b, u)))))
      0 0 (sK ks2) 5 0 0 ks2 tK := by
  exact ⟨by decide +kernel, by decide +kernel, by decide +kernel, by decide +kernel, by decide +kernel,
    by decide +kernel, _, someEq (by decide +kernel), _, _, okEq (by decide +kernel)⟩

end Streaming

/-! ## Registers, regions, peers and frames -/

namespace Mapping

def sSem (k : Nat) (p : Port) : State := {sRing with sems := [(k, {owner := some p, tie := .B})]}

def pv (a b c : Nat) (d : Bool) : BitVec 64 := BitVec.ofNat 64 (a + 2^32*b + 2^48*c + if d then 2^63 else 0)

def rg (b l : Nat) (sc st : Bool) (c : Nat) : BitVec 64 := BitVec.ofNat 64 (b + 2^12*l + (if sc then 2^25 else 0) +
    (if st then 2^26 else 0) + 2^32*c)

def shD : Shell :=
    {shell0 with regions := [(3, { base := 100, len := 4, scope := true, strong := false, ctx := 1, task := none, inst := 1 })], sp := sData.shells.foldl (fun _ e => e.2.sp) [], windows := [(2,{base := 100, len:=1, rd:=true, wr:=false, keep:=false, shells:=1, peers:=0, task:=1,ctx:=1,inst:=1})], handles := [] }

def sRg : State :=
    {sRing with tasks := [], shells := [(0, {shD with holder := none}), (1, { Shell.reset 1 with maint := false })]}

def sSel : State := sRing.modFn (fnKey .A 0) fun x => {x with ctxSel := 1}

def w0 : MWin := {MWin.reset with rd := true, wr := true, pages := 2, base := 0, etype := 3, chk := 31}

def sWn (w : MWin) : State := sSel.modCtx 1 fun c => {c with tlb := [(0,3),(1,3+2^21)], mwins := [(15,w)]}

def tG (d : Nat) : Task := {t0 with st := .admitted, gate := some 7, tAdmit := BitVec.ofNat 64 d}

def sG (late : Bool) (d : Nat) : State := {sRing with tasks := [(1,tG d)]}.modPort .A fun x =>
    {x with gates := [(7,{Gate.reset with arm := true, task := some 1, count := 4, lateAbort := late})]}

/-- `Obligations.RegisterWrites`: a state and operands that meet the hypotheses, clause by clause. -/
theorem test_registerWrites_1 :
    -- clause 1
    ((fun (p : Port) (f : Fin 32) (off : BitVec 18) (size : Nat) (v : BitVec 64) (s : State) =>
      (¬ (size = 8 ∧ off.toNat % 8 = 0)) ∧
      (¬ (size = 4 ∧ off.toNat % 4 = 0)))
      .A 0 0x2004 8 55 sRing) ∧
    -- clause 1
    ((fun (p : Port) (f : Fin 32) (off : BitVec 18) (size : Nat) (v : BitVec 64) (s : State) =>
      (¬ (size = 8 ∧ off.toNat % 8 = 0)) ∧
      (¬ (size = 4 ∧ off.toNat % 4 = 0)))
      .B 31 0x2001 4 55 sRing) ∧
    -- clause 2
    ((fun (p : Port) (f : Fin 32) (off : BitVec 18) (v : BitVec 64) (s : State) =>
      off.toNat % 8 = 0)
      .A 0 0x2000 55 sRing) ∧
    -- clause 2
    ((fun (p : Port) (f : Fin 32) (off : BitVec 18) (v : BitVec 64) (s : State) =>
      off.toNat % 8 = 0)
      .A 3 0x2100 55 sRing) ∧
    -- clause 3
    ((fun (p : Port) (f : Fin 32) (off : BitVec 18) (a b : BitVec 64) (s : State) =>
      off.toNat % 8 = 0 ∧
      off.toNat + 4 < 2 ^ 18 ∧
      wide off.toNat = true)
      .A 0 0x1000 0x800 0xFFFFFFFF sRing) ∧
    -- clause 3
    ((fun (p : Port) (f : Fin 32) (off : BitVec 18) (a b : BitVec 64) (s : State) =>
      off.toNat % 8 = 0 ∧
      off.toNat + 4 < 2 ^ 18 ∧
      wide off.toNat = true)
      .B 0 0x6000 0x800 0xFFFFFFFF sRing) ∧
    -- clause 5
    ((fun (p : Port) (f : Fin 32) (v : BitVec 64) (s : State) =>
      f.val = 0 ∧
      s.holds p 1 = true)
      .A 0 (pv 300 6 70 true) (sSem 1 .A)) ∧
    -- clause 5
    ((fun (p : Port) (f : Fin 32) (v : BitVec 64) (s : State) =>
      f.val = 0 ∧
      s.holds p 1 = true)
      .A 0 (pv 1201 61 96 false) (sSem 1 .A)) := by
  refine ⟨?_, ?_, ?_, ?_, ?_, ?_, ?_, ?_⟩
  · exact ⟨by decide +kernel, by decide +kernel⟩
  · exact ⟨by decide +kernel, by decide +kernel⟩
  · dsimp only
    all_goals (decide +kernel)
  · dsimp only
    all_goals (decide +kernel)
  · exact ⟨by decide +kernel, by decide +kernel, by decide +kernel⟩
  · exact ⟨by decide +kernel, by decide +kernel, by decide +kernel⟩
  · exact ⟨by decide +kernel, by decide +kernel⟩
  · exact ⟨by decide +kernel, by decide +kernel⟩

/-- `Obligations.RegisterWrites`: a state and operands that meet the hypotheses, clause by clause. -/
theorem test_registerWrites_2 :
    -- clause 6
    ((fun (p : Port) (f : Fin 32) (v : BitVec 64) (s : State) =>
      (f.val ≠ 0 ∨ s.holds p 1 = false))
      .B 0 (pv 1200 60 95 false) (sSem 1 .A)) ∧
    -- clause 6
    ((fun (p : Port) (f : Fin 32) (v : BitVec 64) (s : State) =>
      (f.val ≠ 0 ∨ s.holds p 1 = false))
      .A 1 (pv 1200 60 95 false) (sSem 1 .A)) ∧
    -- clause 7
    ((fun (p : Port) (f : Fin 32) (v : BitVec 64) (s : State) =>
      f.val = 0)
      .A 0 (pv 1200 60 95 false) (sSem 1 .A)) ∧
    -- clause 7
    ((fun (p : Port) (f : Fin 32) (v : BitVec 64) (s : State) =>
      f.val = 0)
      .B 0 0x800 (sSem 1 .A)) := by
  refine ⟨?_, ?_, ?_, ?_⟩
  · dsimp only
    all_goals (decide +kernel)
  · dsimp only
    all_goals (decide +kernel)
  · dsimp only
    all_goals (decide +kernel)
  · dsimp only
    all_goals (decide +kernel)

/-- `Obligations.RegionsAndCacheSizes`: a state and operands that meet the hypotheses, clause by clause. -/
theorem test_regionsAndCacheSizes_1 :
    -- clause 1
    ((fun (p : Port) (f : Fin 32) (sh : Fin 64) (e : Fin 32) (v : BitVec 64) (s : State) =>
      tfind (s.shell sh).regions e = none ∧
      (let r := regionOf v;
      r.len ≠ 0 ∧
      r.scope = true ∧
      mayRegion s p f r.ctx.toNat = true ∧
      regionClash (s.shell sh) e r.base.toNat r.len.toNat = false))
      .A 0 0 5 (rg 0 100 true true 1) sRg) ∧
    -- clause 1
    ((fun (p : Port) (f : Fin 32) (sh : Fin 64) (e : Fin 32) (v : BitVec 64) (s : State) =>
      tfind (s.shell sh).regions e = none ∧
      (let r := regionOf v;
      r.len ≠ 0 ∧
      r.scope = true ∧
      mayRegion s p f r.ctx.toNat = true ∧
      regionClash (s.shell sh) e r.base.toNat r.len.toNat = false))
      .A 0 0 5 (rg 104 3992 true true 1) sRg) ∧
    -- clause 2
    ((fun (p : Port) (f : Fin 32) (sh : Fin 64) (e : Fin 32) (v : BitVec 64) (s : State) (o : Region) =>
      tfind (s.shell sh).regions e = some o ∧
      o.scope = true ∧
      o.len ≠ 0 ∧
      (regionOf v).len = 0 ∧
      mayRegion s p f o.ctx.toNat = true ∧
      ctxAdmitted s o.ctx.toNat = false)
      .A 0 0 3 (rg 0 0 true true 1) sRg
      { base := 100, len := 4, scope := true, strong := false, ctx := 1, task := none, inst := 1 }) ∧
    -- clause 3
    ((fun (p : Port) (f : Fin 32) (sh : Fin 64) (e : Fin 32) (v : BitVec 64) (s : State) =>
      tfind (s.shell sh).regions e = none ∧
      (let r := regionOf v;
      r.len ≠ 0 ∧
      r.scope = true ∧
      (mayRegion s p f r.ctx.toNat = false ∨ regionClash (s.shell sh) e r.base.toNat r.len.toNat = true)))
      .A 0 0 5 (rg 0 101 true true 1) sRg) ∧
    -- clause 3
    ((fun (p : Port) (f : Fin 32) (sh : Fin 64) (e : Fin 32) (v : BitVec 64) (s : State) =>
      tfind (s.shell sh).regions e = none ∧
      (let r := regionOf v;
      r.len ≠ 0 ∧
      r.scope = true ∧
      (mayRegion s p f r.ctx.toNat = false ∨ regionClash (s.shell sh) e r.base.toNat r.len.toNat = true)))
      .A 0 1 5 (rg 4095 2 true true 1) sRg) ∧
    -- clause 4
    ((fun (p : Port) (f : Fin 32) (sh : Fin 64) (v : BitVec 3) (s : State) =>
      f.val = 0 ∧
      s.holds p 5 = true)
      .A 0 1 4 (sSem 5 .A)) ∧
    -- clause 4
    ((fun (p : Port) (f : Fin 32) (sh : Fin 64) (v : BitVec 3) (s : State) =>
      f.val = 0 ∧
      s.holds p 5 = true)
      .A 0 0 5 (sSem 5 .A)) ∧
    -- clause 5
    ((fun (p : Port) (f : Fin 32) (sh : Fin 64) (v : BitVec 3) (s : State) =>
      (f.val ≠ 0 ∨ s.holds p 5 = false))
      .A 1 0 5 (sSem 5 .A)) := by
  refine ⟨?_, ?_, ?_, ?_, ?_, ?_, ?_, ?_⟩
  · exact ⟨by decide +kernel, by decide +kernel, by decide +kernel, by decide +kernel, by decide +kernel⟩
  · exact ⟨by decide +kernel, by decide +kernel, by decide +kernel, by decide +kernel, by decide +kernel⟩
  · exact ⟨by decide +kernel, by decide +kernel, by decide +kernel, by decide +kernel, by decide +kernel,
      by decide +kernel⟩
  · exact ⟨by decide +kernel, by decide +kernel, by decide +kernel, by decide +kernel⟩
  · exact ⟨by decide +kernel, by decide +kernel, by decide +kernel, by decide +kernel⟩
  · exact ⟨by decide +kernel, by decide +kernel⟩
  · exact ⟨by decide +kernel, by decide +kernel⟩
  · dsimp only
    all_goals (decide +kernel)

/-- `Obligations.RegionsAndCacheSizes`: a state and operands that meet the hypotheses, clause by clause. -/
theorem test_regionsAndCacheSizes_2 :
    -- clause 5
    ((fun (p : Port) (f : Fin 32) (sh : Fin 64) (v : BitVec 3) (s : State) =>
      (f.val ≠ 0 ∨ s.holds p 5 = false))
      .B 0 0 4 (sSem 5 .A)) ∧
    -- clause 6
    ((fun (sh : Fin 64) (s : State) =>
      let x := s.shell sh;
      x.cacheReq ≠ x.cacheEff ∧
      shellAdmitted s sh = false ∧
      x.regions.any (fun e => decide (cacheFirst x.cacheReq.toNat < e.2.line0 + e.2.lines)) = false ∧
      (s.mode.fixed = false ∨ x.cacheReq = 0))
      0 (sRg.modShell 0 fun x => {x with cacheReq := 4, sp := mput x.sp (72*262000) (leBytes 40 (3^100))})) ∧
    -- clause 6
    ((fun (sh : Fin 64) (s : State) =>
      let x := s.shell sh;
      x.cacheReq ≠ x.cacheEff ∧
      shellAdmitted s sh = false ∧
      x.regions.any (fun e => decide (cacheFirst x.cacheReq.toNat < e.2.line0 + e.2.lines)) = false ∧
      (s.mode.fixed = false ∨ x.cacheReq = 0))
      0 (sRg.modShell 0 fun x => {x with cacheEff := 4, sp := mput x.sp (72*262000) (leBytes 40 (3^100))})) := by
  refine ⟨?_, ?_, ?_⟩
  · dsimp only
    all_goals (decide +kernel)
  · exact ⟨by decide +kernel, by decide +kernel, by decide +kernel, by decide +kernel⟩
  · exact ⟨by decide +kernel, by decide +kernel, by decide +kernel, by decide +kernel⟩

/-- `Obligations.PeersAndMemoryWindows`: a state and operands that meet the hypotheses, clause by clause. -/
theorem test_peersAndMemoryWindows :
    -- clause 1
    ((fun (p : Port) (f : Fin 32) (e : Fin 64) (v : BitVec 64) (s : State) (c : Nat) =>
      selected s p f = some c)
      .A 0 5 0x23456 sSel 1) ∧
    -- clause 2
    ((fun (p : Port) (f : Fin 32) (w : Fin 16) (s : State) (c : Nat) =>
      selected s p f = some c ∧
      (let m := tget MWin.reset (s.ctx c).mwins w;
      m.wstate = 0 ∧
      mwinBad m = false ∧
      m.pages ≠ 0 ∧
      ∃ (fs : List Nat) (u : State), (winFrames c m).go s = (.ok fs, u) ∧
      winReason u c w m fs = 0))
      .A 0 15 (sWn w0) 1) ∧
    -- clause 3
    ((fun (p : Port) (f : Fin 32) (w : Fin 16) (s : State) (c : Nat) =>
      selected s p f = some c ∧
      (let m := tget MWin.reset (s.ctx c).mwins w;
      m.wstate = 0 ∧
      (mwinBad m = true ∨ m.pages = 0)))
      .A 0 15 (sWn {w0 with etype := 2}) 1) ∧
    -- clause 4
    ((fun (p : Port) (f : Fin 32) (w : Fin 16) (s : State) (c : Nat) =>
      selected s p f = some c ∧
      (tget MWin.reset (s.ctx c).mwins w).en = true)
      .A 0 15 (sWn {w0 with en := true, wstate := 1, frames := [0,1]}) 1) ∧
    -- clause 5
    ((fun (c : Fin 256) (w : Fin 16) (s : State) =>
      (tget MWin.reset (s.ctx c).mwins w).wstate = 2)
      1 15 (sWn {w0 with wstate := 2, frames := [0,1]})) := by
  refine ⟨?_, ?_, ?_, ?_, ?_⟩
  · dsimp only
    all_goals (decide +kernel)
  · exact ⟨by decide +kernel, by decide +kernel, by decide +kernel, by decide +kernel, _, _,
      okEq (by decide +kernel), by decide +kernel⟩
  · exact ⟨by decide +kernel, by decide +kernel, by decide +kernel⟩
  · exact ⟨by decide +kernel, by decide +kernel⟩
  · dsimp only
    all_goals (decide +kernel)

/-- `Obligations.AlmanacGatesAndFrames`: a state and operands that meet the hypotheses, clause by clause. -/
theorem test_almanacGatesAndFrames :
    -- clause 1
    ((fun (p : Port) (f : Fin 32) (v : BitVec 64) (s : State) =>
      f.val = 0 ∧
      s.holds p 4 = true ∧
      s.sync.role ≠ 2)
      .A 0 0xFFFFFFFFFFFFFFFF (sSem 4 .A)) ∧
    -- clause 2
    ((fun (p : Port) (f : Fin 32) (v : BitVec 64) (s : State) =>
      (f.val ≠ 0 ∨ s.holds p 4 = false ∨ s.sync.role = 2))
      .A 1 0xFFFFFFFFFFFFFFFF (sSem 4 .A)) ∧
    -- clause 3
    ((fun (p : Port) (f : Fin 32) (g : Fin 8) (s : State) =>
      f.val = 0 ∧
      s.holds p 4 = true ∧
      (let x := tget Gate.reset (s.port p).gates g;
      x.arm = false))
      .A 0 7 (sSem 4 .A)) ∧
    -- clause 4
    ((fun (p : Port) (g : Fin 8) (s : State) (tid : Nat) (k : Task) =>
      let x := tget Gate.reset (s.port p).gates g;
      x.task = some tid ∧
      tfind s.tasks tid = some k ∧
      x.arm = true ∧
      x.count ≤ s.clk.alm ∧
      k.tAdmit ≤ x.count)
      .A 7 (sG true 4) 1 (tG 4)) ∧
    -- clause 5
    ((fun (p : Port) (g : Fin 8) (s : State) (tid : Nat) (k : Task) =>
      let x := tget Gate.reset (s.port p).gates g;
      x.task = some tid ∧
      tfind s.tasks tid = some k ∧
      x.arm = true ∧
      x.count ≤ s.clk.alm ∧
      x.count < k.tAdmit ∧
      x.lateAbort = false)
      .A 7 (sG false 5) 1 (tG 5)) ∧
    -- clause 6
    ((fun (p : Port) (g : Fin 8) (s : State) (tid : Nat) (k : Task) =>
      let x := tget Gate.reset (s.port p).gates g;
      x.task = some tid ∧
      tfind s.tasks tid = some k ∧
      x.arm = true ∧
      x.count ≤ s.clk.alm ∧
      x.count < k.tAdmit ∧
      x.lateAbort = true ∧
      k.st = .admitted ∧
      k.fault = none)
      .A 7 (sG true 5) 1 (tG 5)) ∧
    -- clause 7
    ((fun (p : Port) (f : Fin 32) (n : BitVec 17) (s : State) =>
      f.val = 0 ∧
      (s.stack (n.toNat / 16384)).retired.contains n.toNat = true ∧
      (s.stack (n.toNat / 16384)).acked.contains n.toNat = false)
      .A 0 131071 (sRing.modStack 7 fun x => {x with retired := [4,131071]})) := by
  refine ⟨?_, ?_, ?_, ?_, ?_, ?_, ?_⟩
  · exact ⟨by decide +kernel, by decide +kernel, by decide +kernel⟩
  · dsimp only
    all_goals (decide +kernel)
  · exact ⟨by decide +kernel, by decide +kernel, by decide +kernel⟩
  · exact ⟨by decide +kernel, by decide +kernel, by decide +kernel, by decide +kernel, by decide +kernel⟩
  · exact ⟨by decide +kernel, by decide +kernel, by decide +kernel, by decide +kernel, by decide +kernel,
      by decide +kernel⟩
  · exact ⟨by decide +kernel, by decide +kernel, by decide +kernel, by decide +kernel, by decide +kernel,
      by decide +kernel, by decide +kernel, by decide +kernel⟩
  · exact ⟨by decide +kernel, by decide +kernel, by decide +kernel⟩

/-- `Obligations.RegisterWrites`: a state and operands that meet the hypotheses of clause 8. -/
theorem test_registerWrites_c8 :
    (fun (p : Port) (f : Fin 32) (off : Nat) (s u : State) =>
      off % 8 = 0 ∧
      wide off = true ∧
      regWord p f off s < 2 ^ 64 ∧
      (u.fn (fnKey p f)).latch = ((regRead p f off 4 s).2.fn (fnKey p f)).latch)
      .A 0 0x1000 s0 ((regRead .A 0 0x1000 4 s0).2) := by
  exact ⟨by decide +kernel, by decide +kernel, by decide +kernel, rfl⟩

/-- `Obligations.RegisterWrites`: a state and operands that meet the hypotheses of clause 9. -/
theorem test_registerWrites_c9 :
    (fun (p : Port) (f : Fin 32) (off : Nat) (s : State) =>
      0x28000 ≤ off ∧
      off + 8 ≤ 0x30000 ∧
      off % 8 = 0)
      .A 0 0x2FFF8 s0 := by
  exact ⟨by decide +kernel, by decide +kernel, by decide +kernel⟩

end Mapping

/-! ## Start-up and resets -/

namespace Starting

def up0 : StartUp := {StartUp.reset with aux := true, secretDone := true}

def sUp (u : StartUp) : State :=
    {s0 with up := u, tasks := [], ctxs := [], pwr := {Power.reset with feedA := {present := true, cv := 4800, connected := true, reverseOpen := false}}}

def u2 : StartUp := {up0 with coxUp := true}

def u3 : StartUp := {u2 with recordsOk := true, mainUp := true}

def sM (s : State) : State := {s with mem := mput [] 4096 [1,2,3]}

def st0 : SelfTest := {shells := [], units := [], fatal := false}

def st1 : SelfTest := {shells := [0,1,2,3,33,34,67], units := [3,15], fatal := false}

def sBusy : State :=
    {sRing with rings := [(0,ring0)], sems := [(1,{owner := some .A, tie := .B}),(2,{owner := some .B, tie := .B})], tasks := [(1,t0),(2,{t2 with ref := {t2.ref with fn := 3}})], ctr := [(8,5),(63,7),(64,9)], mem := mput [] 4096 [1,2,3], pending := [.idRead (.uart)], sec := {Security.reset with rpmb := [(0,7)], secret := true}}

/-- `Obligations.StartUpPhases`: a state and operands that meet the hypotheses, clause by clause. -/
theorem test_startUpPhases :
    -- clause 1
    ((fun (mv k : Nat) (ok : Bool) (s : State) =>
      auxInRange mv = true ∧
      coldCause s = some k)
      3135 0 true State.reset) ∧
    -- clause 2
    ((fun (s : State) =>
      s.up.secretDone = true ∧
      s.up.coxUp = false ∧
      s.up.fwRecovery = false)
      (sUp up0)) ∧
    -- clause 3
    ((fun (s : State) =>
      s.up.coxUp = true ∧
      s.up.mainUp = false ∧
      s.up.recordsOk = false)
      (sUp u2)) ∧
    -- clause 4
    ((fun (s : State) =>
      mayStart s = true)
      (sUp {u2 with recordsOk := true})) ∧
    -- clause 5
    ((fun (failed : List (Fin 8 × Fin 66)) (s : State) =>
      s.up.mainUp = true ∧
      s.up.memDone = false ∧
      s.pwr.stage < 3 ∧
      s.portA.heldAcc = [] ∧
      s.portB.heldAcc = [])
      [] (sM (sUp u3))) ∧
    -- clause 6
    ((fun (x : SelfTest) (s : State) =>
      s.up.mainUp = true ∧
      s.up.shellDone = false ∧
      s.pwr.stage < 3 ∧
      x.fatal = false)
      st0 (sM (sUp u3))) ∧
    -- clause 7
    ((fun (x : SelfTest) (s : State) =>
      s.up.mainUp = true ∧
      s.up.shellDone = false ∧
      s.pwr.stage < 3 ∧
      x.fatal = true)
      {st1 with fatal := true} (sM (sUp {u3 with memDone := true, hold := true}))) ∧
    -- clause 8
    ((fun (p : Port) (f : Fin 32) (s : State) =>
      f.val = 0 ∧
      s.up.ready = .recovery ∧
      s.tasks.all (fun e => decide (e.2.st = .done)) = true)
      .A 0 {sData with up := {s0.up with ready := .recovery}, tasks := [(1,{t0 with st := .done})]}) := by
  refine ⟨?_, ?_, ?_, ?_, ?_, ?_, ?_, ?_⟩
  · exact ⟨by decide +kernel, by decide +kernel⟩
  · exact ⟨by decide +kernel, by decide +kernel, by decide +kernel⟩
  · exact ⟨by decide +kernel, by decide +kernel, by decide +kernel⟩
  · dsimp only
    all_goals (decide +kernel)
  · exact ⟨by decide +kernel, by decide +kernel, by decide +kernel, by decide +kernel, by decide +kernel⟩
  · exact ⟨by decide +kernel, by decide +kernel, by decide +kernel, by decide +kernel⟩
  · exact ⟨by decide +kernel, by decide +kernel, by decide +kernel, by decide +kernel⟩
  · exact ⟨by decide +kernel, by decide +kernel, by decide +kernel⟩

/-- `Obligations.ModuleResets`: a state and operands that meet the hypotheses, clause by clause. -/
theorem test_moduleResets :
    -- clause 1
    ((fun (p : Port) (f : Fin 32) (s : State) =>
      f.val = 0 ∧
      s.up.aux = true)
      .A 0 sBusy) ∧
    -- clause 2
    ((fun (p : Port) (f : Fin 32) (s : State) =>
      f.val = 0 ∧
      s.up.ready ≠ .start ∧
      s.up.ready ≠ .fatal)
      .A 0 sBusy) ∧
    -- clause 3
    ((fun (p : Port) (f : Fin 32) (s : State) =>
      (f.val ≠ 0 ∨ s.up.ready = .start ∨ s.up.ready = .fatal))
      .A 1 sBusy) ∧
    -- clause 4
    ((fun (ty : BitVec 16) (s : State) =>
      s.up.mainUp = true)
      0xFFFF sBusy) := by
  refine ⟨?_, ?_, ?_, ?_⟩
  · exact ⟨by decide +kernel, by decide +kernel⟩
  · exact ⟨by decide +kernel, by decide +kernel, by decide +kernel⟩
  · dsimp only
    all_goals (decide +kernel)
  · dsimp only
    all_goals (decide +kernel)

/-- `Obligations.FunctionAndPortResets`: a state and operands that meet the hypotheses, clause by clause. -/
theorem test_functionAndPortResets :
    -- clause 2
    ((fun (p : Port) (s : State) =>
      (s.port p).linkUp = true)
      .A sBusy) ∧
    -- clause 3
    ((fun (p : Port) (us : Nat) (s : State) =>
      100 ≤ us ∧
      (s.port p).perst = false ∧
      s.up.resetLevel = false)
      .A 100 sBusy) ∧
    -- clause 4
    ((fun (p : Port) (us : Nat) (s : State) =>
      us < 100)
      .A 99 sBusy) := by
  refine ⟨?_, ?_, ?_⟩
  · dsimp only
    all_goals (decide +kernel)
  · exact ⟨by decide +kernel, by decide +kernel, by decide +kernel⟩
  · dsimp only
    all_goals (decide +kernel)

end Starting

/-! ## Mailboxes, records, firmware and keys -/

namespace Mailing

def cA : Chan := .fn .A 0 true

def blk (op seq : Nat) (pl : List Byte) : Mem := mput (mputNum (mputNum (mputNum [] 0 2 op) 2 2 pl.length) 4 2 seq) 16
    pl

def chn (op : Nat) (pl : List Byte) (go : Bool := true) : Channel :=
    {Channel.reset with buf := blk op 77 pl, go := go}

def sMb : State :=
    {s0 with sems := (List.range 6).map fun k => (k, {owner := some .A, tie := .B}), tasks := [], cox := {Cox.reset with boot := 3}, sec := {Security.reset with secret := true}}

def sC (c : Chan) (x : Channel) : State := sMb.modChan c fun _ => x

def pk0 : PkReq := {op := .ecdsaSign, slot := 3, src := 0, len := 64, dst := 128}

def rd1 : Reading := .ok 5

def rds : Readings :=
    {feedA := rd1, feedB := rd1, vin := .bad, curA := rd1, curB := rd1, auxV := rd1, auxI := rd1, power := rd1, regs := [rd1, .bad], coolant := rd1}

def cN : Chan := .fn .B 31 false

def sSn (c : Chan) (op : Nat) : State :=
    {sC c (chn op []) with cox := {sMb.cox with snapshot := some [4, 5], recent := [(7,8,9),(1,2,3)]}}

def lr (n : Nat) : LogRec :=
    {alm := 5, seq := BitVec.ofNat 32 n, boot := 3, sev := 0, type := 0x501, ctx := 0, payload := [n]}

def sLog (c : Chan) : State :=
    {sC c (chn mbLogRead []) with cox := {sMb.cox with log := (List.range 20).map lr, logBuf := [lr 20, lr 21]}}

def rec1 (ty ctr n : Nat) : List Byte := leBytes 2 0x4743 ++ leBytes 1 ty ++ leBytes 5 0 ++ leBytes 4 ctr ++ leBytes 4
    n ++ leBytes 16 0 ++ leBytes 32 0 ++ List.replicate n 7 ++ List.replicate 64 1

def sCf (c : Chan) (op : Nat) (ty ctr n : Nat) : State :=
    {sC c (chn op []) with cox := {sMb.cox with config := [(ty, TwoCopy.none.put (rec1 ty ctr n))]}}

def stg (c : Chan) (m : Mem) (s : State) : State := setStaging c m s

def attr0 : BitVec 256 := BitVec.ofNat 256 (2 + 2^4*1 + 2^17)

def sKs (c : Chan) (op : Nat) (pl : List Byte := []) : State :=
    {sC c (chn op pl) with sec := {Security.reset with secret := true, ks := [(3,{attr := attr0, secret := [1,2]}),(63,{attr := attr0, secret := [1,2]})]}}

def sFw (op : Nat) (pl : List Byte) (f : Cox → Cox) : State := {sC cA (chn op pl) with cox := f sMb.cox}

def loA (a : LongAct) (op : Nat) : LongOp := {ch := cA, opcode := op, seq := 77, act := a}

def o00 : DrainOpts := {abort := false, replace := false, test := false}

def sDr (d : Drain) : State := {sData with tasks := []}.modShell 0 fun x =>
    {x with drain := d, holder := none, maint := decide (d ≠ Drain.none)}

def sU (n : Nat) : State := {sC cA (chn mbUnitReset []) with cox := {Cox.reset with unitReset := [(15,n),(2,n)]}}

def sLo (a : LongAct) (op : Nat) : State := {sKs cA mbStatus with cox := {sMb.cox with longOps := [loA a op]}}

/-- `Obligations.MailboxProtocol`: a state and operands that meet the hypotheses, clause by clause. -/
theorem test_mailboxProtocol_1 :
    -- clause 1
    ((fun (c : Chan) (s : State) =>
      chanExists c = true ∧
      (s.chan c).go = false ∧
      (s.chan c).busy = false ∧
      serves s c = true ∧
      opcodes.contains (blkOpcode (s.chan c)) = false)
      cA (sC cA (chn 0x99 [1,2,3] false))) ∧
    -- clause 2
    ((fun (c : Chan) (s : State) =>
      chanExists c = true ∧
      (s.chan c).go = false ∧
      (serves s c = false ∨ opcodes.contains (blkOpcode (s.chan c)) = true))
      cA (sC cA (chn 0x01 [1,2,3] false))) ∧
    -- clause 3
    ((fun (c : Chan) (s : State) =>
      chanExists c = true ∧
      (s.chan c).go = true)
      cA (sC cA (chn 0x01 [1,2,3] true))) ∧
    -- clause 4
    ((fun (c : Chan) (s : State) =>
      (s.chan c).go = true ∧
      (s.chan c).busy = false)
      cA (sC cA (chn 0x01 [1,2,3] true))) ∧
    -- clause 5
    ((fun (c : Chan) (s : State) =>
      ((s.chan c).go = false ∨ (s.chan c).busy = true))
      cA (sC cA {chn 0x01 [1,2,3] true with busy := true})) ∧
    -- clause 6
    ((fun (c : Chan) (st : Nat) (pl : List Byte) (s : State) =>
      st < 256 ∧
      pl.length ≤ payloadMax)
      cA 255 (List.replicate 1008 7) (sC cA {chn 0x01 [1,2,3] true with busy := true, ieDone := true})) ∧
    -- clause 7
    ((fun (c : Chan) (v : BitVec 32) (s : State) =>
      hasWords c = true)
      cA 0xFFFFFFFF sMb) ∧
    -- clause 8
    ((fun (c : Chan) (s : State) =>
      (s.chan c).inFull = true ∧
      serves s c = true)
      (.fn .B 31 false) (sC (.fn .B 31 false) {Channel.reset with inFull := true, inWord := 7})) := by
  refine ⟨?_, ?_, ?_, ?_, ?_, ?_, ?_, ?_⟩
  · exact ⟨by decide +kernel, by decide +kernel, by decide +kernel, by decide +kernel, by decide +kernel⟩
  · exact ⟨by decide +kernel, by decide +kernel, by decide +kernel⟩
  · exact ⟨by decide +kernel, by decide +kernel⟩
  · exact ⟨by decide +kernel, by decide +kernel⟩
  · dsimp only
    all_goals (decide +kernel)
  · exact ⟨by decide +kernel, by decide +kernel⟩
  · dsimp only
    all_goals (decide +kernel)
  · exact ⟨by decide +kernel, by decide +kernel⟩

/-- `Obligations.MailboxProtocol`: a state and operands that meet the hypotheses, clause by clause. -/
theorem test_mailboxProtocol_2 :
    -- clause 9
    ((fun (c : Chan) (s : State) =>
      (s.chan c).outFull = true ∧
      (s.chan c).queue = [])
      (.fn .B 31 false) (sC (.fn .B 31 false) {Channel.reset with outFull := true})) ∧
    -- clause 10
    ((fun (c : Chan) (s : State) (w : BitVec 32) (r : List (BitVec 32)) =>
      (s.chan c).outFull = true ∧
      (s.chan c).queue = w :: r ∧
      (s.chan c).lostAnn = false)
      (.fn .B 31 false) (sC (.fn .B 31 false) {Channel.reset with outFull := true, queue := [5,6]}) 5 [6]) := by
  refine ⟨?_, ?_⟩
  · exact ⟨by decide +kernel, by decide +kernel⟩
  · exact ⟨by decide +kernel, by decide +kernel, by decide +kernel⟩

/-- `Obligations.MailboxChecks`: a state and operands that meet the hypotheses, clause by clause. -/
theorem test_mailboxChecks :
    -- clause 1
    ((fun (c : Chan) (s : State) (L : Fin 64) (o : DrainOpts) (u : Fin 16) (q : Port) (slot : Fin 64) (a : BitVec 256)
        (r : PkReq) (n : BitVec 256) (seq : BitVec 32) (ty : BitVec 8) (bs : List Byte) (off m : Nat) (z : Instr × Nat
        × Bool × Option Nat) =>
      Asked s c z.2.1 ∧
      admits s c z.2.1 z.2.2.1 z.2.2.2 ≠ stOk)
      cA (sC cA (chn mbFwStage [1] true) |> fun s => {s with sems := [(0,{owner := some .B, tie := .A})]}) 0
      {abort := false, replace := false, test := false} 0 .A 0 0 pk0 0 0 0 [] 0 0
      (.fwStage cA, mbFwStage, true, some 0)) ∧
    -- clause 2
    ((fun (c : Chan) (s : State) (op k : Nat) =>
      chanSecure c = false)
      (.fn .A 0 false) sMb 0x20 5) ∧
    -- clause 3
    ((fun (c : Chan) (s : State) (op k : Nat) =>
      chanSecure c = true ∧
      chanHolds s c k = false)
      cA {sMb with sems := []} 0x20 5) ∧
    -- clause 4
    ((fun (c : Chan) (s : State) (op : Nat) =>
      s.up.fwRecovery = true ∧
      recoveryOps.contains op = false)
      .uart {sMb with up := {s0.up with fwRecovery := true}} mbSensorRead) := by
  refine ⟨?_, ?_, ?_, ?_⟩
  · exact ⟨by unfold Asked; decide +kernel, by decide +kernel⟩
  · dsimp only
    all_goals (decide +kernel)
  · exact ⟨by decide +kernel, by decide +kernel⟩
  · exact ⟨by decide +kernel, by decide +kernel⟩

/-- `Obligations.ReadingOperations`: a state and operands that meet the hypotheses, clause by clause. -/
theorem test_readingOperations :
    -- clause 1
    ((fun (c : Chan) (s : State) =>
      Admitted s c mbStatus false none)
      cA (sC cA (chn mbStatus []))) ∧
    -- clause 2
    ((fun (c : Chan) (s : State) (x : List Nat) =>
      Admitted s c mbSensorRead false none ∧
      seesSnapshot c = true ∧
      s.cox.snapshot = some x)
      cA (sSn cA mbSensorRead) [4, 5]) ∧
    -- clause 3
    ((fun (c : Chan) (s : State) =>
      Admitted s c mbSensorRead false none ∧
      seesSnapshot c = false)
      cN (sSn cN mbSensorRead)) ∧
    -- clause 4
    ((fun (c : Chan) (seq : BitVec 32) (s : State) =>
      Admitted s c mbLogRead false none)
      cA 0 (sLog cA)) ∧
    -- clause 6
    ((fun (c : Chan) (off n : Nat) (s : State) =>
      Admitted s c mbStageRead true (some 2) ∧
      n ≤ 1000 ∧
      off + n ≤ stagingSize)
      cA 3096 1000 (stg cA (mput [] 3096 [5,6]) (sC cA (chn mbStageRead [])))) ∧
    -- clause 7
    ((fun (c : Chan) (slot : Fin 64) (s : State) =>
      Admitted s c mbKsInfo true (some 2) ∧
      ksWorks s = true)
      cA 33 (sKs cA mbKsInfo)) ∧
    -- clause 8
    ((fun (c : Chan) (s : State) =>
      Admitted s c mbIdRead true (some 2) ∧
      ksWorks s = true)
      cA (sKs cA mbIdRead)) := by
  refine ⟨?_, ?_, ?_, ?_, ?_, ?_, ?_⟩
  · dsimp only
    all_goals (unfold Admitted Asked; decide +kernel)
  · exact ⟨by unfold Admitted Asked; decide +kernel, by decide +kernel, by decide +kernel⟩
  · exact ⟨by unfold Admitted Asked; decide +kernel, by decide +kernel⟩
  · dsimp only
    all_goals (unfold Admitted Asked; decide +kernel)
  · exact ⟨by unfold Admitted Asked; decide +kernel, by decide +kernel, by decide +kernel⟩
  · exact ⟨by unfold Admitted Asked; decide +kernel, by decide +kernel⟩
  · exact ⟨by unfold Admitted Asked; decide +kernel, by decide +kernel⟩

/-- `Obligations.RecordsAndFirmware`: a state and operands that meet the hypotheses, clause by clause. -/
theorem test_recordsAndFirmware :
    -- clause 1
    ((fun (c : Chan) (r : List Byte) (s : State) =>
      Admitted s c mbCfgWrite true (some 0) ∧
      recForm r = true)
      cA (rec1 4 5 100) (sCf cA mbCfgWrite 4 3 10)) ∧
    -- clause 2
    ((fun (c : Chan) (s : State) =>
      Admitted s c mbFwStage true (some 0) ∧
      (let pl := blkPayload (s.chan c);
      8 ≤ pl.length ∧
      (let off := leNat (pl.take 8);
      off + (pl.drop 8).length ≤ slotBytes)))
      cA (sFw mbFwStage (leBytes 8 (slotBytes - 3) ++ [1,2,3]) id)) ∧
    -- clause 3
    ((fun (c : Chan) (s : State) =>
      Admitted s c mbFwVerify true (some 0))
      cA (sFw mbFwVerify [] id)) ∧
    -- clause 4
    ((fun (c : Chan) (s : State) =>
      Admitted s c mbFwActivate true (some 0) ∧
      activateRefused s = false)
      cA (sFw mbFwActivate [] fun x => {x with verified := true})) ∧
    -- clause 5
    ((fun (c : Chan) (s : State) =>
      Admitted s c mbFwActivate true (some 0) ∧
      activateRefused s = true)
      cA (sFw mbFwActivate [] id)) ∧
    -- clause 6
    ((fun (c : Chan) (s : State) (o : LongOp) =>
      EndsNext s c o ∧
      o.act = .activate)
      cA
      (sFw mbStatus [] fun x => {x with handover := true, longOps := [loA (.attest 5) mbAttest, loA .activate mbFwActivate]})
      (loA .activate mbFwActivate)) ∧
    -- clause 7
    ((fun (s : State) =>
      s.cox.handover = true)
      (sFw mbStatus [] fun x => {x with handover := true, longOps := [loA (.attest 5) mbAttest, loA .activate mbFwActivate]})) ∧
    -- clause 8
    ((fun (c : Chan) (s : State) (b : Bool) =>
      Admitted s c mbFwCommit true (some 0) ∧
      s.cox.trial = some b)
      cA (sFw mbFwCommit [] fun x => {x with trial := some true, running := true}) true) := by
  refine ⟨?_, ?_, ?_, ?_, ?_, ?_, ?_, ?_⟩
  · exact ⟨by unfold Admitted Asked; decide +kernel, by decide +kernel⟩
  · exact ⟨by unfold Admitted Asked; decide +kernel, by decide +kernel, by decide +kernel⟩
  · dsimp only
    all_goals (unfold Admitted Asked; decide +kernel)
  · exact ⟨by unfold Admitted Asked; decide +kernel, by decide +kernel⟩
  · exact ⟨by unfold Admitted Asked; decide +kernel, by decide +kernel⟩
  · exact ⟨by unfold EndsNext; decide +kernel, by decide +kernel⟩
  · dsimp only
    all_goals (decide +kernel)
  · exact ⟨by unfold Admitted Asked; decide +kernel, by decide +kernel⟩

/-- `Obligations.DrainsAndUnitResets`: a state and operands that meet the hypotheses, clause by clause. -/
theorem test_drainsAndUnitResets_1 :
    -- clause 1
    ((fun (c : Chan) (L : Fin 64) (o : DrainOpts) (s : State) =>
      Admitted s c mbShellDrain true (some 5) ∧
      isReady s = true ∧
      (s.shell L).vacant = false ∧
      (s.shell L).drain = .none ∧
      (o.replace = false ∨ s.mode.fixed = false))
      cA 0 o00 {sC cA (chn mbShellDrain []) with tasks := [(1,t0)]}) ∧
    -- clause 3
    ((fun (c : Chan) (L : Fin 64) (s : State) =>
      Admitted s c mbShellRejoin true (some 5) ∧
      (s.shell L).drain = .drained)
      cA 0 ({sC cA (chn mbShellRejoin []) with shells := (sDr .drained).shells})) ∧
    -- clause 4
    ((fun (s : State) (L : Fin 64) (p : Nat) (r : List Nat) =>
      coxRuns s = true ∧
      s.cox.marked = [L.val] ∧
      freeSpares s (dieOf L) = p :: r)
      {sDr .remap with cox := {Cox.reset with marked := [0]}} 0 32 [33]) ∧
    -- clause 5
    ((fun (s : State) (L : Fin 64) =>
      coxRuns s = true ∧
      s.cox.marked = [L.val] ∧
      freeSpares s (dieOf L) = [])
      {sDr .remap with cox := {Cox.reset with marked := [0], spareFailed := [32, 33]}} 0) ∧
    -- clause 6
    ((fun (failed : List (Fin 68)) (s : State) =>
      coxRuns s = true ∧
      mainOn s = true)
      [0,33,66,67] sRing) ∧
    -- clause 7
    ((fun (c : Chan) (u : Fin 16) (s : State) =>
      Admitted s c mbUnitReset true (some 5) ∧
      mainOn s = true ∧
      tfind s.cox.unitReset u = none)
      cA 0 (sU 5)) ∧
    -- clause 8
    ((fun (u : Fin 16) (s : State) (n : Nat) =>
      tfind s.cox.unitReset u = some n)
      15 (sU 5) 5) := by
  refine ⟨?_, ?_, ?_, ?_, ?_, ?_, ?_⟩
  · exact ⟨by unfold Admitted Asked; decide +kernel, by decide +kernel, by decide +kernel, by decide +kernel,
      by decide +kernel⟩
  · exact ⟨by unfold Admitted Asked; decide +kernel, by decide +kernel⟩
  · exact ⟨by decide +kernel, by decide +kernel, by decide +kernel⟩
  · exact ⟨by decide +kernel, by decide +kernel, by decide +kernel⟩
  · exact ⟨by decide +kernel, by decide +kernel⟩
  · exact ⟨by unfold Admitted Asked; decide +kernel, by decide +kernel, by decide +kernel⟩
  · dsimp only
    all_goals (decide +kernel)

/-- `Obligations.DrainsAndUnitResets`: a state and operands that meet the hypotheses, clause by clause. -/
theorem test_drainsAndUnitResets_2 :
    -- clause 9
    ((fun (c : Chan) (q : Port) (s : State) =>
      Admitted s c mbPortReset true none ∧
      mainOn s = true ∧
      senderPort c ≠ some q ∧
      (senderPort c).any (fun p => (s.port p).resetting) = false ∧
      portResetBusy s = false)
      cA .B (sC cA (chn mbPortReset []))) ∧
    -- clause 10
    ((fun (c : Chan) (s : State) (o : LongOp) (q : Port) =>
      EndsNext s c o ∧
      o.act = .portReset q)
      cA
      (sFw mbStatus [] fun x => {x with longOps := [loA (.drain 3) mbShellDrain, loA (.portReset .B) mbPortReset]})
      (loA (.portReset .B) mbPortReset) .B) ∧
    -- clause 11
    ((fun (c : Chan) (s : State) =>
      Admitted s c mbCalibRun true (some 1) ∧
      isReady s = true)
      cA (sC cA (chn mbCalibRun []))) ∧
    -- clause 12
    ((fun (c : Chan) (s : State) (o : LongOp) =>
      EndsNext s c o ∧
      o.act = .calib)
      cA
      {sFw mbStatus [] fun x => {x with longOps := [loA .calib mbCalibRun]} with pwr := {s0.pwr with scale := 70}}
      (loA .calib mbCalibRun)) ∧
    -- clause 13
    ((fun (s : State) =>
      coxRuns s = true)
      {s0 with pwr := {s0.pwr with scale := 67}}) := by
  refine ⟨?_, ?_, ?_, ?_, ?_⟩
  · exact ⟨by unfold Admitted Asked; decide +kernel, by decide +kernel, by decide +kernel, by decide +kernel,
      by decide +kernel⟩
  · exact ⟨by unfold EndsNext; decide +kernel, by decide +kernel⟩
  · exact ⟨by unfold Admitted Asked; decide +kernel, by decide +kernel⟩
  · exact ⟨by unfold EndsNext; decide +kernel, by decide +kernel⟩
  · dsimp only
    all_goals (decide +kernel)

/-- `Obligations.CoxAtItsOwnTimes`: a state and operands that meet the hypotheses, clause by clause. -/
theorem test_coxAtItsOwnTimes :
    -- clause 1
    ((fun (x : Readings) (s : State) =>
      coxRuns s = true)
      rds s0) ∧
    -- clause 1
    ((fun (s : State) =>
      coxRuns s = true)
      (sLog cA)) ∧
    -- clause 1
    ((fun (s : State) =>
      coxRuns s = true)
      {sLog cA with cox := {(sLog cA).cox with corr := [(1,(2,3))]}}) ∧
    -- clause 1
    ((fun (pc : BitVec 32) (s : State) =>
      coxRuns s = true)
      77 ((sLog cA).modChan cN fun _ => {chn 1 [] true with busy := true})) ∧
    -- clause 5
    ((fun (sh : Fin 64) (a : BitVec 64) (s : State) (tid : Nat) =>
      (s.shell sh).holder = some tid)
      0 0xFFFFFFFFFFFFFFFF s0 1) ∧
    -- clause 11
    ((fun (c : Chan) (s : State) =>
      (s.chan c).go = true ∧
      serves s c = true)
      cA (sC cA (chn mbCalibRun []))) := by
  refine ⟨?_, ?_, ?_, ?_, ?_, ?_⟩
  · dsimp only
    all_goals (decide +kernel)
  · dsimp only
    all_goals (decide +kernel)
  · dsimp only
    all_goals (decide +kernel)
  · dsimp only
    all_goals (decide +kernel)
  · dsimp only
    all_goals (decide +kernel)
  · exact ⟨by decide +kernel, by decide +kernel⟩

/-- `Obligations.KeyStoreAndAttestation`: a state and operands that meet the hypotheses, clause by clause. -/
theorem test_keyStoreAndAttestation_1 :
    -- clause 1
    ((fun (c : Chan) (s : State) =>
      Admitted s c mbStageWrite true (some 2) ∧
      stagingBusy s c = false ∧
      (let pl := blkPayload (s.chan c);
      8 ≤ pl.length ∧
      (let off := leNat (pl.take 8);
      off + (pl.drop 8).length ≤ stagingSize)))
      cA (sKs cA mbStageWrite (leBytes 8 4090 ++ [1,2,3,4,5,6]))) ∧
    -- clause 2
    ((fun (c : Chan) (slot : Fin 64) (a : BitVec 256) (s : State) =>
      Admitted s c mbKsImport true (some 2) ∧
      ksWorks s = true ∧
      attrOk a = true ∧
      tfind s.sec.ks slot = none)
      cA 4 attr0 (sKs cA mbKsImport)) ∧
    -- clause 3
    ((fun (c : Chan) (s : State) (o : LongOp) (slot : Fin 64) (a : BitVec 256) =>
      EndsNext s c o ∧
      o.act = .ksImport slot a ∧
      tfind s.sec.ks slot = none)
      cA (sLo (.ksImport 4 attr0) mbKsImport) (loA (.ksImport 4 attr0) mbKsImport) 4 attr0) ∧
    -- clause 4
    ((fun (c : Chan) (slot : Fin 64) (s : State) =>
      Admitted s c mbKsErase true (some 2) ∧
      ksWorks s = true)
      cA 3 (sKs cA mbKsErase)) ∧
    -- clause 5
    ((fun (c : Chan) (slot : Fin 64) (a : BitVec 256) (s : State) (k : KsSlot) =>
      Admitted s c mbKsRoll true (some 2) ∧
      ksWorks s = true ∧
      tfind s.sec.ks slot = some k ∧
      attrOk a = true ∧
      sameKind a k.attr = true)
      cA 3 attr0 (sKs cA mbKsRoll) {attr := attr0, secret := [1,2]}) ∧
    -- clause 6
    ((fun (c : Chan) (s : State) (o : LongOp) (slot : Fin 64) (a : BitVec 256) (k : KsSlot) =>
      EndsNext s c o ∧
      o.act = .ksRoll slot a ∧
      tfind s.sec.ks slot = some k)
      cA (sLo (.ksRoll 3 attr0) mbKsRoll) (loA (.ksRoll 3 attr0) mbKsRoll) 3 attr0 {attr := attr0, secret := [1,2]}) ∧
    -- clause 7
    ((fun (c : Chan) (q : PkReq) (s : State) (x : List Byte) =>
      Admitted s c mbPkRun true (some 2) ∧
      ksWorks s = true ∧
      q.src + q.len ≤ stagingSize ∧
      q.dst < stagingSize ∧
      pkSecret s c q = some x)
      cA {pk0 with op := .rsaPublic, dst := 4095, src := 4000, len := 96} (sKs cA mbPkRun) []) ∧
    -- clause 8
    ((fun (c : Chan) (q : PkReq) (s : State) =>
      Admitted s c mbPkRun true (some 2) ∧
      ksWorks s = true ∧
      q.src + q.len ≤ stagingSize ∧
      q.dst < stagingSize ∧
      pkSecret s c q = none)
      cA {pk0 with slot := 4} (sKs cA mbPkRun)) := by
  refine ⟨?_, ?_, ?_, ?_, ?_, ?_, ?_, ?_⟩
  · exact ⟨by unfold Admitted Asked; decide +kernel, by decide +kernel, by decide +kernel, by decide +kernel⟩
  · exact ⟨by unfold Admitted Asked; decide +kernel, by decide +kernel, by decide +kernel, by decide +kernel⟩
  · exact ⟨by unfold EndsNext; decide +kernel, by decide +kernel, by decide +kernel⟩
  · exact ⟨by unfold Admitted Asked; decide +kernel, by decide +kernel⟩
  · exact ⟨by unfold Admitted Asked; decide +kernel, by decide +kernel, by decide +kernel, by decide +kernel,
      by decide +kernel⟩
  · exact ⟨by unfold EndsNext; decide +kernel, by decide +kernel, by decide +kernel⟩
  · exact ⟨by unfold Admitted Asked; decide +kernel, by decide +kernel, by decide +kernel, by decide +kernel,
      by decide +kernel⟩
  · exact ⟨by unfold Admitted Asked; decide +kernel, by decide +kernel, by decide +kernel, by decide +kernel,
      by decide +kernel⟩

/-- `Obligations.KeyStoreAndAttestation`: a state and operands that meet the hypotheses, clause by clause. -/
theorem test_keyStoreAndAttestation_2 :
    -- clause 9
    ((fun (c : Chan) (s : State) (o : LongOp) (q : PkReq) (x : List Byte) =>
      EndsNext s c o ∧
      o.act = .pkRun q x ∧
      s.sec.bnLocked = true ∧
      q.dst < stagingSize)
      cA {sLo (.pkRun pk0 [1]) mbPkRun with sec := {(sKs cA 1).sec with bnLocked := true}}
      (loA (.pkRun pk0 [1]) mbPkRun) pk0 [1]) ∧
    -- clause 10
    ((fun (c : Chan) (n : BitVec 256) (s : State) =>
      Admitted s c mbAttest true (some 2) ∧
      ksWorks s = true)
      cA 99 (sKs cA mbAttest)) ∧
    -- clause 11
    ((fun (c : Chan) (s : State) (o : LongOp) (n : BitVec 256) =>
      EndsNext s c o ∧
      o.act = .attest n ∧
      (rpmbOf s 5).toNat < 2 ^ 20)
      cA {sLo (.attest 99) mbAttest with sec := {(sKs cA 1).sec with rpmb := [(5,2^20-1)]}}
      (loA (.attest 99) mbAttest) 99) := by
  refine ⟨?_, ?_, ?_⟩
  · exact ⟨by unfold EndsNext; decide +kernel, by decide +kernel, by decide +kernel, by decide +kernel⟩
  · exact ⟨by unfold Admitted Asked; decide +kernel, by decide +kernel⟩
  · exact ⟨by unfold EndsNext; decide +kernel, by decide +kernel, by decide +kernel⟩

/-- `Obligations.ReadingOperations`: a state and operands that meet the hypotheses of clause 5. -/
theorem test_readingOperations_c5 :
    (fun (c : Chan) (ty : BitVec 8) (s : State) (x : TwoCopy (List Byte)) (r : List Byte) =>
      Admitted s c mbCfgRead false none ∧
      ty.toNat ≠ 0 ∧
      ty.toNat ≤ 4 ∧
      tfind s.cox.config ty.toNat = some x ∧
      x.take (fun _ => true) = some r)
      cA 1 (sCf cA mbCfgRead 1 5 10) (TwoCopy.none.put (rec1 1 5 10)) (rec1 1 5 10) := by
  exact ⟨by unfold Admitted Asked; decide +kernel, by decide +kernel, by decide +kernel, by decide +kernel,
    by decide +kernel⟩

/-- `Obligations.DrainsAndUnitResets`: a state and operands that meet the hypotheses of clause 2. -/
theorem test_drainsAndUnitResets_c2 :
    (fun (L : Fin 64) (ok : Bool) (s : State) (o : DrainOpts) =>
      (s.shell L).drain = .marked o ∧
      drainHeld s = false ∧
      s.tasks.any (fun e => holdsShell e.2 L) = false ∧
      drained s L = true)
      0 true (sDr (.marked o00)) o00 := by
  exact ⟨by decide +kernel, by decide +kernel, by decide +kernel, by decide +kernel⟩

/-- `Obligations.CoxAtItsOwnTimes`: a state and operands that meet the hypotheses of clause 10. -/
theorem test_coxAtItsOwnTimes_c10 :
    (fun (s : State) =>
      s.cox.logBuf.length < logMax)
      s0 := by
  exact by decide +kernel

end Mailing

/-! ## Stacked memory, service ports and windows -/

namespace Storing

def sX : State := s0

def rds : Readings :=
    {feedA := .ok 5, feedB := .ok 6, vin := .bad, curA := .ok 5, curB := .ok 5, auxV := .ok 5, auxI := .ok 5, power := .ok 5, regs := [.ok 5, .bad], coolant := .ok 5}

def sOff (n : Nat) (s : State := sX) : State :=
    {s with svc := {s.svc with smbOff := BitVec.ofNat 10 n, smbSecure := true}}

def blk16 : List Byte := leBytes 16 (1 + 2^32*5)

def sJ (b : Bool) : State := {s0 with svc := {s0.svc with trst := b, bypass := true, cells := [true,false]}}

def en (l : Nat) (m : Nat) (d : Nat) : WEntry :=
    {line := l, mask := BitVec.ofNat 64 m, data := BitVec.ofNat 512 d, reserve := false, since := 0, cycle := []}

def sW (es : List WEntry) : State := {sRing with mem := mput [] 4000 (leBytes 200 (3^900))}.modStack 0 fun x =>
    {x with wcb := es}

def sW0 := sW [en 64 0xFF00 (7^170), en 65 (2^64-1) (5^200)]

def sNo := sW0.modStack 0 fun x => {x with credits := false}

def wA : MWin :=
    {MWin.reset with en := true, acc := true, rd := true, wr := true, etype := 1, wstate := 1, pages := 2, frames := [0, 1], chk := 31}

def sA (w : MWin) : State := sW0.modCtx 1 fun c => {c with mwins := [(3,w)]}

def rw1 : Row := {ch := 3, bank := 4, row := 10}

def rw0 : Row := {ch := 3, bank := 4, row := 9}

def wq : WinReq := {src := 1, owner := 0, win := 15, off := 70, acc := .write (leBytes 8 77)}

def win0 : Window :=
    {base := 100, len := 4, rd := true, wr := true, keep := false, shells := 2, peers := 1, task := 1, ctx := 1, inst := 1}

def sWi (w : Option Window) : State :=
    {sData with shells := [(0,{sData.shell 0 with windows := (w.map fun w => (15,w)).toList}), (1, {Shell.reset 1 with maint := false, holder := some 1})], tasks := [(1,{t0 with shells := 3})]}

def sAp (w : MWin) : State := ((sA w).modFn (fnKey .A 0) fun x => {x with apCtx := 1}).modCtx 1 fun c =>
    {c with peers := [(63,{rid := 0x55, v := true, rpos := 0})]}

def wP : MWin := {wA with acc := false, peers := 2^63, land := 9}

def oP (w off : Nat) : Nat := 2^35 + 2^31*w + off

def rdp (off n : Nat) (s : State) : Act (List (List Byte)) := (accPieces wP off n).mapM fun z => stackRead .iod 2 z.1 z.2

def sAp' := (sAp wP).bump (portCtr .A 10)

def smp : Sample := {ctx := 1, win := 3, elem := 5, etype := 1, modulus := 0, old := 7, inp := 8, new := 15}

def sSm : State := ((sAp wP).modShell 5 fun x => {x with checkQ := [smp, smp]}).modCtx 1 fun c =>
    {c with cnt := [(9,{v := 4, holder := some 1})]}

def sy (y : Sync) : State := {sRing with sync := y}

def frm (alm rtt load seq : Nat) : BitVec 100 := BitVec.ofNat 100 (let v := alm + 2^64*rtt + 2^80*load+2^84*seq; v +
    2^92*(crc8 v 92 0).toNat)

/-- `Obligations.ServicePorts`: a state and operands that meet the hypotheses, clause by clause. -/
theorem test_servicePorts_1 :
    -- clause 1
    ((fun (s : State) (w : BitVec 16) (bs : List Byte) (n : Nat) (y : Option Byte) (i : _) =>
      s.up.aux = true)
      sX 0x8005 [1,2] 5 none (Instr.smbBlockWrite false [1,2])) ∧
    -- clause 2
    ((fun (s : State) =>
      s.up.aux = true)
      sX) ∧
    -- clause 3
    ((fun (s : State) (x : List Nat) =>
      s.up.aux = true ∧
      s.cox.snapshot = some x)
      {sX with cox := {s0.cox with snapshot := some [4, 5]}} [4, 5]) ∧
    -- clause 4
    ((fun (s : State) (w : BitVec 16) =>
      s.up.aux = true)
      sX 0x83FF) ∧
    -- clause 5
    ((fun (s : State) (bs : List Byte) =>
      s.up.aux = true ∧
      bs.length ≤ 32 ∧
      (s.chan (smbChan s)).go = false)
      (sOff 1020) (List.range 32 |>.map (BitVec.ofNat 8))) ∧
    -- clause 6
    ((fun (s : State) (n : Nat) =>
      s.up.aux = true ∧
      n ≤ 32)
      ((sOff 1020).modChan (.bmc true) fun x => {x with buf := mput [] 1000 (leBytes 24 (3^100))}) 32) ∧
    -- clause 7
    ((fun (s : State) =>
      s.up.aux = true)
      (sOff 1020)) ∧
    -- clause 8
    ((fun (block : List Byte) (s : State) =>
      s.up.aux = true ∧
      s.svc.uartIn = false ∧
      16 ≤ block.length ∧
      block.length ≤ 1024 ∧
      (s.chan .uart).go = false)
      blk16 sX) := by
  refine ⟨?_, ?_, ?_, ?_, ?_, ?_, ?_, ?_⟩
  · dsimp only
    all_goals (decide +kernel)
  · dsimp only
    all_goals (decide +kernel)
  · exact ⟨by decide +kernel, by decide +kernel⟩
  · dsimp only
    all_goals (decide +kernel)
  · exact ⟨by decide +kernel, by decide +kernel, by decide +kernel⟩
  · exact ⟨by decide +kernel, by decide +kernel⟩
  · dsimp only
    all_goals (decide +kernel)
  · exact ⟨by decide +kernel, by decide +kernel, by decide +kernel, by decide +kernel, by decide +kernel⟩

/-- `Obligations.ServicePorts`: a state and operands that meet the hypotheses, clause by clause. -/
theorem test_servicePorts_2 :
    -- clause 9
    ((fun (block : List Byte) (crc : BitVec 32) (s : State) =>
      s.up.aux = true ∧
      s.svc.uartIn = false ∧
      16 ≤ block.length ∧
      block.length ≤ 1024 ∧
      crc32 block ≠ crc)
      blk16 0 sX) ∧
    -- clause 10
    ((fun (s : State) =>
      s.up.aux = true ∧
      s.svc.uartIn = false ∧
      (s.chan .uart).go = true ∧
      (s.chan .uart).busy = false)
      (sX.modChan .uart fun x => {x with go := true})) ∧
    -- clause 12
    ((fun (s : State) =>
      s.svc.trst = true)
      (sJ true)) ∧
    -- clause 13
    ((fun (s : State) (tdi : Bool) =>
      s.svc.trst = true)
      (sJ true) true) ∧
    -- clause 14
    ((fun (s : State) (pins cells : List Bool) =>
      s.svc.trst = true)
      (sJ true) [true] [false]) ∧
    -- clause 15
    ((fun (s : State) (tdi : Bool) =>
      s.svc.trst = true)
      (sJ true) true) ∧
    -- clause 17
    ((fun (s : State) (tdi : Bool) =>
      s.svc.trst = false)
      (sJ false) false) := by
  refine ⟨?_, ?_, ?_, ?_, ?_, ?_, ?_⟩
  · exact ⟨by decide +kernel, by decide +kernel, by decide +kernel, by decide +kernel, by decide +kernel⟩
  · exact ⟨by decide +kernel, by decide +kernel, by decide +kernel, by decide +kernel⟩
  · dsimp only
    all_goals (decide +kernel)
  · dsimp only
    all_goals (decide +kernel)
  · dsimp only
    all_goals (decide +kernel)
  · dsimp only
    all_goals (decide +kernel)
  · dsimp only
    all_goals (decide +kernel)

/-- `Obligations.StackReadsAndWrites`: a state and operands that meet the hypotheses, clause by clause. -/
theorem test_stackReadsAndWrites_1 :
    -- clause 3
    (fun (p : Port) (a n : Nat) (s : State) =>
      a + n ≤ 2 ^ 38 ∧
      taking s a = false)
      .A 4090 100 sNo := by
  exact ⟨by decide +kernel, by decide +kernel⟩



/-- `Obligations.RefreshSparingAndPatrols`: a state and operands that meet the hypotheses, clause by clause. -/
theorem test_refreshSparingAndPatrols_1 :
    -- clause 3
    ((fun (st : Fin 8) (s : State) =>
      s.mode.fixed = false ∧
      (s.stack st).selfRefresh = false)
      7 (sRing.modStack 7 fun x => {x with nextRetrain := 65, retrainFail := [(65,1)]})) ∧
    -- clause 4
    ((fun (st : Fin 8) (b : Bool) (s : State) =>
      s.mode.fixed = true)
      7 true {sRing with mode := {s0.mode with fixed := true}}) ∧
    -- clause 5
    ((fun (st : Fin 8) (ch : Fin 66) (s : State) (l : Nat) =>
      (s.stack st).selfRefresh = false ∧
      tget 0 (s.stack st).retrainFail ch = 1 ∧
      logicalOf (s.stack st) ch = some l ∧
      physChan (s.stack st) l ≠ lostChan ∧
      (s.stack st).spareUsed.getLsbD (l / 32) = false ∧
      (s.stack st).copying.any (fun c => decide (c.logical / 32 = l / 32)) = false)
      7 63 (sRing.modStack 7 fun x => {x with retrainFail := [(63,1)]}) 63) ∧
    -- clause 6
    ((fun (st : Fin 8) (ch : Fin 66) (s : State) =>
      (s.stack st).selfRefresh = false)
      7 65 (sRing.modStack 7 fun x => {x with retrainFail := [(65,1)]})) ∧
    -- clause 7
    ((fun (st : Fin 8) (half : Fin 2) (s : State) (c : ChanCopy) =>
      (s.stack st).copying.find? (fun c => c.logical / 32 = half.val) = some c)
      7 1 (sRing.modStack 7 fun x => {x with copying := [{logical := 3, spare := 64},{logical := 33, spare := 65}]})
      {logical := 33, spare := 65}) ∧
    -- clause 8
    ((fun (st : Fin 8) (s : State) (r : Row) =>
      dueRow (s.stack st) = some r ∧
      nextSpare (s.stack st) r < 8)
      7 (sRing.modStack 7 fun x => {x with rowPending := [rw1, rw0]}) rw0) ∧
    -- clause 9
    ((fun (st : Fin 8) (s : State) =>
      (s.stack st).credits = true)
      7 (sRing.modStack 7 fun x => {x with patrol := stackLines - 1})) := by
  refine ⟨?_, ?_, ?_, ?_, ?_, ?_, ?_⟩
  · exact ⟨by decide +kernel, by decide +kernel⟩
  · dsimp only
    all_goals (decide +kernel)
  · exact ⟨by decide +kernel, by decide +kernel, by decide +kernel, by decide +kernel, by decide +kernel,
      by decide +kernel⟩
  · dsimp only
    all_goals (decide +kernel)
  · dsimp only
    all_goals (decide +kernel)
  · exact ⟨by decide +kernel, by decide +kernel⟩
  · dsimp only
    all_goals (decide +kernel)

/-- `Obligations.RefreshSparingAndPatrols`: a state and operands that meet the hypotheses, clause by clause. -/
theorem test_refreshSparingAndPatrols_2 :
    -- clause 10
    ((fun (sh : Fin 64) (s : State) (g : Nat) =>
      patrolGroup (s.shell sh) = some g)
      0 (sData.modShell 0 fun x => {x with patrolGrp := 4095, lineErr := [(262143, ⟨[0], false, false⟩)]}) 4095) ∧
    -- clause 11
    ((fun (sh : Fin 64) (line : Fin 262144) (s : State) =>
      (s.shell sh).wbPending.contains line.val = true)
      0 262143
      (sData.modShell 0 fun x => {x with patrolGrp := 0, lineErr := [(262143, ⟨[0], false, false⟩)], wbPending := [4,262143]})) := by
  refine ⟨?_, ?_⟩
  · dsimp only
    all_goals (decide +kernel)
  · dsimp only
    all_goals (decide +kernel)

/-- `Obligations.WindowsAndPeers`: a state and operands that meet the hypotheses, clause by clause. -/
theorem test_windowsAndPeers :
    -- clause 1
    ((fun (q : WinReq) (s : State) (tid : Nat) (t : Task) (win : Window) =>
      (s.shell q.src).holder = some tid ∧
      tfind s.tasks tid = some t ∧
      tfind (s.shell q.owner).windows q.win = some win ∧
      ∃ (u : State), (winAccess q.owner q.src t.ctx (winPieces win.base q.off (accLen q.acc)) q.acc).go s = (.ok (),
          u))
      wq (sWi win0) 1 {t0 with shells := 3} win0) ∧
    -- clause 2
    ((fun (q : WinReq) (s : State) (tid : Nat) (t : Task) =>
      (s.shell q.src).holder = some tid ∧
      tfind s.tasks tid = some t ∧
      tfind (s.shell q.owner).windows q.win = none)
      wq (sWi none) 1 {t0 with shells := 3}) ∧
    -- clause 3
    ((fun (p : Port) (f : Fin 32) (rid : BitVec 16) (off : BitVec 36) (a : Access) (s : State) =>
      apertureCtx s p f = none)
      .A 0 0x55 0 (.read 8) sRing) ∧
    -- clause 8
    ((fun (p : Port) (f : Fin 32) (rid : BitVec 16) (w : Fin 16) (s : State) (c : Nat) =>
      apertureCtx s p f = some c ∧
      (let m := tget MWin.reset (s.ctx c).mwins w;
      winTakes m (s.ctx c) rid true = true ∧
      m.wstate ≠ 3))
      .A 0 0x55 3 (sAp wP) 1) ∧
    -- clause 9
    ((fun (sh : Fin 64) (s : State) (x : Sample) (q : List Sample) =>
      (s.shell sh).checkQ = x :: q ∧
      sampleSum x = x.new)
      5 sSm smp [smp]) ∧
    -- clause 10
    ((fun (sh : Fin 64) (s : State) (x : Sample) (q : List Sample) (r : Nat) =>
      (s.shell sh).checkQ = x :: q ∧
      r ≠ x.new ∧
      (tget MWin.reset (s.ctx x.ctx).mwins x.win).en = true)
      5 sSm smp [smp] 16) := by
  refine ⟨?_, ?_, ?_, ?_, ?_, ?_⟩
  · exact ⟨by decide +kernel, by decide +kernel, by decide +kernel, _, okEq1 (by decide +kernel)⟩
  · exact ⟨by decide +kernel, by decide +kernel, by decide +kernel⟩
  · dsimp only
    all_goals (decide +kernel)
  · exact ⟨by decide +kernel, by decide +kernel, by decide +kernel⟩
  · exact ⟨by decide +kernel, by decide +kernel⟩
  · exact ⟨by decide +kernel, by decide +kernel, by decide +kernel⟩

/-- `Obligations.SyncWires`: a state and operands that meet the hypotheses, clause by clause. -/
theorem test_syncWires :
    -- clause 1
    ((fun (load rtt : Nat) (s : State) =>
      s.sync.role = 1)
      8 800 (sy {Sync.reset with role := 1})) ∧
    -- clause 2
    ((fun (s : State) =>
      s.sync.role = 1 ∧
      s.sync.range = false)
      (sy {Sync.reset with role := 1, seq := 255, rtt := 70000, load := 17})) ∧
    -- clause 3
    ((fun (s : State) =>
      s.sync.role = 1 ∧
      s.sync.range = true)
      (sy {Sync.reset with role := 1, seq := 255, range := true})) ∧
    -- clause 4
    ((fun (fr : BitVec 100) (td : BitVec 64) (r : Nat) (s : State) =>
      s.sync.role = 2 ∧
      s.sync.synced = false ∧
      crc8 (bits fr.toNat 91 0) 92 0 = BitVec.ofNat 8 (bits fr.toNat 99 92))
      (frm 1000 200 4 7) 5000 101 (sy {Sync.reset with role := 2})) ∧
    -- clause 5
    ((fun (fr : BitVec 100) (td : BitVec 64) (r : Nat) (s : State) =>
      s.sync.role = 2 ∧
      crc8 (bits fr.toNat 91 0) 92 0 ≠ BitVec.ofNat 8 (bits fr.toNat 99 92))
      (frm 1000 200 4 7 ^^^ 1) 5000 101 (sy {Sync.reset with role := 2})) ∧
    -- clause 6
    ((fun (fr : BitVec 100) (td : BitVec 64) (r : Nat) (s : State) =>
      s.sync.role = 2 ∧
      s.sync.synced = true ∧
      crc8 (bits fr.toNat 91 0) 92 0 = BitVec.ofNat 8 (bits fr.toNat 99 92) ∧
      bits fr.toNat 91 84 = (s.sync.lastSeq + 1) % 256)
      (frm 1000 200 4 0) 1014 101 (sy {Sync.reset with role := 2, synced := true, lastSeq := 255, good := 7})) ∧
    -- clause 7
    ((fun (s : State) =>
      s.sync.role = 2 ∧
      s.sync.synced = true)
      (sy {Sync.reset with role := 2, synced := true, locked := true, lastSeq := 255, good := 7})) := by
  refine ⟨?_, ?_, ?_, ?_, ?_, ?_, ?_⟩
  · dsimp only
    all_goals (decide +kernel)
  · exact ⟨by decide +kernel, by decide +kernel⟩
  · exact ⟨by decide +kernel, by decide +kernel⟩
  · exact ⟨by decide +kernel, by decide +kernel, by decide +kernel⟩
  · exact ⟨by decide +kernel, by decide +kernel⟩
  · exact ⟨by decide +kernel, by decide +kernel, by decide +kernel, by decide +kernel⟩
  · exact ⟨by decide +kernel, by decide +kernel⟩

/-- `Obligations.StackReadsAndWrites`: a state and operands that meet the hypotheses of clause 1. -/
theorem test_stackReadsAndWrites_c1 :
    (fun (q : StackReq) (a n : Nat) (s : State) =>
      a + n ≤ 2 ^ 38 ∧
      (∀ p, q ≠ .host p) ∧
      taking s a = true ∧
      ∃ (u : State) (bs : List Byte),
      (stackRead (reqNode q) (classOf q) a n).go s = (.ok bs, u))
      (.shell 0 true) 4090 100 sW0 := by
  exact ⟨by decide +kernel, by exact fun _ h => StackReq.noConfusion h, by decide +kernel, _, _, okEq (by
    decide +kernel)⟩

/-- `Obligations.StackReadsAndWrites`: a state and operands that meet the hypotheses of clause 1. -/
theorem test_stackReadsAndWrites_c1e :
    (fun (q : StackReq) (a n : Nat) (s : State) =>
      a + n ≤ 2 ^ 38 ∧
      (∀ p, q ≠ .host p) ∧
      taking s a = true ∧
      ∃ (u : State) (bs : List Byte),
      (stackRead (reqNode q) (classOf q) a n).go s = (.ok bs, u))
      .management (2^38) 0 sW0 := by
  exact ⟨by decide +kernel, by exact fun _ h => StackReq.noConfusion h, by decide +kernel, _, _, okEq (by
    decide +kernel)⟩

/-- `Obligations.StackReadsAndWrites`: a state and operands that meet the hypotheses of clause 2. -/
theorem test_stackReadsAndWrites_c2 :
    (fun (p : Port) (a n : Nat) (s : State) =>
      a + n ≤ 2 ^ 38 ∧
      taking s a = true ∧
      ∃ (u : State) (bs : List Byte),
      (stackRead .iod 2 a n).go s = (.ok bs, u))
      .A 4090 100 sW0 := by
  exact ⟨by decide +kernel, by decide +kernel, _, _, okEq (by decide +kernel)⟩

/-- `Obligations.StackReadsAndWrites`: a state and operands that meet the hypotheses of clause 3. -/
theorem test_stackReadsAndWrites_c3 :
    (fun (p : Port) (a n : Nat) (s : State) =>
      a + n ≤ 2 ^ 38 ∧
      taking s a = false)
      .A 4090 100 sNo := by
  exact ⟨by decide +kernel, by decide +kernel⟩

/-- `Obligations.StackReadsAndWrites`: a state and operands that meet the hypotheses of clause 4. -/
theorem test_stackReadsAndWrites_c4 :
    (fun (q : StackReq) (a n : Nat) (s : State) =>
      a + n ≤ 2 ^ 38 ∧
      (∀ p, q ≠ .host p) ∧
      taking s a = false)
      (.shell 0 true) 4090 100 sNo := by
  exact ⟨by decide +kernel, by exact fun _ h => StackReq.noConfusion h, by decide +kernel⟩

/-- `Obligations.StackReadsAndWrites`: a state and operands that meet the hypotheses of clause 5. -/
theorem test_stackReadsAndWrites_c5 :
    (fun (q : StackReq) (a : Nat) (bs : List Byte) (s : State) =>
      a + bs.length ≤ 2 ^ 38 ∧
      a % 64 + bs.length ≤ 64 ∧
      taking s a = true ∧
      accWindow s a = none ∧
      outOfService s (256 * (a / 256)) = false ∧
      partialMark s a bs.length = none)
      (.shell 0 true) 4100 (leBytes 60 (11^100)) sW0 := by
  exact ⟨by decide +kernel, by decide +kernel, by decide +kernel, by decide +kernel, by decide +kernel,
    by decide +kernel⟩

/-- `Obligations.StackReadsAndWrites`: a state and operands that meet the hypotheses of clause 5. -/
theorem test_stackReadsAndWrites_c5f :
    (fun (q : StackReq) (a : Nat) (bs : List Byte) (s : State) =>
      a + bs.length ≤ 2 ^ 38 ∧
      a % 64 + bs.length ≤ 64 ∧
      taking s a = true ∧
      accWindow s a = none ∧
      outOfService s (256 * (a / 256)) = false ∧
      partialMark s a bs.length = none)
      (.host .A) 4096 (leBytes 64 (11^100)) (sW0.modStack 0 fun x => {x with lineErr := [(64, forcedErr)]}) := by
  exact ⟨by decide +kernel, by decide +kernel, by decide +kernel, by decide +kernel, by decide +kernel,
    by decide +kernel⟩

/-- `Obligations.StackReadsAndWrites`: a state and operands that meet the hypotheses of clause 6. -/
theorem test_stackReadsAndWrites_c6 :
    (fun (q : StackReq) (a : Nat) (bs : List Byte) (s : State) =>
      a + bs.length ≤ 2 ^ 38 ∧
      taking s a = true ∧
      ∃ (u : State),
      (bufferWrite q a bs).go s = (.ok (), u))
      (.shell 0 true) 4100 (leBytes 100 (11^100)) sW0 := by
  exact ⟨by decide +kernel, by decide +kernel, _, okEq (by decide +kernel)⟩

/-- `Obligations.StackReadsAndWrites`: a state and operands that meet the hypotheses of clause 7. -/
theorem test_stackReadsAndWrites_c7 :
    (fun (q : StackReq) (a c w off : Nat) (bs : List Byte) (m : MWin) (s : State) =>
      a + 4 ≤ 2 ^ 38 ∧
      bs.length = 4 ∧
      taking s a = true ∧
      accWindow s a = some (c, w, m, off) ∧
      m.etype = 1 ∧
      m.wstate ≠ 3 ∧
      off % 4 = 0 ∧
      stackOf (2 ^ 21 * m.frames.headD 0) = stackOf a ∧
      outOfService s (256 * (a / 256)) = false ∧
      marksIn s a 4 = [] ∧
      (∀ y ∈ (s.stack (stackOf a)).accNow, y.at_ ≠ s.clk.now) ∧
      (s.stack (stackOf a)).wcb.length < wcbAll)
      (.shell 0 true) 4100 1 3 4100 (leBytes 4 (2^32-1)) wA (sA wA) := by
  exact ⟨by decide +kernel, by decide +kernel, by decide +kernel, by decide +kernel, by decide +kernel,
    by decide +kernel, by decide +kernel, by decide +kernel, by decide +kernel, by decide +kernel,
    by decide +kernel, by decide +kernel⟩

/-- `Obligations.StackReadsAndWrites`: a state and operands that meet the hypotheses of clause 7. -/
theorem test_stackReadsAndWrites_c7e :
    (fun (q : StackReq) (a c w off : Nat) (bs : List Byte) (m : MWin) (s : State) =>
      a + 4 ≤ 2 ^ 38 ∧
      bs.length = 4 ∧
      taking s a = true ∧
      accWindow s a = some (c, w, m, off) ∧
      m.etype = 1 ∧
      m.wstate ≠ 3 ∧
      off % 4 = 0 ∧
      stackOf (2 ^ 21 * m.frames.headD 0) = stackOf a ∧
      outOfService s (256 * (a / 256)) = false ∧
      marksIn s a 4 = [] ∧
      (∀ y ∈ (s.stack (stackOf a)).accNow, y.at_ ≠ s.clk.now) ∧
      (s.stack (stackOf a)).wcb.length < wcbAll)
      (.shell 0 true) (2^21+2^21-4) 1 3 (2^22-4) (leBytes 4 (2^32-1)) {wA with chk := 0} (sA {wA with chk :=
      0}) := by
  exact ⟨by decide +kernel, by decide +kernel, by decide +kernel, by decide +kernel, by decide +kernel,
    by decide +kernel, by decide +kernel, by decide +kernel, by decide +kernel, by decide +kernel,
    by decide +kernel, by decide +kernel⟩

/-- `Obligations.RetiringEntriesIsTransparent`: a state and operands that meet the hypotheses of clause 1. -/
theorem test_retiringEntriesIsTransparent_c1 :
    (fun (st : Fin 8) (i : Nat) (s : State) (e : WEntry) =>
      (s.stack st).wcb[i]? = some e ∧
      ((s.stack st).wcb.map (·.line)).Nodup ∧
      stackOf (64 * e.line) = st.val ∧
      (e.mask = BitVec.allOnes 64 ∧ ((s.stack st).wcb.take i).any (fun y => decide (y.mask = BitVec.allOnes
          64)) = false ∨ e.mask ≠ BitVec.allOnes 64 ∧ e.reserve = false ∧ wcbHigh ≤ generalCount (s.stack
          st) ∧ tfind (s.stack st).lineErr (stackOff (64 * e.line) / 64) = none))
      0 1 sW0 (en 65 (2^64-1) (5^200)) := by
  exact ⟨by decide +kernel, by decide +kernel, by decide +kernel, by decide +kernel⟩

/-- `Obligations.RetiringEntriesIsTransparent`: a state and operands that meet the hypotheses of clause 2. -/
theorem test_retiringEntriesIsTransparent_c2 :
    (fun (st : Fin 8) (i : Nat) (s : State) (e : WEntry) =>
      (s.stack st).wcb[i]? = some e ∧
      ((s.stack st).wcb.map (·.line)).Nodup ∧
      stackOf (64 * e.line) = st.val ∧
      e.mask ≠ BitVec.allOnes 64 ∧
      partialNs ≤ s.since e.since ∧
      tfind (s.stack st).lineErr (stackOff (64 * e.line) / 64) = none)
      0 0 sW0 (en 64 0xFF00 (7^170)) := by
  exact ⟨by decide +kernel, by decide +kernel, by decide +kernel, by decide +kernel, by decide +kernel,
    by decide +kernel⟩

/-- `Obligations.RefreshSparingAndPatrols`: a state and operands that meet the hypotheses of clause 1. -/
theorem test_refreshSparingAndPatrols_c1 :
    (fun (st : Fin 8) (ch : Fin 64) (bank : Fin 16) (s : State) =>
      s.mode.fixed = false ∧
      (s.stack st).selfRefresh = false ∧
      (let k := 16 * ch.val + bank.val;
      (let due := tget ((s.stack st).refBase + refreshNs (s.stack st)) (s.stack st).refresh k;
      due ≤ s.clk.now + 4 * refreshNs (s.stack st))))
      7 63 15 {sRing with clk := {s0.clk with now := 0}} := by
  exact ⟨by decide +kernel, by decide +kernel, by decide +kernel⟩

/-- `Obligations.RefreshSparingAndPatrols`: a state and operands that meet the hypotheses of clause 2. -/
theorem test_refreshSparingAndPatrols_c2 :
    (fun (st : Fin 8) (ch : Fin 64) (bank : Fin 16) (s : State) =>
      s.mode.fixed = true ∧
      (s.stack st).selfRefresh = false)
      7 63 15 {sRing with mode := {s0.mode with fixed := true}} := by
  exact ⟨by decide +kernel, by decide +kernel⟩

/-- `Obligations.WindowsAndPeers`: a state and operands that meet the hypotheses of clause 4. -/
theorem test_windowsAndPeers_c4 :
    (fun (p : Port) (f : Fin 32) (rid : BitVec 16) (off : BitVec 36) (a : Access) (c : Nat) (s : State) =>
      apertureCtx s p f = some c ∧
      off.toNat < 2 ^ 35 ∧
      (let L := bits off.toNat 34 29;
      (∀ win, tfind (s.shell L).windows (bits off.toNat 28 25) = some win → peerWindow (s.shell L) (s.ctx c)
          c rid win (isWrite a) = false)))
      .A 0 0x55 (BitVec.ofNat 36 (2^29 + 7*2^25 + 5)) (.write [1]) 1 (sAp wP) := by
  exact ⟨by decide +kernel, by decide +kernel, by decide +kernel⟩

/-- `Obligations.WindowsAndPeers`: a state and operands that meet the hypotheses of clause 5. -/
theorem test_windowsAndPeers_c5 :
    (fun (p : Port) (f : Fin 32) (rid : BitVec 16) (off : BitVec 36) (a : Access) (c : Nat) (s : State) =>
      apertureCtx s p f = some c ∧
      2 ^ 35 ≤ off.toNat ∧
      winTakes (tget MWin.reset (s.ctx c).mwins (bits off.toNat 34 31)) (s.ctx c) rid (isWrite a) = false)
      .A 0 0x55 (BitVec.ofNat 36 (oP 3 0)) (.write [1]) 1 (sAp {wP with wr := false}) := by
  exact ⟨by decide +kernel, by decide +kernel, by decide +kernel⟩

/-- `Obligations.WindowsAndPeers`: a state and operands that meet the hypotheses of clause 6. -/
theorem test_windowsAndPeers_c6 :
    (fun (p : Port) (f : Fin 32) (rid : BitVec 16) (off : BitVec 36) (n c : Nat) (s : State) =>
      apertureCtx s p f = some c ∧
      (let o := off.toNat;
      2 ^ 35 ≤ o ∧
      (let m := tget MWin.reset (s.ctx c).mwins (bits o 34 31);
      winTakes m (s.ctx c) rid false = true ∧
      s.pwr.stage < 3 ∧
      bits o 30 0 + n ≤ 2 ^ 21 * m.pages.toNat ∧
      (fenceOff + 8 ≤ bits o 30 0 ∨ bits o 30 0 + n ≤ fenceOff) ∧
      ∃ (u : State) (bs : List (List Byte)),
      Act.go ((accPieces m (bits o 30 0) n).mapM fun z => stackRead .iod 2 z.1 z.2) (s.bump (portCtr p 10))
          = (.ok bs, u))))
      .A 0 0x55 (BitVec.ofNat 36 (oP 3 4090)) 100 1 (sAp wP) := by
  exact ⟨by decide +kernel, by decide +kernel, by decide +kernel, by decide +kernel, by decide +kernel,
    by decide +kernel, _, _, okEq (by decide +kernel)⟩

/-- `Obligations.WindowsAndPeers`: a state and operands that meet the hypotheses of clause 7. -/
theorem test_windowsAndPeers_c7 :
    (fun (p : Port) (f : Fin 32) (rid : BitVec 16) (off : BitVec 36) (bs : List Byte) (c : Nat) (s : State) =>
      apertureCtx s p f = some c ∧
      (let o := off.toNat;
      2 ^ 35 ≤ o ∧
      (let m := tget MWin.reset (s.ctx c).mwins (bits o 34 31);
      winTakes m (s.ctx c) rid true = true ∧
      m.wstate ≠ 3 ∧
      s.pwr.stage < 3 ∧
      bits o 30 0 + bs.length ≤ 2 ^ 21 * m.pages.toNat ∧
      (fenceOff + 8 ≤ bits o 30 0 ∨ bits o 30 0 + bs.length ≤ fenceOff) ∧
      ∃ (u : State),
      (storeParts .iod (partsOf (accPieces m (bits o 30 0) bs.length) bs)).go (s.bump (portCtr p 10)) = (.ok
          (), u))))
      .A 0 0x55 (BitVec.ofNat 36 (oP 3 (2^22-4))) (leBytes 4 77) 1 (sAp wP) := by
  exact ⟨by decide +kernel, by decide +kernel, by decide +kernel, by decide +kernel, by decide +kernel,
    by decide +kernel, by decide +kernel, _, okEq (by decide +kernel)⟩

/-- `Obligations.RetiringEntriesIsTransparent`: a state and operands that meet the hypotheses of clause 3. -/
theorem test_retiringEntriesIsTransparent_c3 :
    (fun (st : Fin 8) (i : Nat) (s : State) (e : WEntry) =>
      (s.stack st).wcb[i]? = some e ∧
      s.since e.since < partialNs)
      0 0 (sW [{en 64 0xFF00 (7^170) with since := 900}]) {en 64 0xFF00 (7^170) with since := 900} := by
  exact ⟨by decide +kernel, by decide +kernel⟩

end Storing

/-! ## Power, thermal and sheds -/

namespace Powering

def fd (p c : Bool) (cv : Nat) (r : Bool := false) : Feed :=
    {present := p, connected := c, cv := cv, reverseOpen := r}

def sF (a b : Feed) : State :=
    {sRing with tasks := [(1,t0)], pwr := {s0.pwr with feedA := a, feedB := b, vin := 4700}, mem := mput [] 4 [5]}

def sClk (a b : Bool) (s : State) : State := {s with clk := {s.clk with refA := a, refB := b, coreRef := some .A}}

def pin0 : PowerIn := {other := 1000, demand := List.replicate 64 2000}

def sP (f : Power → Power := id) : State :=
    {sRing with pwr := f {s0.pwr with rampCeil := 900000000, ceilFloor := 400000000, vin := 4800}}

def fh : FeastHint := {start := 11000, dur := 7, power := 5000000}

def dr (a b c : List Reading) : DieReadings := {die0 := a, die1 := b, iod := c}

def tR : Task := {t0 with save := 4096}

def sS (k v : Nat) (ts : Tab Task := [(1,tR),(2,t2),(3,{t0 with st := .admitted})]) : State :=
    {sRing with tasks := ts, pwr := {s0.pwr with stage := k, vin := v, preRamp := some (4,5), dip := if k = 0 then none else some {deepest := k, alm := 0, entry := [], exit := [], lowest := 5000, lowA := 0, lowB := 0, preempted := 0, aborted := 0, ballastNj := 0}}, mem := mput [] 4 [5]}

def sx3 : State := (List.range 8).foldl (fun s st => s.modStack st fun x =>
    {x with selfRefresh := false, credits := false, inS3Exit := true}) (sS 3 0
    [(1,{tR with st := .ending, s3Held := true})])

/-- `Obligations.FeedsAndReferences`: a state and operands that meet the hypotheses, clause by clause. -/
theorem test_feedsAndReferences :
    -- clause 1
    ((fun (x : Port) (mv : Nat) (s : State) =>
      (feedOf s x).present = true)
      .A 30000 (sF (fd true true 4800) (fd true true 4700))) ∧
    -- clause 2
    ((fun (x : Port) (cv : Nat) (s : State) =>
      (feedOf s x).present = true ∧
      (feedOf s x).connected = true ∧
      6100 < cv)
      .B 6101 (sF (fd true true 4800) (fd true true 4700))) ∧
    -- clause 3
    ((fun (x : Port) (cv : Nat) (s : State) =>
      (feedOf s x).present = true ∧
      (feedOf s x).connected = false ∧
      cv ≤ 5950 ∧
      (feedOf s x).reverseOpen = false)
      .B 5950 (sF (fd true true 4800) (fd true false 4700))) ∧
    -- clause 6
    ((fun (mv : Nat) (s : State) =>
      mv < 3000)
      2999
      {sF (fd true true 4800) (fd true true 4700) with ctr := [(5,6)], sec := {Security.reset with secret := true, rpmb := [(0,7)], ks := [(3,{attr := 5, secret := [1]})]}}) ∧
    -- clause 7
    ((fun (mv : Nat) (s : State) =>
      3000 ≤ mv)
      3000 (sF (fd true true 4800) (fd true true 4700))) ∧
    -- clause 8
    ((fun (p : Port) (s : State) =>
      refOf s.clk p = true ∧
      refOf s.clk (otherPort p) = true ∧
      s.clk.pll = true ∧
      s.clk.coreRef = some p)
      .A (sF (fd true true 4800) (fd true true 4700))) ∧
    -- clause 10
    ((fun (p : Port) (s : State) =>
      refOf s.clk p = true ∧
      refOf s.clk (otherPort p) = false ∧
      s.clk.pll = true)
      .A (sClk true false (sF (fd true true 4800) (fd true true 4700)))) := by
  refine ⟨?_, ?_, ?_, ?_, ?_, ?_, ?_⟩
  · dsimp only
    all_goals (decide +kernel)
  · exact ⟨by decide +kernel, by decide +kernel, by decide +kernel⟩
  · exact ⟨by decide +kernel, by decide +kernel, by decide +kernel, by decide +kernel⟩
  · dsimp only
    all_goals (decide +kernel)
  · dsimp only
    all_goals (decide +kernel)
  · exact ⟨by decide +kernel, by decide +kernel, by decide +kernel, by decide +kernel⟩
  · exact ⟨by decide +kernel, by decide +kernel, by decide +kernel⟩

/-- `Obligations.PowerControl`: a state and operands that meet the hypotheses, clause by clause. -/
theorem test_powerControl_1 :
    -- clause 1
    ((fun (x : PowerIn) (s : State) =>
      mainOn s = true)
      pin0 sP) ∧
    -- clause 1
    ((fun (x : PowerIn) (s : State) =>
      mainOn s = true)
      pin0 (sP fun p => {p with reqDie := [(0,128),(2,7)], rampCeil := 100, ceilFloor := 1300000000})) ∧
    -- clause 3
    ((fun (sh : Fin 64) (s : State) =>
      mainOn s = true)
      0 (sP.modShell 0 fun x => {x with pw := {x.pw with fNext := 9, f := 4}})) ∧
    -- clause 3
    ((fun (sh : Fin 64) (s : State) =>
      mainOn s = true)
      0 (sP.modShell 0 fun x => {x with pw := {x.pw with fNext := 0, f := 4}})) ∧
    -- clause 5
    ((fun (e : Nat) (s : State) =>
      mainOn s = true)
      50000 (sP)) ∧
    -- clause 5
    ((fun (e : Nat) (s : State) =>
      mainOn s = true)
      0 (sP fun p => {p with est := 500000000, ballast := 7})) ∧
    -- clause 6
    ((fun (sh : Fin 64) (s : State) (a e share : Nat) =>
      (s.shell sh).pw.fast = some (a, e, share) ∧
      e ≤ s.clk.now)
      0 (sP.modShell 0 fun x => {x with pw := {x.pw with fast := some (1,1000,5)}}) 1 1000 5) ∧
    -- clause 7
    ((fun (s : State) (h : FeastHint) =>
      s.pwr.preRamp = none ∧
      s.pwr.stage = 0 ∧
      hintsOff s = false ∧
      hintDue s = some h)
      (sP fun p => {p with hints := [fh, {fh with power := 9}]}) fh) := by
  refine ⟨?_, ?_, ?_, ?_, ?_, ?_, ?_, ?_⟩
  · dsimp only
    all_goals (decide +kernel)
  · dsimp only
    all_goals (decide +kernel)
  · dsimp only
    all_goals (decide +kernel)
  · dsimp only
    all_goals (decide +kernel)
  · dsimp only
    all_goals (decide +kernel)
  · dsimp only
    all_goals (decide +kernel)
  · exact ⟨by decide +kernel, by decide +kernel⟩
  · exact ⟨by decide +kernel, by decide +kernel, by decide +kernel, by decide +kernel⟩

/-- `Obligations.PowerControl`: a state and operands that meet the hypotheses, clause by clause. -/
theorem test_powerControl_2 :
    -- clause 8
    ((fun (s : State) =>
      (s.pwr.stage ≠ 0 ∨ hintsOff s = true))
      (sP fun p => {p with hints := [fh], stage := 1})) ∧
    -- clause 8
    ((fun (s : State) =>
      (s.pwr.stage ≠ 0 ∨ hintsOff s = true))
      (sP fun p => {p with hints := [fh], polEff := {Policy.reset with hintsEn := false}})) ∧
    -- clause 9
    ((fun (s : State) (power start : Nat) =>
      s.pwr.preRamp = some (power, start) ∧
      start + 10000 ≤ s.clk.now)
      {(sP fun p => {p with hints := [fh], preRamp := some (5,11000)}) with clk := {s0.clk with now := 21000}} 5
      11000) := by
  refine ⟨?_, ?_, ?_⟩
  · dsimp only
    all_goals (decide +kernel)
  · dsimp only
    all_goals (decide +kernel)
  · exact ⟨by decide +kernel, by decide +kernel⟩

/-- `Obligations.ThermalControl`: a state and operands that meet the hypotheses, clause by clause. -/
theorem test_thermalControl_1 :
    -- clause 3
    ((fun (old t0 t : Nat) =>
      280 ≤ t0 ∧
      t0 ≤ 380)
      2 280 409) ∧
    -- clause 3
    ((fun (old t0 t : Nat) =>
      280 ≤ t0 ∧
      t0 ≤ 380)
      1 380 420) := by
  refine ⟨?_, ?_⟩
  · exact ⟨by decide +kernel, by decide +kernel⟩
  · exact ⟨by decide +kernel, by decide +kernel⟩


/-- `Obligations.Shedding`: a state and operands that meet the hypotheses, clause by clause. -/
theorem test_shedding_1 :
    -- clause 1
    ((fun (v : Nat) (s : State) =>
      mainOn s = true ∧
      s.pwr.stage = 0 ∧
      fallAt s 2 ≤ v ∧
      v < fallAt s 1)
      4100 (sS 0 0)) ∧
    -- clause 1
    ((fun (v : Nat) (s : State) =>
      mainOn s = true ∧
      s.pwr.stage = 0 ∧
      fallAt s 2 ≤ v ∧
      v < fallAt s 1)
      4299 (sS 0 0)) ∧
    -- clause 2
    ((fun (v : Nat) (s : State) =>
      mainOn s = true ∧
      s.pwr.stage = 1 ∧
      fallAt s 3 ≤ v ∧
      v < fallAt s 2 ∧
      (s.tasks.map (·.1)).Nodup)
      3900 (sS 1 0)) ∧
    -- clause 3
    ((fun (v : Nat) (s : State) =>
      mainOn s = true ∧
      s.pwr.stage = 2 ∧
      fallAt s 4 ≤ v ∧
      v < fallAt s 3)
      3700
      ((sS 2 0).modStack 0 fun x => {x with wcb := [{line := 64, mask := 0xFF00, data := 7, reserve := false, since := 0, cycle := []}]})) ∧
    -- clause 4
    ((fun (v : Nat) (s : State) =>
      mainOn s = true ∧
      s.pwr.stage = 3 ∧
      v < fallAt s 4)
      3699 (sS 3 0)) ∧
    -- clause 5
    ((fun (v : Nat) (s : State) =>
      mainOn s = true ∧
      s.pwr.stage = 1 ∧
      riseAt s 1 ≤ v)
      4400 (sS 1 0)) ∧
    -- clause 6
    ((fun (v : Nat) (s : State) =>
      mainOn s = true ∧
      s.pwr.stage = 2 ∧
      riseAt s 2 ≤ v)
      4200 (sS 2 0)) ∧
    -- clause 7
    ((fun (v : Nat) (s : State) =>
      mainOn s = true ∧
      s.pwr.stage = 3 ∧
      riseAt s 3 ≤ v)
      4000 (sS 3 0)) := by
  refine ⟨?_, ?_, ?_, ?_, ?_, ?_, ?_, ?_⟩
  · exact ⟨by decide +kernel, by decide +kernel, by decide +kernel, by decide +kernel⟩
  · exact ⟨by decide +kernel, by decide +kernel, by decide +kernel, by decide +kernel⟩
  · exact ⟨by decide +kernel, by decide +kernel, by decide +kernel, by decide +kernel, by decide +kernel⟩
  · exact ⟨by decide +kernel, by decide +kernel, by decide +kernel, by decide +kernel⟩
  · exact ⟨by decide +kernel, by decide +kernel, by decide +kernel⟩
  · exact ⟨by decide +kernel, by decide +kernel, by decide +kernel⟩
  · exact ⟨by decide +kernel, by decide +kernel, by decide +kernel⟩
  · exact ⟨by decide +kernel, by decide +kernel, by decide +kernel⟩

/-- `Obligations.Shedding`: a state and operands that meet the hypotheses, clause by clause. -/
theorem test_shedding_2 :
    -- clause 8
    ((fun (v : Nat) (s : State) =>
      mainOn s = true ∧
      v < riseAt s s.pwr.stage)
      3999 (sS 3 0)) ∧
    -- clause 8
    ((fun (v : Nat) (s : State) =>
      mainOn s = true ∧
      v < riseAt s s.pwr.stage)
      0 (sS 0 0)) ∧
    -- clause 9
    ((fun (s : State) =>
      s.pwr.stage = 3 ∧
      s.stackTab.all (fun e => e.2.inS3Exit) = true ∧
      s.stackTab ≠ [] ∧
      s.portA.heldAcc = [] ∧
      s.portB.heldAcc = [])
      sx3) := by
  refine ⟨?_, ?_, ?_⟩
  · exact ⟨by decide +kernel, by decide +kernel⟩
  · exact ⟨by decide +kernel, by decide +kernel⟩
  · exact ⟨by decide +kernel, by decide +kernel, by decide +kernel, by decide +kernel, by decide +kernel⟩

/-- `Obligations.StepRunsTheFrontCommand`: a state and operands that meet the hypotheses, clause by clause. -/
theorem test_stepRunsTheFrontCommand :
    -- clause 1
    (fun (c : Instr) (r : List Instr) (s : State) =>
      s.pending = c :: r)
      (.idRead .uart) [.trst true] {s0 with pending := [.idRead .uart, .trst true]} := by
  dsimp only
  all_goals (decide +kernel)

/-- `Obligations.IdleStep`: a state and operands that meet the hypotheses, clause by clause. -/
theorem test_idleStep :
    -- clause 1
    (fun (s : State) =>
      s.pending = [])
      s0 := by
  dsimp only
  all_goals (decide +kernel)

/-- `Obligations.FeedsAndReferences`: a state and operands that meet the hypotheses of clause 9. -/
theorem test_feedsAndReferences_c9 :
    (fun (p : Port) (s : State) =>
      refOf s.clk p = true ∧
      refOf s.clk (otherPort p) = true ∧
      s.clk.pll = true ∧
      s.clk.coreRef ≠ some p)
      .B (sClk true true {s0 with clk := {s0.clk with pll := true}}) := by
  exact ⟨by decide +kernel, by decide +kernel, by decide +kernel, by decide +kernel⟩

/-- `Obligations.ThermalControl`: a state and operands that meet the hypotheses of clause 1. -/
theorem test_thermalControl_c1 :
    (fun (s : State) (x : DieReadings) (a b c : Nat) =>
      hottest x.die0 = some a ∧
      hottest x.die1 = some b ∧
      hottest x.iod = some c ∧
      a < 460 ∧
      b < 460 ∧
      c < 460)
      sP (dr [.ok 300, .ok 459] [.ok 300] [.ok 381]) 459 300 381 := by
  exact ⟨by decide +kernel, by decide +kernel, by decide +kernel, by decide +kernel, by decide +kernel,
    by decide +kernel⟩

/-- `Obligations.ThermalControl`: a state and operands that meet the hypotheses of clause 1. -/
theorem test_thermalControl_c1b :
    (fun (s : State) (x : DieReadings) (a b c : Nat) =>
      hottest x.die0 = some a ∧
      hottest x.die1 = some b ∧
      hottest x.iod = some c ∧
      a < 460 ∧
      b < 460 ∧
      c < 460)
      (sP fun p => {p with lvlDie := [(0,2)]}) (dr [.ok 300, .ok 409] [.ok 300, .bad] [.ok 381]) 409 320 381 := by
  exact ⟨by decide +kernel, by decide +kernel, by decide +kernel, by decide +kernel, by decide +kernel,
    by decide +kernel⟩

/-- `Obligations.ThermalControl`: a state and operands that meet the hypotheses of clause 2. -/
theorem test_thermalControl_c2 :
    (fun (s : State) (x : DieReadings) (r : List Reading) =>
      s.pwr.tripped = false ∧
      r ∈ [x.die0, x.die1, x.iod] ∧
      (∀ a, hottest r = some a → 460 ≤ a))
      sP (dr [.ok 460] [.ok 300] [.ok 381]) [.ok 460] := by
  exact ⟨by decide +kernel, by decide +kernel, by intro a h; have e : some 460 = some a := h; cases e; decide⟩

/-- `Obligations.ThermalControl`: a state and operands that meet the hypotheses of clause 2. -/
theorem test_thermalControl_c2b :
    (fun (s : State) (x : DieReadings) (r : List Reading) =>
      s.pwr.tripped = false ∧
      r ∈ [x.die0, x.die1, x.iod] ∧
      (∀ a, hottest r = some a → 460 ≤ a))
      sP (dr [.ok 440, .bad] [] [.ok 381]) [] := by
  exact ⟨by decide +kernel, by decide +kernel, by intro a h; have e : none = some a := h; cases e⟩

/-- `Obligations.ThermalControl`: a state and operands that meet the hypotheses of clause 5. -/
theorem test_thermalControl_c5 :
    (fun (st : Fin 8) (k : Nat) (s : State) =>
      k < 440 ∨ s.pwr.tripped = true)
      7 439 sP := by
  exact by decide +kernel

/-- `Obligations.ThermalControl`: a state and operands that meet the hypotheses of clause 5. -/
theorem test_thermalControl_c5b :
    (fun (st : Fin 8) (k : Nat) (s : State) =>
      k < 440 ∨ s.pwr.tripped = true)
      0 500 (sP fun p => {p with tripped := true}) := by
  exact by decide +kernel

/-- `Obligations.ThermalControl`: a state and operands that meet the hypotheses of clause 6. -/
theorem test_thermalControl_c6 :
    (fun (st : Fin 8) (r : Reading) (s : State) =>
      s.pwr.tripped = false ∧
      (∀ k, r = .ok k → 440 ≤ k))
      7 (.ok 440) sP := by
  exact ⟨by decide +kernel, by intro k h; cases h; decide⟩

/-- `Obligations.ThermalControl`: a state and operands that meet the hypotheses of clause 6. -/
theorem test_thermalControl_c6b :
    (fun (st : Fin 8) (r : Reading) (s : State) =>
      s.pwr.tripped = false ∧
      (∀ k, r = .ok k → 440 ≤ k))
      0 .bad sP := by
  exact ⟨by decide +kernel, by intro k h; cases h⟩

/-- `Obligations.ThermalControl`: a state and operands that meet the hypotheses of clause 7. -/
theorem test_thermalControl_c7 :
    (fun (st : Fin 8) (s : State) =>
      s.pwr.tripped = true)
      0 (sP fun p => {p with tripped := true}) := by
  exact by decide +kernel

/-- `Obligations.NoSuchAddressStops`: a state and operands that meet the hypotheses of clause 1. -/
theorem test_noSuchAddressStops_c1 :
    (fun (p : Port) (a : MemAccess) (s : State) =>
      2 ^ 38 < a.addr + accessLen a.acc)
      .A {addr := 2^38, acc := .read 1} s0 := by
  exact by decide +kernel

/-- `Obligations.NoSuchAddressStops`: a state and operands that meet the hypotheses of clause 2. -/
theorem test_noSuchAddressStops_c2 :
    (fun (q : StackReq) (a n : Nat) (s : State) =>
      2 ^ 38 < a + n)
      .management (2^38) 1 s0 := by
  exact by decide +kernel

/-- `Obligations.NoSuchAddressStops`: a state and operands that meet the hypotheses of clause 3. -/
theorem test_noSuchAddressStops_c3 :
    (fun (q : StackReq) (a : Nat) (bs : List Byte) (s : State) =>
      2 ^ 38 < a + bs.length)
      .management (2^38-1) [1,2] s0 := by
  exact by decide +kernel

/-- `Obligations.NoSuchAddressStops`: a state and operands that meet the hypotheses of clause 4. -/
theorem test_noSuchAddressStops_c4 :
    (fun (q : StackReq) (a : Nat) (bs : List Byte) (s : State) =>
      2 ^ 38 < a + bs.length)
      .management (2^38-1) [1,2] s0 := by
  exact by decide +kernel

/-- `Obligations.EveryStepKeepsMemoriesCanonical`: a state and operands that meet the hypotheses of clause 1. -/
theorem test_everyStepKeepsMemoriesCanonical_c1 :
    (fun (s t : State) =>
      Canonical s ∧
      step s = .next t)
      State.reset (tick State.reset) := by
  exact ⟨⟨by decide +kernel, by decide +kernel, by decide +kernel, fun _ => rfl⟩, rfl⟩

/-- `Obligations.EveryStepKeepsRollbackCounters`: a state and operands that meet the hypotheses of clause 1. -/
theorem test_everyStepKeepsRollbackCounters_c1 :
    (fun (s t : State) =>
      step s = .next t)
      State.reset (tick State.reset) := by
  exact rfl

end Powering

end Sys2Proof.Tests
end

section
/-! The exactness of the lane arithmetic (02_residue_arithmetic R53–R57): the Barrett estimate for any two scales P and R with
P ≤ q, what the lane's conditional subtractions answer, and the width of a modulus as bounds on q. -/

namespace Sys2Proof.Machine

/-! ## The width of a modulus (R53) -/

theorem bitLen_of_pos {q : Nat} (hq : 0 < q) : bitLen q = Nat.log2 q + 1 := if_neg (Nat.ne_of_gt hq)

theorem lt_two_pow_bitLen {q : Nat} (hq : 0 < q) : q < 2 ^ bitLen q := by
  rw [bitLen_of_pos hq]
  exact Nat.lt_log2_self

theorem two_pow_bitLen_pred_le {q : Nat} (hq : 0 < q) : 2 ^ (bitLen q - 1) ≤ q := by
  rw [bitLen_of_pos hq]
  exact Nat.log2_self_le (Nat.ne_of_gt hq)

/-- The scale of the reciprocal is the product of the scales of the two shifts of R54. -/
theorem two_pow_two_mul_bitLen {q : Nat} (hq : 0 < q) :
    2 ^ (2 * bitLen q) = 2 ^ (bitLen q - 1) * 2 ^ (bitLen q + 1) := by
  have hb : 2 * bitLen q = bitLen q - 1 + (bitLen q + 1) := by rw [bitLen_of_pos hq]; omega
  rw [hb, Nat.pow_add]

/-! ## The Barrett estimate (R55) -/

/-- The estimate never exceeds the quotient: each of its three divisions rounds down. -/
theorem scaledEstimate_mul_le {P R : Nat} (hP : 0 < P) (hR : 0 < R) (q x : Nat) :
    x / P * (P * R / q) / R * q ≤ x := by
  generalize hmu : P * R / q = mu
  have hmuq : mu * q ≤ P * R := hmu ▸ Nat.div_mul_le_self (P * R) q
  refine Nat.le_of_mul_le_mul_right ?_ (Nat.mul_pos hP hR)
  calc x / P * mu / R * q * (P * R) = x / P * mu / R * R * (P * q) := by ac_rfl
    _ ≤ x / P * mu * (P * q) := Nat.mul_le_mul_right _ (Nat.div_mul_le_self _ _)
    _ = x / P * P * (mu * q) := by ac_rfl
    _ ≤ x * (P * R) := Nat.mul_le_mul (Nat.div_mul_le_self _ _) hmuq

/-- The estimate is short by at most 2: the part ⌊x / P⌋ is below R and the reciprocal at most R, so that what the roundings of
the two lose is at most two units of the last division by R, and that division's own rounding less than one more. -/
theorem lt_scaledEstimate_add_three_mul {P R q x : Nat} (hP : 0 < P) (hPq : P ≤ q) (hx : x < P * R) :
    x < (x / P * (P * R / q) / R + 3) * q := by
  have hq : 0 < q := Nat.lt_of_lt_of_le hP hPq
  have hR : 0 < R := Nat.pos_of_mul_pos_left (Nat.zero_lt_of_lt hx)
  have ht1 : x / P < R := Nat.div_lt_of_lt_mul hx
  have hmu : P * R / q ≤ R := Nat.div_le_of_le_mul (Nat.mul_le_mul_right R hPq)
  have hxP := Nat.lt_mul_div_succ x hP
  have hPRq := Nat.lt_mul_div_succ (P * R) hq
  have ht3 := Nat.lt_mul_div_succ (x / P * (P * R / q)) hR
  generalize x / P = t1 at *
  generalize P * R / q = mu at *
  generalize t1 * mu / R = t3 at *
  have hcross : (t1 + 1) * (mu + 1) ≤ (t3 + 3) * R := by
    rw [Nat.mul_comm R, Nat.add_mul] at ht3
    rw [Nat.add_mul, Nat.mul_add, Nat.add_mul]
    omega
  refine Nat.lt_of_mul_lt_mul_right (a := P * R) ?_
  calc x * (P * R) < P * (t1 + 1) * (q * (mu + 1)) := Nat.mul_lt_mul'' hxP hPRq
    _ = (t1 + 1) * (mu + 1) * (P * q) := by ac_rfl
    _ ≤ (t3 + 3) * R * (P * q) := Nat.mul_le_mul_right _ hcross
    _ = (t3 + 3) * q * (P * R) := by ac_rfl

/-- The estimate t3 of R54 of ⌊x / q⌋, by the width and the reciprocal that the lane is given. -/
def barrettEstimate (b mu x : Nat) : Nat := x / 2 ^ (b - 1) * mu / 2 ^ (b + 1)

theorem barrettEstimate_bounds {q x : Nat} (hq : 0 < q) (hx : x < 2 ^ (2 * bitLen q)) :
    barrettEstimate (bitLen q) (barrettMu q) x * q ≤ x ∧
      x < (barrettEstimate (bitLen q) (barrettMu q) x + 3) * q := by
  rw [two_pow_two_mul_bitLen hq] at hx
  rw [barrettEstimate, barrettMu, two_pow_two_mul_bitLen hq]
  exact ⟨scaledEstimate_mul_le (Nat.two_pow_pos _) (Nat.two_pow_pos _) q x,
    lt_scaledEstimate_add_three_mul (Nat.two_pow_pos _) (two_pow_bitLen_pred_le hq) hx⟩

/-! ## The conditional subtractions (R54, R57) -/

theorem condSub_eq_mod {q r : Nat} (hr : r < 2 * q) : (if r ≥ q then r - q else r) = r % q := by
  split
  next h => rw [Nat.mod_eq_sub_mod h, Nat.mod_eq_of_lt (by omega)]
  next h => exact (Nat.mod_eq_of_lt (by omega)).symm

theorem condSubTwice_eq_mod {q r : Nat} (hr : r < 3 * q) :
    (if r ≥ 2 * q then r - 2 * q else if r ≥ q then r - q else r) = r % q := by
  split
  next h =>
    rw [← Nat.mod_eq_of_lt (by omega : r - 2 * q < q), Nat.mul_comm, Nat.sub_mul_mod (by omega)]
  next h => exact condSub_eq_mod (by omega)

/-- A residue of a modulus of at most 36 bits is a word: the last reduction of an operation changes nothing. -/
theorem mod_mod_two_pow_36 {q : Nat} (hq : 0 < q) (hq36 : q < 2 ^ 36) (x : Nat) : x % q % 2 ^ 36 = x % q :=
  Nat.mod_eq_of_lt (Nat.lt_trans (Nat.mod_lt x hq) hq36)

/-- The 38-bit difference of R54 is exact: it is below 3q, hence below 2^38. -/
theorem mulAdd_eq_mod {q b mu a c d : Nat} (hq36 : q < 2 ^ 36)
    (hle : barrettEstimate b mu (a * c + d) * q ≤ a * c + d)
    (hlt : a * c + d < (barrettEstimate b mu (a * c + d) + 3) * q) :
    mulAdd q b mu a c d = (a * c + d) % q := by
  have hq : 0 < q := Nat.pos_of_mul_pos_left (Nat.zero_lt_of_lt hlt)
  simp only [mulAdd]
  rw [← barrettEstimate]
  generalize a * c + d = x at *
  generalize barrettEstimate b mu x = t3 at *
  have hr : x - t3 * q < 3 * q := by rw [Nat.add_mul] at hlt; omega
  have hexact : (((x : Int) - (t3 * q : Nat)) % (2 ^ 38 : Nat)).toNat = x - t3 * q := by omega
  rw [hexact, condSubTwice_eq_mod hr, mod_mod_two_pow_36 hq hq36]
  rw [Nat.mul_comm] at hle ⊢
  exact Nat.sub_mul_mod hle

/-! ## The lane operations on residues (R55, R57) -/

section
variable {m : Modulus} {a c d : Nat}

theorem laneMulAdd_eq_mod (hq : 0 < m.q) (hq36 : m.q < 2 ^ 36) (hb : m.b = bitLen m.q) (hmu : m.mu = barrettMu m.q)
    (hx : a * c + d < 2 ^ (2 * m.b)) : laneMulAdd m a c d = (a * c + d) % m.q := by
  rw [hb] at hx
  obtain ⟨hle, hlt⟩ := barrettEstimate_bounds hq hx
  rw [laneMulAdd, hb, hmu]
  exact mulAdd_eq_mod hq36 hle hlt

/-- In-range inputs meet the condition of R55: x ≤ (q - 1)² + (q - 1) < q². -/
theorem mul_add_lt_two_pow_of_inRange {q : Nat} (ha : a < q) (hc : c < q) (hd : d < q) :
    a * c + d < 2 ^ (2 * bitLen q) := by
  have hq : q ≤ 2 ^ bitLen q := Nat.le_of_lt (lt_two_pow_bitLen (Nat.zero_lt_of_lt ha))
  calc a * c + d < a * q + q := Nat.add_lt_add_of_le_of_lt (Nat.mul_le_mul_left a (Nat.le_of_lt hc)) hd
    _ = (a + 1) * q := (Nat.succ_mul a q).symm
    _ ≤ q * q := Nat.mul_le_mul_right q ha
    _ ≤ 2 ^ bitLen q * 2 ^ bitLen q := Nat.mul_le_mul hq hq
    _ = 2 ^ (2 * bitLen q) := by rw [Nat.two_mul, Nat.pow_add]

theorem laneAdd_eq_mod (hq36 : m.q < 2 ^ 36) (ha : a < m.q) (hc : c < m.q) : laneAdd m a c = (a + c) % m.q := by
  rw [laneAdd, condSub_eq_mod (by omega), mod_mod_two_pow_36 (Nat.zero_lt_of_lt ha) hq36]

theorem laneSub_eq_mod (hq36 : m.q < 2 ^ 36) (ha : a < m.q) (hc : c < m.q) :
    laneSub m a c = (a + (m.q - c)) % m.q := by
  have hexact : (((a : Int) - c + m.q) % (2 ^ 38 : Nat)).toNat = a + (m.q - c) := by omega
  rw [laneSub, hexact, condSub_eq_mod (by omega), mod_mod_two_pow_36 (Nat.zero_lt_of_lt ha) hq36]

theorem laneNeg_eq_mod (hq36 : m.q < 2 ^ 36) (ha : a < m.q) : laneNeg m a = (m.q - a) % m.q := by
  unfold laneNeg
  split
  next h0 => rw [h0, Nat.sub_zero, Nat.mod_self]
  next h0 => rw [Nat.mod_eq_of_lt (by omega)]; omega

end

/-- Settles O6: the bounds of the Barrett estimate at the scales 2^(b - 1) and 2^(b + 1), and from them each lane operation. -/
theorem laneArithmeticIsExact : Obligations.LaneArithmeticIsExact := by
  unfold Obligations.LaneArithmeticIsExact
  intro m hq hq36 hb hmu a c d
  refine ⟨fun hx => ⟨?_, ?_, laneMulAdd_eq_mod hq hq36 hb hmu hx⟩, fun ha hc hd => ?_⟩
  · rw [hb] at hx ⊢
    rw [hmu]
    exact (Nat.le_div_iff_mul_le hq).2 (barrettEstimate_bounds hq hx).1
  · rw [hb] at hx ⊢
    rw [hmu]
    exact Nat.le_of_lt_succ ((Nat.div_lt_iff_lt_mul hq).2 (barrettEstimate_bounds hq hx).2)
  · have hx {d : Nat} (hd : d < m.q) : a * c + d < 2 ^ (2 * m.b) := hb ▸ mul_add_lt_two_pow_of_inRange ha hc hd
    exact ⟨hx hd, laneMulAdd_eq_mod hq hq36 hb hmu (hx hd), laneMulAdd_eq_mod hq hq36 hb hmu (hx hq),
      laneAdd_eq_mod hq36 ha hc, laneSub_eq_mod hq36 ha hc, laneNeg_eq_mod hq36 ha, rfl⟩

end Sys2Proof.Machine
end

section
/-! `AUTO` in the NTT domain (03_transforms R100): the input positions that its outputs take, that they are all of the limb's
positions, and what follows for the limb. -/

namespace Sys2Proof.Machine

/-! ## The source positions of an automorphism in the NTT domain (R100) -/

/-- The input position k' that output position k takes under the element g at degree n. -/
def autoSource (g n k : Nat) : Nat := ((2 * k + 1) * g % (2 * n) - 1) / 2

theorem autoNtt_eq_map_autoSource (g : Nat) (l : Limb) :
    autoNtt g l = ((List.range l.length).map (autoSource g l.length)).map fun k => l.getD k 0 := by
  simp [autoNtt, autoSource]

@[simp] theorem length_autoNtt (g : Nat) (l : Limb) : (autoNtt g l).length = l.length := by
  simp [autoNtt]

section
variable {g n k j : Nat}

/-- The exponent of the input position is an odd residue modulo 2n, as g is odd: no rounding takes place. -/
theorem two_mul_autoSource_add_one (hg : g % 2 = 1) (n k : Nat) :
    2 * autoSource g n k + 1 = (2 * k + 1) * g % (2 * n) := by
  have hodd : (2 * k + 1) * g % (2 * n) % 2 = 1 := by
    rw [Nat.mod_mul_right_mod, Nat.mul_mod, hg, Nat.mul_add_mod]
  unfold autoSource
  omega

theorem autoSource_lt (hg : g % 2 = 1) (hn : 0 < n) : autoSource g n k < n := by
  have hsrc := two_mul_autoSource_add_one hg n k
  have hlt := Nat.mod_lt ((2 * k + 1) * g) (Nat.mul_pos Nat.two_pos hn)
  omega

theorem eq_autoSource (hg : g % 2 = 1) (hj : j < n) (h : (2 * j + 1) % (2 * n) = (2 * k + 1) * g % (2 * n)) :
    j = autoSource g n k := by
  have hsrc := two_mul_autoSource_add_one hg n k
  rw [Nat.mod_eq_of_lt (by omega)] at h
  omega

/-- Two outputs with one source: 2n divides (2k - 2j) × g, hence 2k - 2j, which is below 2n. -/
theorem le_of_autoSource_eq (hg : g % 2 = 1) (hgn : Nat.Coprime (2 * n) g) (hk : k < n)
    (h : autoSource g n k = autoSource g n j) : k ≤ j := by
  have hmod : (2 * k + 1) * g % (2 * n) = (2 * j + 1) * g % (2 * n) := by
    rw [← two_mul_autoSource_add_one hg, ← two_mul_autoSource_add_one hg, h]
  have hdvd : 2 * n ∣ (2 * k + 1 - (2 * j + 1)) * g := by
    rw [Nat.sub_mul]
    exact Nat.dvd_of_mod_eq_zero (Nat.sub_mod_eq_zero_of_mod_eq hmod)
  have hzero := Nat.eq_zero_of_dvd_of_lt (hgn.dvd_of_dvd_mul_right hdvd) (by omega)
  omega

theorem autoSource_inj (hg : g % 2 = 1) (hgn : Nat.Coprime (2 * n) g) (hk : k < n) (hj : j < n)
    (h : autoSource g n k = autoSource g n j) : k = j :=
  Nat.le_antisymm (le_of_autoSource_eq hg hgn hk h) (le_of_autoSource_eq hg hgn hj h.symm)

end

theorem coprime_two_mul_two_pow {g : Nat} (hg : g % 2 = 1) (logN : Nat) : Nat.Coprime (2 * 2 ^ logN) g := by
  rw [← Nat.pow_succ']
  exact Nat.Coprime.pow_left _ (by rw [Nat.coprime_iff_gcd_eq_one, Nat.gcd_rec, hg, Nat.gcd_one_left])

/-- n distinct numbers below n are all of them: another one beside them would make n + 1 distinct ones below n. -/
theorem perm_range_of_nodup {n : Nat} {l : List Nat} (hl : l.Nodup) (hlt : ∀ x ∈ l, x < n) (hlen : l.length = n) :
    l.Perm (List.range n) := by
  refine (List.perm_ext_iff_of_nodup hl List.nodup_range).2 fun x => ?_
  rw [List.mem_range]
  refine ⟨hlt x, fun hx => Decidable.byContradiction fun hxl => ?_⟩
  have hsub : x :: l ⊆ List.range n :=
    List.cons_subset.2 ⟨List.mem_range.2 hx, fun y hy => List.mem_range.2 (hlt y hy)⟩
  have hle := (List.nodup_cons.2 ⟨hxl, hl⟩).length_le_of_subset hsub
  rw [List.length_cons, List.length_range, hlen] at hle
  omega

theorem nodup_map_autoSource {g n : Nat} (hg : g % 2 = 1) (hgn : Nat.Coprime (2 * n) g) :
    ((List.range n).map (autoSource g n)).Nodup := by
  refine List.pairwise_map.2 (List.nodup_range.imp_of_mem fun hk hj hne h => hne ?_)
  exact autoSource_inj hg hgn (List.mem_range.1 hk) (List.mem_range.1 hj) h

theorem map_autoSource_perm_range {g n : Nat} (hg : g % 2 = 1) (hgn : Nat.Coprime (2 * n) g) :
    ((List.range n).map (autoSource g n)).Perm (List.range n) := by
  refine perm_range_of_nodup (nodup_map_autoSource hg hgn) (fun x hx => ?_) (by simp)
  obtain ⟨k, hk, rfl⟩ := List.mem_map.1 hx
  exact autoSource_lt hg (Nat.zero_lt_of_lt (List.mem_range.1 hk))

theorem map_getD_range (l : Limb) : ((List.range l.length).map fun k => l.getD k 0) = l := by
  refine List.ext_getElem (by simp) fun k _ hk => ?_
  simp [hk]

theorem autoNtt_perm {g : Nat} {l : Limb} (hg : g % 2 = 1) (hgn : Nat.Coprime (2 * l.length) g) : (autoNtt g l).Perm l := by
  have hperm := (map_autoSource_perm_range hg hgn).map fun k => l.getD k 0
  rwa [← autoNtt_eq_map_autoSource, map_getD_range] at hperm

theorem getElem?_autoNtt {g k : Nat} {l : Limb} (hg : g % 2 = 1) (hk : k < l.length) :
    (autoNtt g l)[k]? = l[autoSource g l.length k]? := by
  have hsrc : autoSource g l.length k < l.length := autoSource_lt hg (by omega)
  simp [autoNtt_eq_map_autoSource, hk, hsrc]

/-- Settles O8: the source positions of the n outputs are n distinct positions below n, as g is prime to 2n. -/
theorem nttDomainAutomorphism : Obligations.NttDomainAutomorphism := by
  unfold Obligations.NttDomainAutomorphism
  intro g logN l hl hg _
  have hgn : Nat.Coprime (2 * l.length) g := hl ▸ coprime_two_mul_two_pow hg logN
  refine ⟨length_autoNtt g l, autoNtt_perm hg hgn, fun k k' hk hk' h => ?_⟩
  rw [getElem?_autoNtt hg hk, ← eq_autoSource hg hk' h]

end Sys2Proof.Machine
end

section
/-! The commands that a zero mask or count makes a no-op (03_transforms R112, 09_command_streams R306): how such a command
leaves its Stroke core, and the condition of each. -/

namespace Sys2Proof.Machine

section
variable {sh : Fin 64} {w : Cmd} {s : State} {tid : Nat} {t : Task}

/-- A command of which the mask or count is zero completes without an effect of its own, whatever its other fields hold. -/
theorem issue_zero {n : Native} {L : Nat} (hi : Safety.Issues s L tid t) (hz : n.zero = true) :
    issue L n w s = Safety.after s L t n.enc.op w s := by
  rw [issue_of_issues hi, run_of_zero hz]
  exact restsAfter_running hi.1

theorem gives_after_of_zero {i : Instr} {n : Native} {L op : Nat} (hx : exec i s = .next (issue L n w s))
    (hop : n.enc.op = op) (hi : Safety.Issues s L tid t) (hz : n.zero = true) :
    Safety.Gives i s fun v => v = Safety.after s L t op w s :=
  hop ▸ ⟨_, hx, issue_zero hi hz⟩

/-! ## When a command's mask or count is zero -/

@[simp] theorem lane_zero {op : Nat} {o : LaneOp} : (lane sh op o w).zero = true ↔ w.opc = 0 := decide_eq_true_iff

@[simp] theorem xform_zero {op : Nat} {k : Xform} : (xform sh op k w).zero = true ↔ cf w 16 16 = 1 ∧ w.opb = 0 := by
  simp [xform, native]

@[simp] theorem natBconv_zero : (natBconv sh w).zero = true ↔ w.opb = 0 ∨ w.opc = 0 := by
  simp [natBconv, native]

@[simp] theorem natKip_zero : (natKip sh w).zero = true ↔ cf w 21 17 = 0 := decide_eq_true_iff

@[simp] theorem vecOp_zero {op : Nat} {o : VOp} : (vecOp sh op o w).zero = true ↔ vcount w = 0 := decide_eq_true_iff

@[simp] theorem natVload_zero : (natVload sh w).zero = true ↔ vcount w = 0 := decide_eq_true_iff

@[simp] theorem natLvldrop_zero : (natLvldrop sh w).zero = true ↔ immF w 5 0 = 0 := decide_eq_true_iff

@[simp] theorem natHint_zero : (natHint sh w).zero = true ↔ immF w 15 0 = 0 := decide_eq_true_iff

@[simp] theorem natTcopy_zero : (natTcopy sh w).zero = true ↔ w.form = 0 ∧ immF w 23 0 = 0 := by
  simp [natTcopy, native]

/-! ## The groups of R112 and R306 -/

theorem lane_noOp {i : Instr} {op : Nat} {o : LaneOp} (hx : exec i s = .next (issue sh (lane sh op o w) w s))
    (hi : Safety.Issues s sh tid t) (hz : w.opc = 0) : Safety.Gives i s fun v => v = Safety.after s sh t op w s :=
  gives_after_of_zero hx rfl hi (lane_zero.2 hz)

theorem xform_noOp {i : Instr} {op : Nat} {k : Xform} (hx : exec i s = .next (issue sh (xform sh op k w) w s))
    (hi : Safety.Issues s sh tid t) (hl : cf w 16 16 = 1) (hz : w.opb = 0) :
    Safety.Gives i s fun v => v = Safety.after s sh t op w s :=
  gives_after_of_zero hx rfl hi (xform_zero.2 ⟨hl, hz⟩)

end

/-- Settles O3: each command is issued by its Stroke core with its own condition of a zero mask or count. -/
theorem zeroCountIsANoOp : Obligations.ZeroCountIsANoOp := by
  unfold Obligations.ZeroCountIsANoOp
  intro sh w s tid t hi
  refine ⟨fun hz => ?lane, fun hl hz => ?xform, fun hz => ?bconv, fun hz => ?kip, fun hz => ?vector, fun hz => ?lvldrop,
    fun hz => ?hint, fun hf hz => ?tcopy⟩
  case lane =>
    exact ⟨lane_noOp rfl hi hz, lane_noOp rfl hi hz, lane_noOp rfl hi hz, lane_noOp rfl hi hz, lane_noOp rfl hi hz,
      lane_noOp rfl hi hz⟩
  case xform => exact ⟨xform_noOp rfl hi hl hz, xform_noOp rfl hi hl hz, xform_noOp rfl hi hl hz⟩
  case bconv => exact gives_after_of_zero rfl rfl hi (natBconv_zero.2 hz)
  case kip => exact gives_after_of_zero rfl rfl hi (natKip_zero.2 hz)
  case vector =>
    exact ⟨gives_after_of_zero rfl rfl hi (vecOp_zero.2 hz), gives_after_of_zero rfl rfl hi (natVload_zero.2 hz)⟩
  case lvldrop => exact gives_after_of_zero rfl rfl hi (natLvldrop_zero.2 hz)
  case hint => exact gives_after_of_zero rfl rfl hi (natHint_zero.2 hz)
  case tcopy => exact gives_after_of_zero rfl rfl hi (natTcopy_zero.2 ⟨hf, hz⟩)

end Sys2Proof.Machine
end
